-- ==== Sys2Proof/Word.lean ====
section
/-! DEFINITION. The word types of the RCN-2256's formats and the plainest arithmetic on them. -/
namespace Sys2Proof

/-- One byte of a frame, header or burst. -/
abbrev Byte := BitVec 8

/-- A sequence of bytes, first sent first (the tables of `11_formats_and_pins.md`). -/
abbrev Bytes := List Byte

/-- A 16-bit field: a frame's reference, a numeric setting, a cycle number. -/
abbrev Word16 := BitVec 16

/-- A 32-bit field: a dwelling reference, a notice mask. -/
abbrev Word32 := BitVec 32

/-- A terminal's 64-bit serial number. -/
abbrev Serial := BitVec 64

/-- A trunk (Ethernet) address of six bytes. -/
abbrev Address := BitVec 48

/-- The 16-bit cycle number, which wraps from 65,535 to 0 (R28). -/
abbrev CycleNumber := BitVec 16

/-- A counter of the part: a 16-bit count that stops at 65,535 (Conventions, Counters). -/
def satInc16 (n : Nat) : Nat := if n < 65535 then n + 1 else n

/-- A counter raised `k` times. -/
def satAdd16 (n k : Nat) : Nat := if n + k < 65535 then n + k else max n 65535

/-- An increment that stops at a bound. -/
def incUpTo (bound n : Nat) : Nat := if n < bound then n + 1 else n

end Sys2Proof
end

