-- ==== Sys2Proof/Syntax.lean ====
section
/-! DEFINITION. The commands of the block: one constructor of `Instr` for every row of spec/opcode_table.json, with
the operands the rule of the row gives the event. An event that the environment times (a burst, a span end, a build)
names the feeder, and where the rule speaks of an upstream cycle, its number. -/
namespace Sys2Proof

/-- The two feeders. -/
inductive FeederId where
  | A
  | B
deriving DecidableEq, Repr

/-- The other of the two feeders. -/
def FeederId.other : FeederId → FeederId
  | .A => .B
  | .B => .A

/-- The levels of the two strap pins at a sampling (R198, R211); true is high. -/
structure Straps where
  mode1 : Bool
  mode0 : Bool
deriving DecidableEq, Repr

/-- What comes with a command when its management frame is taken: the PLAN_GUARD level sampled for it (R211; true is
high, asserted), the frame's reference (R188) and the frame's two addresses, which its reply uses (R206). -/
structure Taking where
  guardPin : Bool
  reference : Word16
  destination : Address
  source : Address
deriving DecidableEq, Repr

/-- The arguments of PLAN_WRITE as the frame carries them (R76, R207). -/
structure PlanArgs where
  index : Word16
  kind : Byte
  serial : Serial
  mask : BitVec 64
  dwelling : Word32
  expected : Byte
  profile : Byte
  flags : Byte
  limit : Word16
deriving DecidableEq, Repr

/-- The arguments of PROFILE_WRITE as the frame carries them (R85, R207). -/
structure ProfileArgs where
  index : Byte
  dataLength : Word16
  dataInterval : Word16
  presence : Word16
  missLimit : Word16
  grace : Word16
  policy : Byte
deriving DecidableEq, Repr

/-- The decoded content of a CLEAN burst (section 11.5). A DATA burst carries its frames, each in trunk format without
estate tag and with its own frame check. -/
inductive BurstContent where
  | callIn (serial : Serial) (slot : Byte) (attempts : Byte) (firmware : Byte)
  | probe (handle : Byte) (serial : Serial)
  | check (handle : Byte) (condition : Byte)
  | data (handle : Byte) (frames : List Bytes)
  | unknown (type : Byte)
deriving DecidableEq, Repr

/-- Where in a cycle build the naming of R99 is taken. R101, R153 and R59 leave the order to chance. -/
inductive NamingPoint where
  | beforeAward
  | beforeDispatch
  | afterDispatch
  | afterReoffers
  | afterPlacement
deriving DecidableEq, Repr

/-- The orders within one cycle build that the manual leaves open: where the naming falls, and whether a message
offered by a dispatch report stands in the queue for the rest of the same header's taking (R153, R162). -/
structure BuildOrder where
  naming : NamingPoint
  reportsJoin : Bool
deriving DecidableEq, Repr

/-- A command of section 10.3 with its arguments, as a management frame carries it (R207). -/
inductive Command where
  | identify
  | partReset
  | statusRead (clear : Byte)
  | watchdogSet (mode : Byte) (period : Word16)
  | holdoverExit
  | noticeMaskSet (mask : Word32)
  | feederSet (feeder : Byte) (setting : Byte) (value : Word16) (high : Word16)
  | feederOpen (feeder : Byte)
  | feederClose (feeder : Byte)
  | feederPause (feeder : Byte)
  | feederResume (feeder : Byte)
  | feederStatus (feeder : Byte) (clear : Byte)
  | watchSet (feeder : Byte) (mode : Byte) (mask : Byte) (compare : Byte)
  | strayClear (feeder : Byte)
  | planWrite (args : PlanArgs)
  | planRead (index : Word16)
  | planErase (index : Word16)
  | freezeSet (range : Byte)
  | freezeLock
  | guardSet (value : Byte)
  | profileWrite (args : ProfileArgs)
  | profileRead (index : Byte)
  | profileLock (index : Byte)
  | profileUnlock (index : Byte)
  | profilesLockAll
  | arrivalsRead (feeder : Byte)
  | admitArrival (feeder : Byte) (serial : Serial) (profile : Byte)
  | refuse (feeder : Byte) (serial : Serial) (bar : Byte)
  | terminalRead (feeder : Byte) (handle : Byte)
  | terminalFind (serial : Serial)
  | terminalEject (feeder : Byte) (handle : Byte) (bar : Byte)
  | terminalRelevel (feeder : Byte) (handle : Byte)
  | barRead
  | barAdd (serial : Option Serial) (hold : Option Word16)
  | barRemove (serial : Serial)
deriving DecidableEq, Repr

/-- The rows of spec/opcode_table.json. -/
inductive Instr where
  -- resets, power and the trunk
  | powerOnReset
  | pinReset
  | resetRelease (straps : Straps)
  | partResetEffect (straps : Straps)
  | trunkFrameArrival (frame : Bytes)
  | managementFrameTake (guardPin : Bool)
  -- the commands of section 10.3, each in a valid management frame that the Management Unit takes
  | identify (t : Taking)
  | partReset (t : Taking)
  | statusRead (t : Taking) (clear : Byte)
  | watchdogSet (t : Taking) (mode : Byte) (period : Word16)
  | holdoverExit (t : Taking)
  | noticeMaskSet (t : Taking) (mask : Word32)
  | feederSet (t : Taking) (feeder : Byte) (setting : Byte) (value : Word16) (high : Word16)
  | feederOpen (t : Taking) (feeder : Byte)
  | feederClose (t : Taking) (feeder : Byte)
  | feederPause (t : Taking) (feeder : Byte)
  | feederResume (t : Taking) (feeder : Byte)
  | feederStatus (t : Taking) (feeder : Byte) (clear : Byte)
  | watchSet (t : Taking) (feeder : Byte) (mode : Byte) (mask : Byte) (compare : Byte)
  | strayClear (t : Taking) (feeder : Byte)
  | planWrite (t : Taking) (args : PlanArgs)
  | planRead (t : Taking) (index : Word16)
  | planErase (t : Taking) (index : Word16)
  | freezeSet (t : Taking) (range : Byte)
  | freezeLock (t : Taking)
  | guardSet (t : Taking) (value : Byte)
  | profileWrite (t : Taking) (args : ProfileArgs)
  | profileRead (t : Taking) (index : Byte)
  | profileLock (t : Taking) (index : Byte)
  | profileUnlock (t : Taking) (index : Byte)
  | profilesLockAll (t : Taking)
  | arrivalsRead (t : Taking) (feeder : Byte)
  | admitArrival (t : Taking) (feeder : Byte) (serial : Serial) (profile : Byte)
  | refuse (t : Taking) (feeder : Byte) (serial : Serial) (bar : Byte)
  | terminalRead (t : Taking) (feeder : Byte) (handle : Byte)
  | terminalFind (t : Taking) (serial : Serial)
  | terminalEject (t : Taking) (feeder : Byte) (handle : Byte) (bar : Byte)
  | terminalRelevel (t : Taking) (feeder : Byte) (handle : Byte)
  | barRead (t : Taking)
  | barAdd (t : Taking) (serial : Option Serial) (hold : Option Word16)
  | barRemove (t : Taking) (serial : Serial)
  -- the trunk transmitter
  | trunkFrameBoundary (straps : Straps)
  -- the common cycle and its countdowns
  | cycleStart
  | quietEnd (feeder : FeederId)
  | purgeEnd (feeder : FeederId)
  | drainExpiry (feeder : FeederId) (handle : Nat)
  | barHoldExpiry (serial : Serial)
  | decisionExpiry (feeder : FeederId) (serial : Serial)
  | recoveryExpiry (feeder : FeederId) (handle : Nat)
  | reHushWatchEnd (feeder : FeederId) (handle : Nat)
  | checkCountdownExpiry (feeder : FeederId) (handle : Nat)
  | dataCountdownExpiry (feeder : FeederId) (handle : Nat)
  | paceCountdownExpiry (feeder : FeederId) (handle : Nat)
  | gapCountdownExpiry (feeder : FeederId)
  | rootCountdownExpiry (feeder : FeederId)
  | watchdogPeriodEnd
  | watchdogExpiry
  -- the build and the upstream
  | cycleBuild (feeder : FeederId) (order : BuildOrder)
  | cleanBurst (feeder : FeederId) (cycle : CycleNumber) (m8 : Nat) (level : Nat) (content : BurstContent)
  | garbledBurst (feeder : FeederId) (cycle : CycleNumber) (m8 : Option Nat)
  | unassignedLight (feeder : FeederId) (cycle : CycleNumber) (m8 : Option Nat)
  | checkSpanEnd (feeder : FeederId) (cycle : CycleNumber) (handle : Nat)
  | callInWindowEnd (feeder : FeederId) (cycle : CycleNumber)
  | probeWindowEnd (feeder : FeederId) (cycle : CycleNumber)
  | upstreamCycleEnd (feeder : FeederId) (cycle : CycleNumber)
  | powerLoss
deriving DecidableEq, Repr

end Sys2Proof
end

