-- ==== Sys2Proof/Decode.lean ====
section
/-! DEFINITION. Decoding. The table of operations and events gives no row any bits, so no word spells a command. The
argument bytes of a management frame are read in Machine/Operands.lean. -/
namespace Sys2Proof

/-- The command a word spells by the table's bits: none, since the table gives no bits (log entry 1). -/
def decodeTableWord (_nbits _w : Nat) : Option Instr := none

end Sys2Proof
end

