-- ==== Sys2Proof/Config.lean ====
section
/-! DEFINITION. What the manual fixes once for every part, and the two numbers of IDENTIFY that each part carries
from manufacture and the manual does not give. -/
namespace Sys2Proof.Config

open Sys2Proof

/-- The vendor code IDENTIFY reports (R190). The manual gives no value: a free value (log entry 2). -/
opaque vendorCode : BitVec 16

/-- The design step IDENTIFY reports, "a number that the part carries from manufacture" (R190): a free value (log entry 2). -/
opaque designStep : BitVec 8

/-- The part number IDENTIFY reports (R190). -/
def partNumber : Nat := 2256

/-- TAG_TYPE after a power-on, pin or part reset (R177, R206). -/
def tagTypeReset : BitVec 16 := 0xA7C4#16

/-- The terminal response time T_resp of the turn-up protocol, in LU (R30). -/
def responseTime : Nat := 40

/-- The length of a cycle in LU (section 2.2). -/
def cycleLength : Nat := 16000

/-- The greatest number of grants in a grant map (R134). -/
def maxGrants : Nat := 64

/-- The length of a CHECK grant in LU (R134). -/
def checkLength : Nat := 48

/-- The width of a call-in slot in LU (R53). -/
def slotWidth : Nat := 16

/-- The length of a call-in or probe burst in LU (R51, R52). -/
def callInLength : Nat := 64

/-- LEVEL_SLACK, in level codes (R124). -/
def levelSlack : Nat := 2

/-- The bytes of one downstream cycle (R179). -/
def downstreamBytes : Nat := 19440

/-- Capacity of a feeder's Message Queue, both bands together (R146). -/
def queueCapacity : Nat := 32

/-- Capacity of the ordinary band (R146). -/
def ordinaryCapacity : Nat := 24

/-- Capacity of a feeder's Arrivals List (R87). -/
def arrivalsCapacity : Nat := 16

/-- Capacity of a feeder's expiry list (R88). -/
def expiryCapacity : Nat := 16

/-- Capacity of a feeder's split list (R68). -/
def splitCapacity : Nat := 24

/-- The longest subgroup prefix (R50, R68). -/
def maxSubgroupLength : Nat := 24

/-- Capacity of the Bar List (R22). -/
def barCapacity : Nat := 32

/-- Capacity of a feeder's downstream buffer (R176). -/
def downstreamCapacity : Nat := 64

/-- Capacity of the shared upstream buffer (R176). -/
def upstreamCapacity : Nat := 128

/-- Capacity of the management receive buffer (R176). -/
def managementCapacity : Nat := 8

/-- Capacity of the reply list (R176). -/
def replyCapacity : Nat := 16

/-- Capacity of the notice queue (R186). -/
def noticeCapacity : Nat := 64

end Sys2Proof.Config
end

