-- ==== Sys2Proof/Machine/State.lean ====
section
/-! DEFINITION. The state of the RCN-2256 as plain data, its values after reset, and the reasons a step can stop.
Every structure names the rule whose table it follows. -/
namespace Sys2Proof.Machine

open Sys2Proof

/-! ## Names -/

/-- The states of a record (R3). -/
inductive RecState where
  | free
  | named
  | confirming
  | probing
  | levelling
  | inService
  | suspect
  | huntHeld
  | hushed
  | ejected
deriving DecidableEq, Repr

/-- Reasons of ejection (R11), in the order of their codes (R208). -/
inductive EjectReason where
  | ordered
  | silent
  | mainsLost
  | noConfirm
  | stray
  | rebooted
  | outOfReach
deriving DecidableEq, Repr

/-- Reasons an arrival is HELD (R87), in the order of their codes (R208). -/
inductive HeldReason where
  | wrongFeeder
  | planHold
  | holdover
  | patternFull
  | unplanned
deriving DecidableEq, Repr

/-- The state a HUNT_HELD record was taken from (R3). -/
inductive HeldFrom where
  | inService
  | suspect
deriving DecidableEq, Repr

/-- Kinds of plan entry (R74). -/
inductive PlanKind where
  | exact
  | pattern
deriving DecidableEq, Repr

/-- The expected feeder of a plan entry (R74). -/
inductive Expected where
  | A
  | B
  | any
deriving DecidableEq, Repr

/-- The states of a feeder (R27). -/
inductive FeederState where
  | closed
  | quieting
  | purging
  | opened
  | paused
deriving DecidableEq, Repr

/-- Reach classes (R33). -/
inductive Reach where
  | near
  | mid
  | far
  | extended
deriving DecidableEq, Repr

/-- SPREAD: the slots of a call-in window (R32). -/
inductive Spread where
  | s8
  | s16
  | s32
  | s64
deriving DecidableEq, Repr

/-- FAN: the children of a split (R32). -/
inductive Fan where
  | f2
  | f4
  | f8
deriving DecidableEq, Repr

/-- POLL_ORDER (R32, R70). -/
inductive PollOrder where
  | sequential
  | interleaved
deriving DecidableEq, Repr

/-- Recovery policies of a profile (R83). -/
inductive Policy where
  | off
  | try3x64
  | try3x512
  | endless512
deriving DecidableEq, Repr

/-- Freeze ranges (R80). -/
inductive FreezeRange where
  | none
  | upper64
  | upper128
  | upper256
  | lower64
  | lower128
  | lower256
  | all
deriving DecidableEq, Repr

/-- Hunt states (R155). -/
inductive HuntState where
  | idle
  | hunting
  | stopped
deriving DecidableEq, Repr

/-- Phases of a hunt target (R155). -/
inductive TargetPhase where
  | hushOffered
  | watching
  | releasing
deriving DecidableEq, Repr

/-- Modes of the condition watch (R173). -/
inductive WatchMode where
  | event
  | matching
deriving DecidableEq, Repr

/-- Watchdog modes (R198). -/
inductive WatchdogMode where
  | off
  | afterFirst
  | fromStart
deriving DecidableEq, Repr

/-- Refusal reasons of a reply (R188). -/
inductive Reason where
  | badArg
  | busy
  | wrongState
  | notFound
  | frozen
  | guarded
  | locked
  | claimed
  | duplicate
  | barred
  | holdover
  | tooLate
  | unknown
deriving DecidableEq, Repr

/-- The twenty kinds of notice, in the order of section 10.4. -/
inductive NoticeKind where
  | arrivalHeld
  | decisionExpired
  | named
  | admitted
  | ejected
  | rebooted
  | duplicateSerial
  | outOfReach
  | feederFull
  | levelEdge
  | reachEdge
  | dark
  | lightBack
  | stray
  | strayFound
  | strayCleared
  | strayUnresolved
  | mainsFailing
  | condition
  | holdover
deriving DecidableEq, Repr

/-! ## Terminal messages -/

/-- A queued terminal message's contents (R146). A DELAY offered after a probe carries its companion residue. -/
inductive Msg where
  | name (serial : Serial) (eqd : Nat)
  | delay (eqd : Nat) (companion : Option Int)
  | step (up : Bool)
  | admission
  | hush
  | resume
  | eject (reason : EjectReason)
deriving DecidableEq, Repr

/-- The kinds of queued message (R146). -/
inductive MsgKind where
  | name
  | delay
  | step
  | admission
  | hush
  | resume
  | eject
deriving DecidableEq, Repr

/-- A message with the handle of its record, as it stands in a band or in a header. -/
structure QMsg where
  handle : Nat
  msg : Msg
deriving DecidableEq, Repr

/-! ## Records -/

/-- A terminal record (R3 to R7). Its handle is its place in the table. -/
structure Record where
  state : RecState
  serial : Option Serial
  planLink : Option Nat
  profile : Fin 8
  heldFrom : Option HeldFrom
  eqd : Nat
  residue : Int
  eqAttempts : Nat
  driftRun : Int
  misplacedRun : Nat
  levelSetting : Nat
  lastLevel : Option Nat
  levelRun : Nat
  walking : Bool
  pace : Nat
  settle : Option CycleNumber
  checkCd : Nat
  dataCd : Nat
  grace : Nat
  miss : Nat
  suspectLeft : Nat
  confirmed : Byte
  candidate : Option Byte
  mainsFailing : Bool
  recAttempts : Nat
  recCd : Nat
  owed : Option Msg
  ejectReason : Option EjectReason
  drain : Option Nat
  reachEdge : Bool
  levelEdge : Bool
deriving DecidableEq, Repr

/-- The record with every field at its FREE value (R3 to R7). -/
def freeRecord : Record where
  state := .free
  serial := none
  planLink := none
  profile := 0
  heldFrom := none
  eqd := 0
  residue := 0
  eqAttempts := 0
  driftRun := 0
  misplacedRun := 0
  levelSetting := 0
  lastLevel := none
  levelRun := 0
  walking := false
  pace := 0
  settle := none
  checkCd := 0
  dataCd := 0
  grace := 0
  miss := 0
  suspectLeft := 0
  confirmed := 0#8
  candidate := none
  mainsFailing := false
  recAttempts := 0
  recCd := 0
  owed := none
  ejectReason := none
  drain := none
  reachEdge := false
  levelEdge := false

/-! ## Arrivals and subgroups -/

/-- What made an arrival READY, or why it is HELD (R87). -/
inductive ArrivalStatus where
  | readyPlan (profile : Fin 8)
  | readyCommand (profile : Fin 8)
  | held (reason : HeldReason) (countdown : Nat)
deriving DecidableEq, Repr

/-- A plan link of an arrival: the index, and the kind the entry had when it was linked, which R100 compares. -/
structure ArrivalLink where
  index : Nat
  kind : PlanKind
deriving DecidableEq, Repr

/-- The measurement fields of a call-in that the Equalisation Unit hands on (R107). -/
structure Measurement where
  eqd : Nat
  residue : Int
  level : Nat
  cycle : CycleNumber
  attempts : Byte
  firmware : BitVec 4
deriving DecidableEq, Repr

/-- An entry of an Arrivals List (R87). -/
structure Arrival where
  serial : Serial
  status : ArrivalStatus
  link : Option ArrivalLink
  measured : Measurement
deriving DecidableEq, Repr

/-- A subgroup (v, L) (R50). -/
structure Subgroup where
  value : Nat
  len : Nat
deriving DecidableEq, Repr

/-! ## Headers, grant maps and windows -/

/-- What a measurement window is for (R53, R54). -/
inductive WindowUse where
  | callIn (group : Subgroup) (spread : Spread)
  | probe (handle : Nat)
deriving DecidableEq, Repr

/-- A placed measurement window: its use, its grant offset A and its span end W. -/
structure Window where
  use : WindowUse
  grantOffset : Nat
  spanEnd : Nat
deriving DecidableEq, Repr

/-- Kinds of grant. -/
inductive GrantKind where
  | check
  | data
deriving DecidableEq, Repr

/-- A grant of a grant map (R132, R134). -/
structure Grant where
  kind : GrantKind
  handle : Nat
  offset : Nat
  length : Nat
  confirm : Bool
  answered : Bool
  garbled : Bool
deriving DecidableEq, Repr

/-- Kinds of cycle header (R29, R37, R38). -/
inductive HeaderKind where
  | quiet
  | purge
  | full
deriving DecidableEq, Repr

/-- A composed header (R132, R133), with the GUARD of its build (R134). A purge header's EJECT_ALL is written by its
kind (R38, R209). -/
structure Header where
  cycle : CycleNumber
  kind : HeaderKind
  window : Option Window
  guard : Nat
  grants : List Grant
  messages : List QMsg
deriving DecidableEq, Repr

/-- A held map: the grant map of a sent header (R132), whether its end is evaluated (R31), and what the front end has
reported in its upstream cycle so far (R43, R45). -/
structure HeldMap where
  cycle : CycleNumber
  evaluated : Bool
  window : Option Window
  guard : Nat
  grants : List Grant
  burstSeen : Bool
  lightSeen : Bool
deriving DecidableEq, Repr

/-- A window record of the Delay Meter (R60). -/
structure WindowRecord where
  feeder : FeederId
  cycle : CycleNumber
  window : Window
  collided : Bool
  clean : Nat
  answered : Bool
deriving DecidableEq, Repr

/-- The award of one cycle's measurement window (R60, R61). -/
structure Award where
  cycle : CycleNumber
  winner : Option FeederId
deriving DecidableEq, Repr

/-! ## Settings, counters, flags -/

/-- A feeder's settings (R32). -/
structure Settings where
  reach : Reach
  callInGap : Nat
  rootInterval : Nat
  spread : Spread
  fan : Fan
  pollOrder : PollOrder
  decisionCycles : Nat
  driftTrip : Nat
  driftRun : Nat
  levelLow : Nat
  levelHigh : Nat
  levelPace : Nat
  guard : Nat
  darkDebounce : Nat
  strayRun : Nat
deriving DecidableEq, Repr

/-- The defaults of R32. -/
def defaultSettings : Settings where
  reach := .mid
  callInGap := 4
  rootInterval := 64
  spread := .s32
  fan := .f4
  pollOrder := .sequential
  decisionCycles := 4096
  driftTrip := 2
  driftRun := 4
  levelLow := 20
  levelHigh := 40
  levelPace := 8
  guard := 16
  darkDebounce := 8
  strayRun := 4

/-- A feeder's nine counters (R47). -/
structure Counters where
  windows : Nat
  collisions : Nat
  malformed : Nat
  barredCallIns : Nat
  arrivalsOverflow : Nat
  misplaced : Nat
  dataDeferrals : Nat
  downstreamRefused : Nat
  upstreamDropped : Nat
deriving DecidableEq, Repr

/-- Every counter at 0. -/
def zeroCounters : Counters where
  windows := 0
  collisions := 0
  malformed := 0
  barredCallIns := 0
  arrivalsOverflow := 0
  misplaced := 0
  dataDeferrals := 0
  downstreamRefused := 0
  upstreamDropped := 0

/-- A feeder's four latched flags (R48). -/
structure Latched where
  wentDark : Bool
  straySeen : Bool
  arrivalsFull : Bool
  queueFull : Bool
deriving DecidableEq, Repr

/-- Every latched flag clear. -/
def clearLatched : Latched where
  wentDark := false
  straySeen := false
  arrivalsFull := false
  queueFull := false

/-- The hunt record of a feeder's Supervision Unit (R155). -/
structure Hunt where
  state : HuntState
  target : Option Nat
  phase : Option TargetPhase
  nextHandle : Nat
  hushCycle : Option CycleNumber
  watchCd : Nat
  absence : Nat
deriving DecidableEq, Repr

/-- The hunt record's reset values (R155). -/
def idleHunt : Hunt where
  state := .idle
  target := none
  phase := none
  nextHandle := 1
  hushCycle := none
  watchCd := 0
  absence := 0

/-- The condition watch settings (R155, R173). -/
structure Watch where
  mode : WatchMode
  mask : Byte
  compare : Byte
deriving DecidableEq, Repr

/-- A frame in a downstream buffer, without its estate tag (R176, R178, R206). -/
structure DownFrame where
  handle : Nat
  frame : Bytes
deriving DecidableEq, Repr

/-- The downstream cycle a feeder last began to send: its header and the frames sent behind it. The model's own record
of what the feeder puts on its line (log entry 21). -/
structure LineCycle where
  header : Header
  sent : List DownFrame
deriving DecidableEq, Repr

/-! ## A feeder -/

/-- Everything the part keeps once per feeder. -/
structure Feeder where
  -- Feeder Controller (R27)
  state : FeederState
  seqCount : Option Nat
  dark : Bool
  darkRun : Nat
  lightRun : Nat
  stray : Bool
  strayRun : Nat
  settings : Settings
  counters : Counters
  latched : Latched
  -- Terminal Table (R1): the record of handle h stands at place h - 1
  table : Vector Record 255
  -- Arrivals List and what stands beside it (R87, R88)
  arrivals : List Arrival
  expired : List Serial
  fullArmed : Bool
  -- Call-In Unit (R55); the head of the split list is its top
  splitList : List Subgroup
  splitCounter : Nat
  rootCd : Nat
  gapCd : Nat
  lastProbed : Nat
  -- Cycle Builder (R132); the wait of handle h stands at place h - 1
  nextHeader : Option Header
  heldMaps : List HeldMap
  rotation : Nat
  checkWait : Vector Nat 255
  -- Message Queue (R146), the head of each band first
  urgent : List QMsg
  ordinary : List QMsg
  -- Supervision Unit (R155)
  hunt : Hunt
  watch : Watch
  -- Traffic Gate, the feeder's side (R176)
  downBuffer : List DownFrame
  -- the line
  line : Option LineCycle
deriving DecidableEq, Repr

/-- A feeder after a power-on, pin or part reset. -/
def resetFeeder : Feeder where
  state := .closed
  seqCount := none
  dark := false
  darkRun := 0
  lightRun := 0
  stray := false
  strayRun := 0
  settings := defaultSettings
  counters := zeroCounters
  latched := clearLatched
  table := Vector.replicate 255 freeRecord
  arrivals := []
  expired := []
  fullArmed := true
  splitList := []
  splitCounter := 0
  rootCd := 0
  gapCd := 0
  lastProbed := 0
  nextHeader := none
  heldMaps := []
  rotation := 1
  checkWait := Vector.replicate 255 0
  urgent := []
  ordinary := []
  hunt := idleHunt
  watch := { mode := .event, mask := 0#8, compare := 0#8 }
  downBuffer := []
  line := none

/-! ## The shared blocks -/

/-- An entry of the Estate Plan (R74). -/
structure PlanEntry where
  inUse : Bool
  kind : PlanKind
  serial : Serial
  mask : Option (BitVec 64)
  dwelling : Word32
  expected : Expected
  profile : Fin 8
  preAuth : Bool
  auto : Bool
  hold : Bool
  limit : Option Nat
  count : Option Nat
  claim : Option (FeederId × Nat)
deriving DecidableEq, Repr

/-- An entry not in use (R74). -/
def unusedEntry : PlanEntry where
  inUse := false
  kind := .exact
  serial := 0#64
  mask := none
  dwelling := 0#32
  expected := .any
  profile := 0
  preAuth := false
  auto := false
  hold := false
  limit := none
  count := none
  claim := none

/-- A profile with its lock flag (R83). -/
structure Profile where
  dataLength : Nat
  dataInterval : Nat
  presence : Nat
  missLimit : Nat
  grace : Nat
  policy : Policy
  locked : Bool
deriving DecidableEq, Repr

/-- A profile's reset values (R83). -/
def resetProfile : Profile where
  dataLength := 0
  dataInterval := 1
  presence := 256
  missLimit := 3
  grace := 2
  policy := .off
  locked := false

/-- An entry of the Bar List (R22). -/
structure BarEntry where
  serial : Serial
  countdown : Nat
deriving DecidableEq, Repr

/-- The outcome of a command and the results it reports (R188). -/
inductive CmdResult where
  | done (results : Bytes)
  | clamped
  | refused (reason : Reason)
deriving DecidableEq, Repr

/-- A composed reply (R188), with the addresses of its frame (R206). -/
structure Reply where
  destination : Address
  source : Address
  reference : Word16
  code : Byte
  receipt : Nat
  result : CmdResult
deriving DecidableEq, Repr

/-- The reason a notice carries (R208). -/
inductive NoticeReason where
  | held (r : HeldReason)
  | eject (r : EjectReason)
deriving DecidableEq, Repr

/-- The fields of a notice beyond its kind and cycle number (section 10.4). -/
structure NoticeFields where
  feeder : Option FeederId := none
  handle : Option Nat := none
  serial : Option Serial := none
  dwelling : Option Word32 := none
  reason : Option NoticeReason := none
  level : Option Nat := none
  words : Option (Byte × Byte) := none
deriving DecidableEq, Repr

/-- A notice entry (R196). -/
structure Notice where
  kind : NoticeKind
  cycle : CycleNumber
  fields : NoticeFields
deriving DecidableEq, Repr

/-- A frame in the upstream buffer: the tag it was given and the frame as the burst carried it (R181). -/
structure UpFrame where
  tagType : BitVec 16
  feeder : FeederId
  handle : Nat
  frame : Bytes
deriving DecidableEq, Repr

/-- A frame the trunk transmitter sends (R183). A notice frame takes its addresses as its transmission begins (R206). -/
inductive TrunkOut where
  | reply (r : Reply)
  | notice (destination source : Address) (n : Notice)
  | data (f : UpFrame)
deriving DecidableEq, Repr

/-- How the last frame left the trunk transmitter: to its end, or cut off (R176). -/
structure TrunkSent where
  frame : TrunkOut
  intact : Bool
deriving DecidableEq, Repr

/-- Whether the part runs, is held in a reset, or has no power (R211, R205). -/
inductive Phase where
  | running
  | held
  | unpowered
deriving DecidableEq, Repr

/-- The levels of the input pins as last sampled or driven; true is high (section 11.6). -/
structure Pins where
  reset : Bool
  planGuard : Bool
  mode1 : Bool
  mode0 : Bool
deriving DecidableEq, Repr

/-! ## The machine -/

/-- The state of the part, and the queue of commands that wait for it. -/
structure State where
  -- the queue of the block, first in first out
  pending : List Instr
  -- pins and power
  phase : Phase
  pins : Pins
  -- the two feeders
  feederA : Feeder
  feederB : Feeder
  -- the common cycle (R28)
  cycle : CycleNumber
  -- the Delay Meter (R60)
  lastServed : FeederId
  award : Option Award
  windows : List WindowRecord
  -- the Estate Plan and its protection (R74, R80 to R82)
  plan : Vector PlanEntry 512
  freeze : FreezeRange
  freezeLock : Bool
  guardEnable : Bool
  -- the Profile Store (R83)
  profiles : Vector Profile 8
  allLock : Bool
  -- the Bar List (R22, R23)
  bars : List BarEntry
  barHold : Nat
  -- the Traffic Gate, shared side (R176, R206)
  upBuffer : List UpFrame
  mgmtBuffer : List Bytes
  replies : List Reply
  badTags : Nat
  mgmtDropped : Nat
  tagType : BitVec 16
  -- the trunk transmitter (R183)
  transmitting : Option TrunkOut
  lastSent : Option TrunkSent
  -- the Management Unit (R186)
  receipt : Nat
  holdover : Bool
  wdMode : WatchdogMode
  wdPeriod : Nat
  wdArmed : Bool
  wdCd : Nat
  noticeMask : Word32
  notices : List Notice
  noticeOverrun : Bool
  holdoverEntered : Bool
  resetPending : Bool
  -- the addresses R206 remembers
  lastManager : Option Address
  lastReplySource : Option Address
deriving DecidableEq, Repr

/-- The part held in a reset: every field at its reset value, with the command queue, the pins and the frame that last
left the trunk given. The watchdog fields that the straps decide wait for the sampling (log entry 3). -/
def State.heldReset (pending : List Instr) (phase : Phase) (pins : Pins) (lastSent : Option TrunkSent) : State where
  pending := pending
  phase := phase
  pins := pins
  feederA := resetFeeder
  feederB := resetFeeder
  cycle := 0#16
  lastServed := .B
  award := none
  windows := []
  plan := Vector.replicate 512 unusedEntry
  freeze := .none
  freezeLock := false
  guardEnable := false
  profiles := Vector.replicate 8 resetProfile
  allLock := false
  bars := []
  barHold := 16384
  upBuffer := []
  mgmtBuffer := []
  replies := []
  badTags := 0
  mgmtDropped := 0
  tagType := Config.tagTypeReset
  transmitting := none
  lastSent := lastSent
  receipt := 0
  holdover := false
  wdMode := .off
  wdPeriod := 4096
  wdArmed := false
  wdCd := 0
  noticeMask := 0xFFFFF#32
  notices := []
  noticeOverrun := false
  holdoverEntered := false
  resetPending := false
  lastManager := none
  lastReplySource := none

/-- The machine right after a power-on reset has been released with both straps low (R198, R211; log entry 3). -/
def State.reset : State :=
  State.heldReset [] .running { reset := true, planGuard := true, mode1 := false, mode0 := false } none

/-- Faults: there is none. No rule of the manual stops the part with a fault, and no command ends in one. -/
inductive Fault where
deriving DecidableEq, Repr

/-- Refusals. -/
inductive Refusal where
  /-- Raised by an arm of `exec` for a row of the opcode table that has no meaning yet; safe, since the run stops. No
  arm raises it any more. -/
  | notModelled (mnemonic : String)
deriving DecidableEq, Repr

end Sys2Proof.Machine
end

