-- ==== Sys2Proof/Machine/Operands.lean ====
section
/-! DEFINITION. The operand forms of commands: the encodings of section 11.2, how each argument is read, which values
are unassigned, how numeric settings are clamped, and the code of every enumerated value in a report. -/
namespace Sys2Proof.Machine

open Sys2Proof

/-! ## Numbers as bytes -/

/-- A number in `k` bytes, most significant byte first (11, opening). -/
def beBytes : Nat → Nat → Bytes
  | 0, _ => []
  | k + 1, n => BitVec.ofNat 8 (n / 256 ^ k) :: beBytes k n

/-- The number that bytes stand for, most significant byte first. -/
def beNat (bs : Bytes) : Nat := bs.foldl (fun acc b => acc * 256 + b.toNat) 0

/-- The first `k` bytes read as a bit field, with the bytes behind them; none when fewer are left. -/
def readBv (k : Nat) (bs : Bytes) : Option (BitVec (8 * k) × Bytes) :=
  if bs.length < k then none else some (BitVec.ofNat (8 * k) (beNat (bs.take k)), bs.drop k)

/-- One byte read. -/
def readByte (bs : Bytes) : Option (Byte × Bytes) := readBv 1 bs

/-- Two bytes read. -/
def readWord16 (bs : Bytes) : Option (Word16 × Bytes) := readBv 2 bs

/-- Four bytes read. -/
def readWord32 (bs : Bytes) : Option (Word32 × Bytes) := readBv 4 bs

/-- Eight bytes read. -/
def readWord64 (bs : Bytes) : Option (BitVec 64 × Bytes) := readBv 8 bs

/-- An optional argument read: a presence byte, then the argument when present; a presence byte that is neither 00h
nor 01h reads as no command (R207). A BAR_ADD with such a byte for its hold value is thus answered BAD_ARG before R194's check
for CLAIMED, beside which R207 gives that refusal no place (DESIGN CHOICE, log entry 37). -/
def readOption {α : Type} (read : Bytes → Option (α × Bytes)) (bs : Bytes) : Option (Option α × Bytes) :=
  (readByte bs).bind fun p =>
    if p.1 = 0#8 then some (none, p.2)
    else if p.1 = 1#8 then (read p.2).map fun q => (some q.1, q.2)
    else none

/-! ## Command codes (section 10.3) -/

/-- The code of a command. -/
def commandCode : Command → Byte
  | .identify => 0x01#8
  | .partReset => 0x02#8
  | .statusRead _ => 0x03#8
  | .watchdogSet _ _ => 0x04#8
  | .holdoverExit => 0x05#8
  | .noticeMaskSet _ => 0x06#8
  | .feederSet _ _ _ _ => 0x10#8
  | .feederOpen _ => 0x11#8
  | .feederClose _ => 0x12#8
  | .feederPause _ => 0x13#8
  | .feederResume _ => 0x14#8
  | .feederStatus _ _ => 0x15#8
  | .watchSet _ _ _ _ => 0x16#8
  | .strayClear _ => 0x17#8
  | .planWrite _ => 0x20#8
  | .planRead _ => 0x21#8
  | .planErase _ => 0x22#8
  | .freezeSet _ => 0x23#8
  | .freezeLock => 0x24#8
  | .guardSet _ => 0x25#8
  | .profileWrite _ => 0x30#8
  | .profileRead _ => 0x31#8
  | .profileLock _ => 0x32#8
  | .profileUnlock _ => 0x33#8
  | .profilesLockAll => 0x34#8
  | .arrivalsRead _ => 0x40#8
  | .admitArrival _ _ _ => 0x41#8
  | .refuse _ _ _ => 0x42#8
  | .terminalRead _ _ => 0x50#8
  | .terminalFind _ => 0x51#8
  | .terminalEject _ _ _ => 0x52#8
  | .terminalRelevel _ _ => 0x53#8
  | .barRead => 0x60#8
  | .barAdd _ _ => 0x61#8
  | .barRemove _ => 0x62#8

/-- The code is one the table of section 10.3 assigns. -/
def assignedCode (code : Byte) : Bool :=
  match code.toNat with
  | 0x01 | 0x02 | 0x03 | 0x04 | 0x05 | 0x06 => true
  | 0x10 | 0x11 | 0x12 | 0x13 | 0x14 | 0x15 | 0x16 | 0x17 => true
  | 0x20 | 0x21 | 0x22 | 0x23 | 0x24 | 0x25 => true
  | 0x30 | 0x31 | 0x32 | 0x33 | 0x34 => true
  | 0x40 | 0x41 | 0x42 => true
  | 0x50 | 0x51 | 0x52 | 0x53 => true
  | 0x60 | 0x61 | 0x62 => true
  | _ => false

/-- The commands that the table of section 10.3 marks as served in holdover; every other is refused there. -/
def servedInHoldover (code : Byte) : Bool :=
  match code.toNat with
  | 0x01 | 0x02 | 0x03 | 0x04 | 0x05 => true
  | 0x15 => true
  | 0x21 => true
  | 0x31 => true
  | 0x40 => true
  | 0x50 | 0x51 => true
  | 0x60 => true
  | _ => false

/-! ## Setting identifiers (R32, R207) -/

/-- The bytes that FEEDER_SET's value takes for a setting identifier: one for REACH and POLL_ORDER, four for
LEVEL_WINDOW, two for the others, none for an unassigned identifier. -/
def settingWidth (id : Byte) : Nat :=
  match id.toNat with
  | 0x00 => 1
  | 0x05 => 1
  | 0x09 => 4
  | 0x01 | 0x02 | 0x03 | 0x04 | 0x06 | 0x07 | 0x08 | 0x0A | 0x0B | 0x0C | 0x0D => 2
  | _ => 0

/-- FEEDER_SET's value bytes: the value, and the high value of LEVEL_WINDOW. -/
def readSetting (id : Byte) (bs : Bytes) : Option (Word16 × Word16 × Bytes) :=
  match settingWidth id with
  | 0 => some (0#16, 0#16, bs)
  | 1 => (readByte bs).map fun p => (p.1.setWidth 16, 0#16, p.2)
  | 2 => (readWord16 bs).map fun p => (p.1, 0#16, p.2)
  | _ => (readWord16 bs).bind fun p => (readWord16 p.2).map fun q => (p.1, q.1, q.2)

/-- FEEDER_SET's value as bytes. -/
def settingBytes (id : Byte) (value high : Word16) : Bytes :=
  match settingWidth id with
  | 0 => []
  | 1 => [value.setWidth 8]
  | 2 => beBytes 2 value.toNat
  | _ => beBytes 2 value.toNat ++ beBytes 2 high.toNat

/-! ## Reading a command (R189 step 3, R207) -/

/-- PLAN_WRITE's arguments read. -/
def readPlanArgs (bs : Bytes) : Option PlanArgs := do
  let (index, bs) ← readWord16 bs
  let (kind, bs) ← readByte bs
  let (serial, bs) ← readWord64 bs
  let (mask, bs) ← readWord64 bs
  let (dwelling, bs) ← readWord32 bs
  let (expected, bs) ← readByte bs
  let (profile, bs) ← readByte bs
  let (flags, bs) ← readByte bs
  let (limit, _) ← readWord16 bs
  pure ⟨index, kind, serial, mask, dwelling, expected, profile, flags, limit⟩

/-- PROFILE_WRITE's arguments read. -/
def readProfileArgs (bs : Bytes) : Option ProfileArgs := do
  let (index, bs) ← readByte bs
  let (dataLength, bs) ← readWord16 bs
  let (dataInterval, bs) ← readWord16 bs
  let (presence, bs) ← readWord16 bs
  let (missLimit, bs) ← readWord16 bs
  let (grace, bs) ← readWord16 bs
  let (policy, _) ← readByte bs
  pure ⟨index, dataLength, dataInterval, presence, missLimit, grace, policy⟩

/-- The arguments of an assigned code read from the bytes behind the management header. None when the frame is too short
to hold every argument, or when a presence byte is unassigned; bytes beyond the last argument are not read. -/
def readCommand (code : Byte) (bs : Bytes) : Option Command :=
  match code.toNat with
  | 0x01 => some .identify
  | 0x02 => some .partReset
  | 0x03 => do let (clear, _) ← readByte bs; pure (.statusRead clear)
  | 0x04 => do let (mode, bs) ← readByte bs; let (period, _) ← readWord16 bs; pure (.watchdogSet mode period)
  | 0x05 => some .holdoverExit
  | 0x06 => do let (mask, _) ← readWord32 bs; pure (.noticeMaskSet mask)
  | 0x10 => do
    let (feeder, bs) ← readByte bs
    let (setting, bs) ← readByte bs
    let (value, high, _) ← readSetting setting bs
    pure (.feederSet feeder setting value high)
  | 0x11 => do let (feeder, _) ← readByte bs; pure (.feederOpen feeder)
  | 0x12 => do let (feeder, _) ← readByte bs; pure (.feederClose feeder)
  | 0x13 => do let (feeder, _) ← readByte bs; pure (.feederPause feeder)
  | 0x14 => do let (feeder, _) ← readByte bs; pure (.feederResume feeder)
  | 0x15 => do let (feeder, bs) ← readByte bs; let (clear, _) ← readByte bs; pure (.feederStatus feeder clear)
  | 0x16 => do
    let (feeder, bs) ← readByte bs
    let (mode, bs) ← readByte bs
    let (mask, bs) ← readByte bs
    let (compare, _) ← readByte bs
    pure (.watchSet feeder mode mask compare)
  | 0x17 => do let (feeder, _) ← readByte bs; pure (.strayClear feeder)
  | 0x20 => do let args ← readPlanArgs bs; pure (.planWrite args)
  | 0x21 => do let (index, _) ← readWord16 bs; pure (.planRead index)
  | 0x22 => do let (index, _) ← readWord16 bs; pure (.planErase index)
  | 0x23 => do let (range, _) ← readByte bs; pure (.freezeSet range)
  | 0x24 => some .freezeLock
  | 0x25 => do let (value, _) ← readByte bs; pure (.guardSet value)
  | 0x30 => do let args ← readProfileArgs bs; pure (.profileWrite args)
  | 0x31 => do let (index, _) ← readByte bs; pure (.profileRead index)
  | 0x32 => do let (index, _) ← readByte bs; pure (.profileLock index)
  | 0x33 => do let (index, _) ← readByte bs; pure (.profileUnlock index)
  | 0x34 => some .profilesLockAll
  | 0x40 => do let (feeder, _) ← readByte bs; pure (.arrivalsRead feeder)
  | 0x41 => do
    let (feeder, bs) ← readByte bs
    let (serial, bs) ← readWord64 bs
    let (profile, _) ← readByte bs
    pure (.admitArrival feeder serial profile)
  | 0x42 => do
    let (feeder, bs) ← readByte bs
    let (serial, bs) ← readWord64 bs
    let (bar, _) ← readByte bs
    pure (.refuse feeder serial bar)
  | 0x50 => do let (feeder, bs) ← readByte bs; let (handle, _) ← readByte bs; pure (.terminalRead feeder handle)
  | 0x51 => do let (serial, _) ← readWord64 bs; pure (.terminalFind serial)
  | 0x52 => do
    let (feeder, bs) ← readByte bs
    let (handle, bs) ← readByte bs
    let (bar, _) ← readByte bs
    pure (.terminalEject feeder handle bar)
  | 0x53 => do let (feeder, bs) ← readByte bs; let (handle, _) ← readByte bs; pure (.terminalRelevel feeder handle)
  | 0x60 => some .barRead
  | 0x61 => do
    let (serial, bs) ← readOption readWord64 bs
    let (hold, _) ← readOption readWord16 bs
    pure (.barAdd serial hold)
  | 0x62 => do let (serial, _) ← readWord64 bs; pure (.barRemove serial)
  | _ => none

/-- An optional argument as bytes (R207). -/
def optionBytes {α : Type} (enc : α → Bytes) : Option α → Bytes
  | none => [0#8]
  | some a => 1#8 :: enc a

/-- The argument bytes of a command, in the order its rule lists them (section 11.2). -/
def argBytes : Command → Bytes
  | .identify => []
  | .partReset => []
  | .statusRead clear => [clear]
  | .watchdogSet mode period => mode :: beBytes 2 period.toNat
  | .holdoverExit => []
  | .noticeMaskSet mask => beBytes 4 mask.toNat
  | .feederSet feeder setting value high => feeder :: setting :: settingBytes setting value high
  | .feederOpen feeder => [feeder]
  | .feederClose feeder => [feeder]
  | .feederPause feeder => [feeder]
  | .feederResume feeder => [feeder]
  | .feederStatus feeder clear => [feeder, clear]
  | .watchSet feeder mode mask compare => [feeder, mode, mask, compare]
  | .strayClear feeder => [feeder]
  | .planWrite a =>
    beBytes 2 a.index.toNat ++ a.kind :: (beBytes 8 a.serial.toNat ++ (beBytes 8 a.mask.toNat ++
      (beBytes 4 a.dwelling.toNat ++ a.expected :: a.profile :: a.flags :: beBytes 2 a.limit.toNat)))
  | .planRead index => beBytes 2 index.toNat
  | .planErase index => beBytes 2 index.toNat
  | .freezeSet range => [range]
  | .freezeLock => []
  | .guardSet value => [value]
  | .profileWrite a =>
    a.index :: (beBytes 2 a.dataLength.toNat ++ (beBytes 2 a.dataInterval.toNat ++ (beBytes 2 a.presence.toNat ++
      (beBytes 2 a.missLimit.toNat ++ (beBytes 2 a.grace.toNat ++ [a.policy])))))
  | .profileRead index => [index]
  | .profileLock index => [index]
  | .profileUnlock index => [index]
  | .profilesLockAll => []
  | .arrivalsRead feeder => [feeder]
  | .admitArrival feeder serial profile => feeder :: (beBytes 8 serial.toNat ++ [profile])
  | .refuse feeder serial bar => feeder :: (beBytes 8 serial.toNat ++ [bar])
  | .terminalRead feeder handle => [feeder, handle]
  | .terminalFind serial => beBytes 8 serial.toNat
  | .terminalEject feeder handle bar => [feeder, handle, bar]
  | .terminalRelevel feeder handle => [feeder, handle]
  | .barRead => []
  | .barAdd serial hold =>
    optionBytes (fun v : Serial => beBytes 8 v.toNat) serial ++ optionBytes (fun v : Word16 => beBytes 2 v.toNat) hold
  | .barRemove serial => beBytes 8 serial.toNat

/-! ## Argument values (R189, R207) -/

/-- A feeder argument: 00h is A, 01h is B. -/
def feederArg (b : Byte) : Option FeederId :=
  match b.toNat with
  | 0 => some .A
  | 1 => some .B
  | _ => none

/-- A yes-or-no argument. -/
def yesNoArg (b : Byte) : Option Bool :=
  match b.toNat with
  | 0 => some false
  | 1 => some true
  | _ => none

/-- A handle argument, 1..255. -/
def handleArg (b : Byte) : Option Nat := if b.toNat = 0 then none else some b.toNat

/-- A profile argument, 0..7. -/
def profileArg (b : Byte) : Option (Fin 8) := if h : b.toNat < 8 then some ⟨b.toNat, h⟩ else none

/-- A plan index argument, 0..511. -/
def indexArg (w : Word16) : Option Nat := if w.toNat < 512 then some w.toNat else none

/-- A plan kind argument. -/
def planKindArg (b : Byte) : Option PlanKind :=
  match b.toNat with
  | 0 => some .exact
  | 1 => some .pattern
  | _ => none

/-- An expected feeder argument: also 02h ANY. -/
def expectedArg (b : Byte) : Option Expected :=
  match b.toNat with
  | 0 => some .A
  | 1 => some .B
  | 2 => some .any
  | _ => none

/-- A freeze range argument, coded in the order of R80. -/
def freezeArg (b : Byte) : Option FreezeRange :=
  match b.toNat with
  | 0 => some .none
  | 1 => some .upper64
  | 2 => some .upper128
  | 3 => some .upper256
  | 4 => some .lower64
  | 5 => some .lower128
  | 6 => some .lower256
  | 7 => some .all
  | _ => Option.none

/-- A recovery policy argument, coded in the order of R83. -/
def policyArg (b : Byte) : Option Policy :=
  match b.toNat with
  | 0 => some .off
  | 1 => some .try3x64
  | 2 => some .try3x512
  | 3 => some .endless512
  | _ => none

/-- A condition watch mode argument. -/
def watchModeArg (b : Byte) : Option WatchMode :=
  match b.toNat with
  | 0 => some .event
  | 1 => some .matching
  | _ => none

/-- A watchdog mode argument, coded in the order of R186. -/
def watchdogModeArg (b : Byte) : Option WatchdogMode :=
  match b.toNat with
  | 0 => some .off
  | 1 => some .afterFirst
  | 2 => some .fromStart
  | _ => none

/-- A watchdog period count T, its own number (R200). -/
def periodArg (w : Word16) : Option Nat :=
  match w.toNat with
  | 2048 => some 2048
  | 4096 => some 4096
  | 8192 => some 8192
  | 16384 => some 16384
  | _ => none

/-- REACH, coded 0..3 (R32). -/
def reachArg (w : Word16) : Option Reach :=
  match w.toNat with
  | 0 => some .near
  | 1 => some .mid
  | 2 => some .far
  | 3 => some .extended
  | _ => none

/-- SPREAD, its own number. -/
def spreadArg (w : Word16) : Option Spread :=
  match w.toNat with
  | 8 => some .s8
  | 16 => some .s16
  | 32 => some .s32
  | 64 => some .s64
  | _ => none

/-- FAN, its own number. -/
def fanArg (w : Word16) : Option Fan :=
  match w.toNat with
  | 2 => some .f2
  | 4 => some .f4
  | 8 => some .f8
  | _ => none

/-- POLL_ORDER. -/
def pollArg (w : Word16) : Option PollOrder :=
  match w.toNat with
  | 0 => some .sequential
  | 1 => some .interleaved
  | _ => none

/-! ## Clamping (R189) -/

/-- A number clamped to a range. -/
def clampTo (lo hi n : Nat) : Nat := max lo (min hi n)

/-- The number lies outside the range, so that clamping changes it. -/
def outside (lo hi n : Nat) : Bool := decide (n < lo) || decide (hi < n)

/-! ## Codes of reported values (section 11.2): each enumeration from 00h in the order its chapter lists it -/

/-- A yes-or-no, flag, condition or level as reported. -/
def boolByte (b : Bool) : Byte := if b then 1#8 else 0#8

/-- A feeder as reported. -/
def feederByte : FeederId → Byte
  | .A => 0#8
  | .B => 1#8

/-- A record state as reported (R3). -/
def RecState.byte : RecState → Byte
  | .free => 0#8
  | .named => 1#8
  | .confirming => 2#8
  | .probing => 3#8
  | .levelling => 4#8
  | .inService => 5#8
  | .suspect => 6#8
  | .huntHeld => 7#8
  | .hushed => 8#8
  | .ejected => 9#8

/-- A held from field as reported. -/
def HeldFrom.byte : HeldFrom → Byte
  | .inService => 0#8
  | .suspect => 1#8

/-- An eject reason's code (R208). -/
def EjectReason.byte : EjectReason → Byte
  | .ordered => 0#8
  | .silent => 1#8
  | .mainsLost => 2#8
  | .noConfirm => 3#8
  | .stray => 4#8
  | .rebooted => 5#8
  | .outOfReach => 6#8

/-- A held reason's code (R208). -/
def HeldReason.byte : HeldReason → Byte
  | .wrongFeeder => 0#8
  | .planHold => 1#8
  | .holdover => 2#8
  | .patternFull => 3#8
  | .unplanned => 4#8

/-- A feeder state as reported (R27). -/
def FeederState.byte : FeederState → Byte
  | .closed => 0#8
  | .quieting => 1#8
  | .purging => 2#8
  | .opened => 3#8
  | .paused => 4#8

/-- A reach class as reported. -/
def Reach.byte : Reach → Byte
  | .near => 0#8
  | .mid => 1#8
  | .far => 2#8
  | .extended => 3#8

/-- A spread code in a header's window field (section 11.4). -/
def Spread.byte : Spread → Byte
  | .s8 => 0#8
  | .s16 => 1#8
  | .s32 => 2#8
  | .s64 => 3#8

/-- The poll order as reported. -/
def PollOrder.byte : PollOrder → Byte
  | .sequential => 0#8
  | .interleaved => 1#8

/-- A recovery policy as reported. -/
def Policy.byte : Policy → Byte
  | .off => 0#8
  | .try3x64 => 1#8
  | .try3x512 => 2#8
  | .endless512 => 3#8

/-- A freeze range as reported. -/
def FreezeRange.byte : FreezeRange → Byte
  | .none => 0#8
  | .upper64 => 1#8
  | .upper128 => 2#8
  | .upper256 => 3#8
  | .lower64 => 4#8
  | .lower128 => 5#8
  | .lower256 => 6#8
  | .all => 7#8

/-- A plan kind as reported. -/
def PlanKind.byte : PlanKind → Byte
  | .exact => 0#8
  | .pattern => 1#8

/-- An expected feeder as reported. -/
def Expected.byte : Expected → Byte
  | .A => 0#8
  | .B => 1#8
  | .any => 2#8

/-- A watch mode as reported. -/
def WatchMode.byte : WatchMode → Byte
  | .event => 0#8
  | .matching => 1#8

/-- A watchdog mode as reported. -/
def WatchdogMode.byte : WatchdogMode → Byte
  | .off => 0#8
  | .afterFirst => 1#8
  | .fromStart => 2#8

/-- A refusal reason's code (R207). -/
def Reason.byte : Reason → Byte
  | .badArg => 0x01#8
  | .busy => 0x02#8
  | .wrongState => 0x03#8
  | .notFound => 0x04#8
  | .frozen => 0x06#8
  | .guarded => 0x07#8
  | .claimed => 0x08#8
  | .duplicate => 0x09#8
  | .barred => 0x0A#8
  | .holdover => 0x0B#8
  | .tooLate => 0x0C#8
  | .unknown => 0x0D#8
  | .locked => 0x0E#8

end Sys2Proof.Machine
end

