-- ==== Sys2Proof/Machine/Flags.lean ====
section
/-! DEFINITION. Counters, latched flags, and the raising of notices: what a block leaves for the controller to see. -/
namespace Sys2Proof.Machine

open Sys2Proof

/-! ## The two feeders -/

/-- The state of one feeder. -/
def State.fd (s : State) : FeederId → Feeder
  | .A => s.feederA
  | .B => s.feederB

/-- The state with one feeder replaced. -/
def State.setFd (s : State) (f : FeederId) (x : Feeder) : State :=
  match f with
  | .A => { s with feederA := x }
  | .B => { s with feederB := x }

/-- The state with one feeder changed. -/
def State.modFd (s : State) (f : FeederId) (g : Feeder → Feeder) : State :=
  s.setFd f (g (s.fd f))

/-! ## Counters and latched flags -/

/-- The nine feeder counters by name (R47). -/
inductive CounterName where
  | windows
  | collisions
  | malformed
  | barredCallIns
  | arrivalsOverflow
  | misplaced
  | dataDeferrals
  | downstreamRefused
  | upstreamDropped
deriving DecidableEq, Repr

/-- A feeder counter raised by `k`, stopping at 65,535 (R47). -/
def Counters.add (c : Counters) (n : CounterName) (k : Nat) : Counters :=
  match n with
  | .windows => { c with windows := satAdd16 c.windows k }
  | .collisions => { c with collisions := satAdd16 c.collisions k }
  | .malformed => { c with malformed := satAdd16 c.malformed k }
  | .barredCallIns => { c with barredCallIns := satAdd16 c.barredCallIns k }
  | .arrivalsOverflow => { c with arrivalsOverflow := satAdd16 c.arrivalsOverflow k }
  | .misplaced => { c with misplaced := satAdd16 c.misplaced k }
  | .dataDeferrals => { c with dataDeferrals := satAdd16 c.dataDeferrals k }
  | .downstreamRefused => { c with downstreamRefused := satAdd16 c.downstreamRefused k }
  | .upstreamDropped => { c with upstreamDropped := satAdd16 c.upstreamDropped k }

/-- One feeder counter of a feeder raised by `k`. -/
def Feeder.count (fd : Feeder) (n : CounterName) (k : Nat) : Feeder :=
  { fd with counters := fd.counters.add n k }

/-- QUEUE_FULL_SEEN set (R48). -/
def Feeder.latchQueueFull (fd : Feeder) : Feeder :=
  { fd with latched := { fd.latched with queueFull := true } }

/-- ARRIVALS_FULL_SEEN set (R48). -/
def Feeder.latchArrivalsFull (fd : Feeder) : Feeder :=
  { fd with latched := { fd.latched with arrivalsFull := true } }

/-- WENT_DARK set (R48). -/
def Feeder.latchDark (fd : Feeder) : Feeder :=
  { fd with latched := { fd.latched with wentDark := true } }

/-- STRAY_SEEN set (R48). -/
def Feeder.latchStray (fd : Feeder) : Feeder :=
  { fd with latched := { fd.latched with straySeen := true } }

/-! ## Notices -/

/-- The code of a notice kind, which is also its mask bit (R208). -/
def NoticeKind.code : NoticeKind → Nat
  | .arrivalHeld => 0x00
  | .decisionExpired => 0x01
  | .named => 0x02
  | .admitted => 0x03
  | .ejected => 0x04
  | .rebooted => 0x05
  | .duplicateSerial => 0x06
  | .outOfReach => 0x07
  | .feederFull => 0x08
  | .levelEdge => 0x09
  | .reachEdge => 0x0A
  | .dark => 0x0B
  | .lightBack => 0x0C
  | .stray => 0x0D
  | .strayFound => 0x0E
  | .strayCleared => 0x0F
  | .strayUnresolved => 0x10
  | .mainsFailing => 0x11
  | .condition => 0x12
  | .holdover => 0x13

/-- Raising a notice: it is lost when its kind is masked, joins the queue while that holds fewer than 64 entries, and is
otherwise lost with NOTICE_OVERRUN set (R196). -/
def State.raise (s : State) (k : NoticeKind) (fields : NoticeFields) : State :=
  if s.noticeMask.getLsbD k.code = false then s
  else if s.notices.length < Config.noticeCapacity then
    { s with notices := s.notices ++ [{ kind := k, cycle := s.cycle, fields := fields }] }
  else { s with noticeOverrun := true }

end Sys2Proof.Machine
end

