-- ==== Sys2Proof/Machine/Ops.lean ====
section
/-! DEFINITION. The operations the blocks share: records and their tables, the Message Queue, plan links, the Bar List,
the choice of a hunt target, ejection and teardown. -/
namespace Sys2Proof.Machine

open Sys2Proof

/-! ## Words about states -/

/-- A record is active when it is neither FREE nor EJECTED (R1). -/
def RecState.active : RecState → Bool
  | .free => false
  | .ejected => false
  | _ => true

/-- A record is live when it is not FREE (R1). -/
def RecState.live : RecState → Bool
  | .free => false
  | _ => true

/-- The states whose traffic the gate forwards, which are also the states a hunt candidate has (R158, R178). -/
def RecState.carriesTraffic : RecState → Bool
  | .inService => true
  | .suspect => true
  | _ => false

/-- OPEN or PAUSED. -/
def FeederState.serving : FeederState → Bool
  | .opened => true
  | .paused => true
  | _ => false

/-- The window grant offset Z − 40 of a reach class, which is also its greatest EqD (R33). -/
def Reach.span : Reach → Nat
  | .near => 2000
  | .mid => 4000
  | .far => 6000
  | .extended => 8000

/-- The slots of a SPREAD (R32). -/
def Spread.slots : Spread → Nat
  | .s8 => 8
  | .s16 => 16
  | .s32 => 32
  | .s64 => 64

/-- The bits b of a FAN f = 2^b (R69). -/
def Fan.bits : Fan → Nat
  | .f2 => 1
  | .f4 => 2
  | .f8 => 3

/-- The shared timing runs while a feeder is not CLOSED (R28). -/
def State.timingRuns (s : State) : Bool :=
  decide (s.feederA.state ≠ .closed) || decide (s.feederB.state ≠ .closed)

/-! ## Records and tables -/

/-- The record of a handle; handle 0 and handles above 255 have none and read as FREE (R1). -/
def Feeder.record (fd : Feeder) (h : Nat) : Record :=
  if h = 0 then freeRecord else fd.table[h - 1]?.getD freeRecord

/-- The record of a handle written. -/
def Feeder.setRecord (fd : Feeder) (h : Nat) (r : Record) : Feeder :=
  if h = 0 then fd else { fd with table := fd.table.setIfInBounds (h - 1) r }

/-- The record of a handle changed. -/
def Feeder.modRecord (fd : Feeder) (h : Nat) (g : Record → Record) : Feeder :=
  fd.setRecord h (g (fd.record h))

/-- The lowest handle, not below `start`, whose record satisfies `p`. -/
def Feeder.firstFrom (fd : Feeder) (start : Nat) (p : Record → Bool) : Option Nat :=
  ((fd.table.toList.drop (start - 1)).findIdx? p).map (· + max start 1)

/-- The handles whose records satisfy `p`, lowest first. -/
def Feeder.handlesWhere (fd : Feeder) (p : Nat → Record → Bool) : List Nat :=
  ((fd.table.toList.zipIdx 1).filter fun x => p x.2 x.1).map (·.2)

/-- The live record that holds a serial (R2). -/
def Feeder.holderOf (fd : Feeder) (serial : Serial) : Option Nat :=
  fd.firstFrom 1 fun r => r.state.live && decide (r.serial = some serial)

/-- The record of a feeder's handle in the whole state. -/
def State.record (s : State) (f : FeederId) (h : Nat) : Record := (s.fd f).record h

/-- The record of a feeder's handle changed in the whole state. -/
def State.modRecord (s : State) (f : FeederId) (h : Nat) (g : Record → Record) : State :=
  s.modFd f (·.modRecord h g)

/-! ## The plan -/

/-- A plan entry by its index; no entry stands above 511. -/
def State.planAt (s : State) (i : Nat) : PlanEntry := s.plan[i]?.getD unusedEntry

/-- A plan entry written. -/
def State.setPlan (s : State) (i : Nat) (e : PlanEntry) : State :=
  { s with plan := s.plan.setIfInBounds i e }

/-- The dwelling reference a linked notice carries, as the entry now holds it (R74, R196). -/
def State.dwellingOf (s : State) (link : Option Nat) : Option Word32 :=
  link.map fun i => (s.planAt i).dwelling

/-- A plan entry takes a link at naming: an EXACT entry its claim, a PATTERN entry one more in its count (R75). -/
def PlanEntry.takeLink (e : PlanEntry) (f : FeederId) (h : Nat) : PlanEntry :=
  match e.kind with
  | .exact => { e with claim := some (f, h) }
  | .pattern => { e with count := e.count.map (· + 1) }

/-- A plan entry loses a link when the linked record becomes FREE (R20, R75). -/
def PlanEntry.dropLink (e : PlanEntry) : PlanEntry :=
  match e.kind with
  | .exact => { e with claim := none }
  | .pattern => { e with count := e.count.map (· - 1) }

/-- The plan with a record's link released (R20). -/
def State.releaseLink (s : State) (link : Option Nat) : State :=
  match link with
  | none => s
  | some i => s.setPlan i (s.planAt i).dropLink

/-! ## The Message Queue (R146 to R152) -/

/-- The kind of a message. -/
def Msg.kind : Msg → MsgKind
  | .name _ _ => .name
  | .delay _ _ => .delay
  | .step _ => .step
  | .admission => .admission
  | .hush => .hush
  | .resume => .resume
  | .eject _ => .eject

/-- HUSH, RESUME and EJECT belong to the urgent band (R146). -/
def MsgKind.urgent : MsgKind → Bool
  | .hush => true
  | .resume => true
  | .eject => true
  | _ => false

/-- A queued message of this kind for this handle. -/
def QMsg.isFor (q : QMsg) (h : Nat) (k : MsgKind) : Bool :=
  decide (q.handle = h) && decide (q.msg.kind = k)

/-- A band holds an unsent message of this kind for this handle. -/
def holdsMsg (band : List QMsg) (h : Nat) (k : MsgKind) : Bool := band.any (·.isFor h k)

/-- The message of this kind for this handle replaced in place (R147, R148). -/
def replaceMsg (band : List QMsg) (h : Nat) (m : Msg) : List QMsg :=
  band.map fun q => if q.isFor h m.kind then { handle := h, msg := m } else q

/-- The messages in both bands. -/
def Feeder.queued (fd : Feeder) : Nat := fd.urgent.length + fd.ordinary.length

/-- The ordinary band has room (R147). -/
def Feeder.ordinaryRoom (fd : Feeder) : Bool :=
  decide (fd.ordinary.length < Config.ordinaryCapacity) && decide (fd.queued < Config.queueCapacity)

/-- A message goes to a record's owed message (R149). -/
def Record.owe (r : Record) (m : Msg) : Record :=
  match r.owed with
  | none => { r with owed := some m }
  | some o => if o.kind.urgent && !m.kind.urgent then r else { r with owed := some m }

/-- An ordinary message offered by a record (R147). -/
def Feeder.offerOrdinary (fd : Feeder) (h : Nat) (m : Msg) : Feeder :=
  if holdsMsg fd.ordinary h m.kind then { fd with ordinary := replaceMsg fd.ordinary h m }
  else if (fd.record h).owed ≠ none then fd.modRecord h (·.owe m)
  else if fd.ordinaryRoom then { fd with ordinary := fd.ordinary ++ [{ handle := h, msg := m }] }
  else (fd.modRecord h (·.owe m)).latchQueueFull

/-- An urgent message offered by a record (R148). -/
def Feeder.offerUrgent (fd : Feeder) (h : Nat) (m : Msg) : Feeder :=
  if holdsMsg fd.urgent h m.kind then { fd with urgent := replaceMsg fd.urgent h m }
  else if fd.queued < Config.queueCapacity then { fd with urgent := fd.urgent ++ [{ handle := h, msg := m }] }
  else
    match fd.ordinary.getLast? with
    | some q =>
      (Feeder.modRecord { fd with ordinary := fd.ordinary.dropLast, urgent := fd.urgent ++ [{ handle := h, msg := m }] }
        q.handle (·.owe q.msg)).latchQueueFull
    | none => (fd.modRecord h (·.owe m)).latchQueueFull

/-- An offer by the band its kind belongs to. -/
def Feeder.offer (fd : Feeder) (h : Nat) (m : Msg) : Feeder :=
  if m.kind.urgent then fd.offerUrgent h m else fd.offerOrdinary h m

/-- Every ordinary message of a handle removed (R12, R111, R152). -/
def Feeder.removeOrdinary (fd : Feeder) (h : Nat) : Feeder :=
  { fd with ordinary := fd.ordinary.filter (fun q => decide (q.handle ≠ h)) }

/-- Every message of a handle removed, in either band (R20, R152). -/
def Feeder.removeMessages (fd : Feeder) (h : Nat) : Feeder :=
  { fd with
    ordinary := fd.ordinary.filter (fun q => decide (q.handle ≠ h))
    urgent := fd.urgent.filter (fun q => decide (q.handle ≠ h)) }

/-- An owed message of this kind cleared. -/
def Record.clearOwed (r : Record) (k : MsgKind) : Record :=
  match r.owed with
  | some m => if m.kind = k then { r with owed := none } else r
  | none => r

/-- An unsent message of this kind of a handle removed, queued in the ordinary band or owed (R124, R143). -/
def Feeder.removeUnsent (fd : Feeder) (h : Nat) (k : MsgKind) : Feeder :=
  Feeder.modRecord { fd with ordinary := fd.ordinary.filter (fun q => !q.isFor h k) } h (·.clearOwed k)

/-- A message of this kind of a handle stands in the ordinary band or is owed. -/
def Feeder.queuedOrOwed (fd : Feeder) (h : Nat) (k : MsgKind) : Bool :=
  holdsMsg fd.ordinary h k || decide ((fd.record h).owed.map (·.kind) = some k)

/-- A HUSH offered for a record, its owed RESUME cleared first (R165). -/
def Feeder.offerHush (fd : Feeder) (h : Nat) : Feeder :=
  (fd.modRecord h (·.clearOwed .resume)).offerUrgent h .hush

/-- A RESUME offered for a record, its owed HUSH cleared first (R165). -/
def Feeder.offerResume (fd : Feeder) (h : Nat) : Feeder :=
  (fd.modRecord h (·.clearOwed .hush)).offerUrgent h .resume

/-! ## The Bar List (R22 to R25) -/

/-- A serial is on the Bar List. -/
def State.isBarred (s : State) (serial : Serial) : Bool := s.bars.any fun b => decide (b.serial = serial)

/-- A feeder's arrivals without a serial. -/
def Feeder.dropArrival (fd : Feeder) (serial : Serial) : Feeder :=
  { fd with arrivals := fd.arrivals.filter fun a => decide (a.serial ≠ serial) }

/-- Both feeders' arrivals without a serial. -/
def State.dropArrivals (s : State) (serial : Serial) : State :=
  (s.modFd .A (·.dropArrival serial)).modFd .B (·.dropArrival serial)

/-- The place of the entry that a full Bar List gives up: the smallest countdown, the oldest among equals (R25). -/
def barVictim (bars : List BarEntry) : Nat :=
  bars.findIdx fun b => bars.all fun c => decide (b.countdown ≤ c.countdown)

/-- The list with a serial added or renewed (R25, steps 1 to 3). -/
def addBar (bars : List BarEntry) (serial : Serial) (hold : Nat) : List BarEntry :=
  if bars.any (fun b => decide (b.serial = serial)) then
    bars.map fun b => if b.serial = serial then { b with countdown := hold } else b
  else
    (if bars.length < Config.barCapacity then bars else bars.eraseIdx (barVictim bars)) ++
      [{ serial := serial, countdown := hold }]

/-- A serial added to the Bar List, its arrivals removed from both lists (R25). -/
def State.bar (s : State) (serial : Serial) : State :=
  State.dropArrivals { s with bars := addBar s.bars serial s.barHold } serial

/-- A serial that a record holds, barred. -/
def State.barHeld (s : State) (serial : Option Serial) : State :=
  match serial with
  | some n => s.bar n
  | none => s

/-! ## The hunt's choice of a target (R158, R163) -/

/-- A record leaves IN_SERVICE: the re-hush watch ends with it (R168). -/
def Record.endWatch (r : Record) : Record :=
  if r.state = .inService then { r with recCd := 0 } else r

/-- The held from field for a candidate's state. -/
def RecState.heldFrom : RecState → Option HeldFrom
  | .inService => some .inService
  | .suspect => some .suspect
  | _ => none

/-- The state a held from field stands for. -/
def HeldFrom.toState : HeldFrom → RecState
  | .inService => .inService
  | .suspect => .suspect

/-- The hunt chooses its next target, or stops with STRAY_UNRESOLVED when no candidate is left (R158, R163). -/
def State.chooseTarget (s : State) (f : FeederId) : State :=
  let fd := s.fd f
  match fd.firstFrom fd.hunt.nextHandle (·.state.carriesTraffic) with
  | some h =>
    s.setFd f
      (Feeder.offerHush
        { (fd.modRecord h fun r => { r.endWatch with state := .huntHeld, heldFrom := r.state.heldFrom }) with
          hunt := { fd.hunt with
            target := some h
            phase := some .hushOffered
            nextHandle := h + 1
            hushCycle := none
            watchCd := 0 } } h)
  | none =>
    (s.setFd f { fd with
      hunt := { fd.hunt with state := .stopped, target := none, phase := none, hushCycle := none, watchCd := 0 } }).raise
      .strayUnresolved { feeder := some f }

/-- An ejection reaches the hunt: when the record is the current target, a new one is chosen at once (R164). -/
def State.huntEjected (s : State) (f : FeederId) (h : Nat) : State :=
  if (s.fd f).hunt.target = some h then
    (s.modFd f fun fd => { fd with
      hunt := { fd.hunt with target := none, phase := none, hushCycle := none, watchCd := 0 } }).chooseTarget f
  else s

/-! ## Ejection and return (R12 to R20) -/

/-- The fields that ejection writes in the record (R12, R13). -/
def Record.ejectFor (r : Record) (reason : EjectReason) : Record :=
  { r with
    state := .ejected
    ejectReason := some reason
    owed := none
    drain := if r.state = .named then some 4 else none }

/-- The ejected record and the feeder's queue: its ordinary messages removed, and EJECT offered unless the record was
still NAMED (R12, R13). -/
def Feeder.ejectRecord (fd : Feeder) (h : Nat) (reason : EjectReason) : Feeder :=
  let fd1 := (fd.modRecord h (·.ejectFor reason)).removeOrdinary h
  if (fd.record h).state = .named then fd1 else fd1.offerUrgent h (.eject reason)

/-- A record is ejected (R12, R13, R18, R164). An eject cause leaves a record that is not active as it is (R15). -/
def State.eject (s : State) (f : FeederId) (h : Nat) (reason : EjectReason) : State :=
  let r := s.record f h
  if r.state.active then
    ((s.modFd f (·.ejectRecord h reason)).raise .ejected
      { feeder := some f, handle := some h, serial := r.serial, dwelling := s.dwellingOf r.planLink,
        reason := some (.eject reason) }).huntEjected f h
  else s

/-- An ejection with a barring cause: the record first becomes EJECTED, then its serial is barred (R15, R19). -/
def State.ejectAndBar (s : State) (f : FeederId) (h : Nat) (reason : EjectReason) : State :=
  (s.eject f h reason).barHeld (s.record f h).serial

/-- A record returns to FREE (R20): its plan link released, its messages removed, every field at its FREE value, and
FEEDER_FULL re-armed (R10). -/
def State.tearDown (s : State) (f : FeederId) (h : Nat) : State :=
  (s.releaseLink (s.record f h).planLink).modFd f fun fd =>
    { ((fd.removeMessages h).setRecord h freeRecord) with fullArmed := true }

/-! ## Arrival of events -/

/-- The held map of an upstream cycle, when the feeder holds one (R132). -/
def Feeder.mapOf (fd : Feeder) (n : CycleNumber) : Option HeldMap :=
  fd.heldMaps.find? fun m => decide (m.cycle = n)

/-- The held map of an upstream cycle changed. -/
def Feeder.modMap (fd : Feeder) (n : CycleNumber) (g : HeldMap → HeldMap) : Feeder :=
  { fd with heldMaps := fd.heldMaps.map fun m => if m.cycle = n then g m else m }

/-- The last two of a list: the bound of R132 and R60 on held maps and window records (log entry 14). -/
def lastTwo {α : Type} (l : List α) : List α := l.drop (l.length - 2)

/-- The profile of a record. -/
def State.profileOf (s : State) (r : Record) : Profile := s.profiles[r.profile.val]

end Sys2Proof.Machine
end

