-- ==== Sys2Proof/Machine/Formats.lean ====
section
/-! DEFINITION. The layouts of chapter 11: the frame check, trunk frames, cycle headers, downstream frames, replies,
notices, and the reports that replies carry. -/
namespace Sys2Proof.Machine

open Sys2Proof

/-! ## The frame check (R206) -/

/-- One bit of the cyclic check, in the register's reflected form: polynomial 04C11DB7h with its bits reversed. -/
def crcBit (c : BitVec 32) : BitVec 32 :=
  if c.getLsbD 0 then (c >>> 1) ^^^ 0xEDB88320#32 else c >>> 1

/-- The check register after the bits of one byte, least significant first. -/
def crcByte (c : BitVec 32) (b : Byte) : BitVec 32 :=
  crcBit (crcBit (crcBit (crcBit (crcBit (crcBit (crcBit (crcBit (c ^^^ b.setWidth 32))))))))

/-- The 32-bit cyclic check of R206: initial value FFFFFFFFh, inverted at the end. -/
def cyclicCheck (bs : Bytes) : BitVec 32 := ~~~ (bs.foldl crcByte 0xFFFFFFFF#32)

/-- The four bytes of a trunk frame's check as they are sent. R206 calls the check "the trunk's own frame check sequence":
on Ethernet its bits go out in the order in which the register holds them, so the reflected register leaves lowest byte
first (PRESUMED, log entry 8). -/
def checkBytes (bs : Bytes) : Bytes :=
  let c := cyclicCheck bs
  [c.extractLsb' 0 8, c.extractLsb' 8 8, c.extractLsb' 16 8, c.extractLsb' 24 8]

/-- A body with its check behind it. -/
def withCheck (body : Bytes) : Bytes := body ++ checkBytes body

/-- A frame of at least `least` bytes before its check whose last four bytes are the check of the rest. The four check
bytes do not count in `least`, and a shorter frame's check is not good: R206 and R210 leave both open (DESIGN CHOICE, log
entries 41 and 42). -/
def checkGood (least : Nat) (frame : Bytes) : Bool :=
  decide (least + 4 ≤ frame.length) &&
    decide (frame.drop (frame.length - 4) = checkBytes (frame.take (frame.length - 4)))

/-! ## Trunk frames (R206) -/

/-- The bytes of the two addresses. -/
def addressLength : Nat := 12

/-- The addresses and the estate tag. -/
def tagEnd : Nat := 16

/-- The tag type of a frame. -/
def frameTagType (frame : Bytes) : BitVec 16 := BitVec.ofNat 16 (beNat ((frame.drop 12).take 2))

/-- The target of a frame, bits 7..6 of the tag's third byte: 0 the part, 1 feeder A, 2 feeder B, 3 unassigned. -/
def frameTarget (frame : Bytes) : Nat := (frame.getD 14 0#8).toNat / 64

/-- The handle of a frame. -/
def frameHandle (frame : Bytes) : Nat := (frame.getD 15 0#8).toNat

/-- The destination address of a frame. -/
def frameDestination (frame : Bytes) : Address := BitVec.ofNat 48 (beNat (frame.take 6))

/-- The source address of a frame. -/
def frameSource (frame : Bytes) : Address := BitVec.ofNat 48 (beNat ((frame.drop 6).take 6))

/-- The payload of a frame: what stands between the tag and the frame check. -/
def framePayload (frame : Bytes) : Bytes := (frame.take (frame.length - 4)).drop tagEnd

/-- A trunk frame the part sends: addresses, tag, payload and frame check. -/
def trunkFrame (destination source : Address) (tagType : BitVec 16) (target : Byte) (handle : Nat) (payload : Bytes) :
    Bytes :=
  withCheck (beBytes 6 destination.toNat ++ beBytes 6 source.toNat ++ beBytes 2 tagType.toNat ++
    [target, BitVec.ofNat 8 handle] ++ payload)

/-- An admitted frame without its estate tag. Its frame check covered the tag, so the frame that leaves carries the check
of what is left (log entry 9). -/
def removeTag (frame : Bytes) : Bytes := withCheck (frame.take addressLength ++ framePayload frame)

/-- The tag's third byte for a feeder: target 1 for A, 2 for B. -/
def targetByte : FeederId → Byte
  | .A => 0x40#8
  | .B => 0x80#8

/-- An upstream frame as it goes out on the trunk: the tag inserted after its own addresses, with the frame check of the
frame so tagged (R206; log entry 9). -/
def UpFrame.bytes (u : UpFrame) : Bytes :=
  withCheck (u.frame.take addressLength ++ beBytes 2 u.tagType.toNat ++
    [targetByte u.feeder, BitVec.ofNat 8 u.handle] ++ (u.frame.take (u.frame.length - 4)).drop addressLength)

/-! ## Cycle headers (section 11.4) -/

/-- The cycle marker. -/
def cycleMarker : Bytes := [0x5C#8, 0x3A#8, 0x96#8, 0xE1#8]

/-- The window field. -/
def windowField : Option Window → Bytes
  | none => [0#8, 0#8, 0#8, 0#8, 0#8, 0#8, 0#8, 0#8]
  | some w =>
    match w.use with
    | .callIn g spread =>
      0x01#8 :: (beBytes 3 g.value ++ [BitVec.ofNat 8 g.len, spread.byte] ++ beBytes 2 w.grantOffset)
    | .probe h => [0x02#8, 0#8, 0#8, BitVec.ofNat 8 h, 0#8, 0#8] ++ beBytes 2 w.grantOffset

/-- A grant entry: the kind in bit 39, the handle in bits 31..24, the offset in bits 23..10, the length divided by 4 in
bits 9..0. -/
def Grant.bytes (g : Grant) : Bytes :=
  beBytes 5 ((match g.kind with | .check => 0 | .data => 2 ^ 39) + g.handle * 2 ^ 24 + g.offset * 2 ^ 10 + g.length / 4)

/-- A message entry of twelve bytes: kind, handle, contents, zeros. -/
def messageEntry (handle : Nat) (m : Msg) : Bytes :=
  match m with
  | .name serial eqd => [0x01#8, BitVec.ofNat 8 handle] ++ beBytes 8 serial.toNat ++ beBytes 2 eqd
  | .delay eqd _ => [0x02#8, BitVec.ofNat 8 handle] ++ beBytes 2 eqd ++ List.replicate 8 0#8
  | .step up => [0x03#8, BitVec.ofNat 8 handle, if up then 0x01#8 else 0xFF#8] ++ List.replicate 9 0#8
  | .admission => [0x04#8, BitVec.ofNat 8 handle] ++ List.replicate 10 0#8
  | .hush => [0x05#8, BitVec.ofNat 8 handle] ++ List.replicate 10 0#8
  | .resume => [0x06#8, BitVec.ofNat 8 handle] ++ List.replicate 10 0#8
  | .eject reason => [0x07#8, BitVec.ofNat 8 handle, reason.byte] ++ List.replicate 9 0#8

/-- The EJECT_ALL entry of a purge header. -/
def ejectAllEntry : Bytes := [0x08#8, 0#8] ++ List.replicate 10 0#8

/-- The message entries of a header; a purge header carries EJECT_ALL (R38, R209). -/
def Header.entries (hd : Header) : List Bytes :=
  match hd.kind with
  | .purge => [ejectAllEntry]
  | _ => hd.messages.map fun q => messageEntry q.handle q.msg

/-- What stands between a header's marker and its check. -/
def Header.body (hd : Header) : Bytes :=
  beBytes 2 hd.cycle.toNat ++ windowField hd.window ++
    [BitVec.ofNat 8 hd.grants.length, BitVec.ofNat 8 hd.entries.length] ++ (hd.grants.map Grant.bytes).flatten ++
    hd.entries.flatten

/-- The header check, "computed over every preceding byte after the marker" and sent, like every field of several bytes
of chapter 11, most significant byte first (section 11.4, R209). -/
def Header.check (hd : Header) : Bytes := beBytes 4 (cyclicCheck hd.body).toNat

/-- A header's bytes (R209). -/
def Header.bytes (hd : Header) : Bytes := cycleMarker ++ hd.body ++ hd.check

/-- A header's length in bytes. -/
def Header.length (hd : Header) : Nat := 20 + 5 * hd.grants.length + 12 * hd.entries.length

/-- A downstream frame on the line: prefix and frame (section 11.4). -/
def DownFrame.bytes (d : DownFrame) : Bytes :=
  [BitVec.ofNat 8 d.handle, 0#8] ++ beBytes 2 d.frame.length ++ d.frame

/-- The bytes of a downstream cycle as a feeder sends them. -/
def LineCycle.bytes (c : LineCycle) : Bytes := c.header.bytes ++ (c.sent.map DownFrame.bytes).flatten

/-! ## Replies (R188, R207) -/

/-- The outcome byte of a reply. -/
def CmdResult.outcomeByte : CmdResult → Byte
  | .done _ => 0#8
  | .clamped => 1#8
  | .refused _ => 2#8

/-- The reason byte of a reply. -/
def CmdResult.reasonByte : CmdResult → Byte
  | .refused r => r.byte
  | _ => 0#8

/-- The results of a reply. -/
def CmdResult.results : CmdResult → Bytes
  | .done results => results
  | _ => []

/-- A reply's payload. -/
def Reply.payload (r : Reply) : Bytes :=
  0x01#8 :: (beBytes 2 r.reference.toNat ++
    [r.code, BitVec.ofNat 8 r.receipt, r.result.outcomeByte, r.result.reasonByte] ++ r.result.results)

/-- The reply to a PART_RESET command, whose last bit brings the part reset (R204). -/
def Reply.isPartReset (r : Reply) : Bool := decide (r.code = 0x02#8)

/-! ## Notices (R208) -/

/-- The presence byte of a notice. -/
def NoticeFields.presence (n : NoticeFields) : Byte :=
  BitVec.ofNat 8 ((if n.feeder.isSome then 1 else 0) + (if n.handle.isSome then 2 else 0) +
    (if n.serial.isSome then 4 else 0) + (if n.dwelling.isSome then 8 else 0) + (if n.reason.isSome then 16 else 0) +
    (if n.level.isSome then 32 else 0) + (if n.words.isSome then 64 else 0))

/-- The code of a notice's reason. -/
def NoticeReason.byte : NoticeReason → Byte
  | .held r => r.byte
  | .eject r => r.byte

/-- A present field's bytes, or nothing. -/
def fieldBytes {α : Type} (enc : α → Bytes) (o : Option α) : Bytes := (o.map enc).getD []

/-- A notice frame's payload. -/
def Notice.payload (n : Notice) : Bytes :=
  [0x02#8, BitVec.ofNat 8 n.kind.code] ++ beBytes 2 n.cycle.toNat ++ [n.fields.presence] ++
    fieldBytes (fun f => [feederByte f]) n.fields.feeder ++
    fieldBytes (fun h => [BitVec.ofNat 8 h]) n.fields.handle ++
    fieldBytes (fun v : Serial => beBytes 8 v.toNat) n.fields.serial ++
    fieldBytes (fun v : Word32 => beBytes 4 v.toNat) n.fields.dwelling ++
    fieldBytes (fun r => [NoticeReason.byte r]) n.fields.reason ++
    fieldBytes (fun l => [BitVec.ofNat 8 l]) n.fields.level ++
    fieldBytes (fun w : Byte × Byte => [w.1, w.2]) n.fields.words

/-- The frame a transmission puts on the trunk. A reply or notice carries target 0 and handle 0 (R206). -/
def TrunkOut.bytes (tagType : BitVec 16) : TrunkOut → Bytes
  | .reply r => trunkFrame r.destination r.source tagType 0#8 0 r.payload
  | .notice d src n => trunkFrame d src tagType 0#8 0 n.payload
  | .data u => u.bytes

/-! ## Reports (R188, section 11.2) -/

/-- A signed quantity as a two's-complement byte. -/
def signedByte (i : Int) : Byte := BitVec.ofInt 8 i

/-- A number of one byte. -/
def num1 (n : Nat) : Bytes := beBytes 1 n

/-- A number, countdown or setting of two bytes. -/
def num2 (n : Nat) : Bytes := beBytes 2 n

/-- A record's fields in the order of R3 to R7; a FREE record gives its handle and state alone (R8). The sign of the
drift run is present while the run is above 0, and an owed message is reported as its message entry (log entry 10). -/
def recordReport (h : Nat) (r : Record) : Bytes :=
  if r.state = .free then [BitVec.ofNat 8 h, r.state.byte]
  else
    [BitVec.ofNat 8 h, r.state.byte] ++ optionBytes (fun v : Serial => beBytes 8 v.toNat) r.serial ++
      optionBytes num2 r.planLink ++ num1 r.profile.val ++ optionBytes (fun x => [HeldFrom.byte x]) r.heldFrom ++
      num2 r.eqd ++ [signedByte r.residue] ++ num1 r.eqAttempts ++ num1 r.driftRun.natAbs ++
      optionBytes (fun i => [signedByte i]) (if r.driftRun = 0 then none else some r.driftRun.sign) ++
      num1 r.misplacedRun ++ num1 r.levelSetting ++ optionBytes num1 r.lastLevel ++ num1 r.levelRun ++
      [boolByte r.walking] ++ num2 r.pace ++ optionBytes (fun c : CycleNumber => beBytes 2 c.toNat) r.settle ++
      num2 r.checkCd ++ num2 r.dataCd ++ num1 r.grace ++ num1 r.miss ++ num1 r.suspectLeft ++
      [r.confirmed] ++ optionBytes (fun w => [w]) r.candidate ++ [boolByte r.mainsFailing] ++ num1 r.recAttempts ++
      num2 r.recCd ++ optionBytes (fun m => messageEntry h m) r.owed ++
      optionBytes (fun x => [EjectReason.byte x]) r.ejectReason ++ optionBytes num2 r.drain ++
      [boolByte r.reachEdge, boolByte r.levelEdge]

/-- An arrival's fields in the order of R87. -/
def Arrival.report (a : Arrival) : Bytes :=
  let (status, held, source, profile, cd) :=
    match a.status with
    | .readyPlan p => ((0#8 : Byte), none, some (0#8 : Byte), some p.val, none)
    | .readyCommand p => (0#8, none, some 1#8, some p.val, none)
    | .held r n => (1#8, some r.byte, none, none, some n)
  beBytes 8 a.serial.toNat ++ [status] ++ optionBytes (fun b => [b]) held ++ optionBytes (fun b => [b]) source ++
    optionBytes num1 profile ++ optionBytes num2 (a.link.map (·.index)) ++ optionBytes num2 cd ++
    num2 a.measured.eqd ++ [signedByte a.measured.residue] ++ num1 a.measured.level ++
    beBytes 2 a.measured.cycle.toNat ++ [a.measured.attempts, a.measured.firmware.setWidth 8]

/-- A list report: a one-byte count, then the items, oldest first. -/
def listReport {α : Type} (enc : α → Bytes) (l : List α) : Bytes := num1 l.length ++ (l.map enc).flatten

/-- A plan entry's report (R79). -/
def PlanEntry.report (e : PlanEntry) : Bytes :=
  if e.inUse then
    [1#8, e.kind.byte] ++ beBytes 8 e.serial.toNat ++ optionBytes (fun v : BitVec 64 => beBytes 8 v.toNat) e.mask ++
      beBytes 4 e.dwelling.toNat ++ [e.expected.byte] ++ num1 e.profile.val ++
      num1 ((if e.preAuth then 1 else 0) + (if e.auto then 2 else 0) + (if e.hold then 4 else 0)) ++
      optionBytes num2 e.limit ++ optionBytes num1 e.count ++
      optionBytes (fun c : FeederId × Nat => feederByte c.1 :: num1 c.2) e.claim
  else [0#8]

/-- A profile's report with the all-lock (R85). -/
def Profile.report (p : Profile) (allLock : Bool) : Bytes :=
  num2 p.dataLength ++ num2 p.dataInterval ++ num2 p.presence ++ num2 p.missLimit ++ num2 p.grace ++
    [p.policy.byte, boolByte p.locked, boolByte allLock]

/-- The settings in the order of R32. -/
def Settings.report (x : Settings) : Bytes :=
  [x.reach.byte] ++ num2 x.callInGap ++ num2 x.rootInterval ++ num2 x.spread.slots ++ num2 (2 ^ x.fan.bits) ++
    [x.pollOrder.byte] ++ num2 x.decisionCycles ++ num2 x.driftTrip ++ num2 x.driftRun ++ num2 x.levelLow ++
    num2 x.levelHigh ++ num2 x.levelPace ++ num2 x.guard ++ num2 x.darkDebounce ++ num2 x.strayRun

/-- The counters in the order of R47. -/
def Counters.report (c : Counters) : Bytes :=
  num2 c.windows ++ num2 c.collisions ++ num2 c.malformed ++ num2 c.barredCallIns ++ num2 c.arrivalsOverflow ++
    num2 c.misplaced ++ num2 c.dataDeferrals ++ num2 c.downstreamRefused ++ num2 c.upstreamDropped

/-- FEEDER_STATUS's results (R49). -/
def Feeder.report (fd : Feeder) : Bytes :=
  [fd.state.byte] ++ optionBytes num1 fd.seqCount ++ [boolByte fd.dark, boolByte fd.stray] ++ num1 fd.darkRun ++
    num1 fd.lightRun ++ num1 fd.strayRun ++ fd.settings.report ++
    [fd.watch.mode.byte, fd.watch.mask, fd.watch.compare] ++ fd.counters.report ++
    [boolByte fd.latched.wentDark, boolByte fd.latched.straySeen, boolByte fd.latched.arrivalsFull,
      boolByte fd.latched.queueFull]

/-- STATUS_READ's results (R191). -/
def State.statusReport (s : State) : Bytes :=
  [boolByte s.holdover, s.wdMode.byte] ++ num2 s.wdPeriod ++ [boolByte s.wdArmed] ++ beBytes 3 s.wdCd ++
    num1 s.receipt ++ beBytes 4 s.noticeMask.toNat ++ num1 s.notices.length ++
    [s.freeze.byte, boolByte s.freezeLock, boolByte s.guardEnable, boolByte s.pins.planGuard, boolByte s.allLock] ++
    num2 s.barHold ++ num1 s.bars.length ++ beBytes 2 s.cycle.toNat ++
    [boolByte s.timingRuns, s.feederA.state.byte, s.feederB.state.byte] ++ num2 s.badTags ++ num2 s.mgmtDropped ++
    [boolByte s.noticeOverrun, boolByte s.holdoverEntered]

/-- IDENTIFY's results (R190). -/
def State.identityReport (s : State) : Bytes :=
  beBytes 2 Config.vendorCode.toNat ++ num2 Config.partNumber ++ [Config.designStep] ++ beBytes 2 s.tagType.toNat ++
    num1 2 ++ num1 255 ++ num2 512 ++ num1 8 ++ num1 32 ++ num1 16 ++ num1 32

/-- BAR_READ's results (R194). -/
def State.barReport (s : State) : Bytes :=
  num2 s.barHold ++ listReport (fun b : BarEntry => beBytes 8 b.serial.toNat ++ num2 b.countdown) s.bars

end Sys2Proof.Machine
end

