-- ==== Sys2Proof/Machine/Gate.lean ====
section
/-! DEFINITION. The Traffic Gate's trunk side (chapter 9), the resets, and the loss of power. -/
namespace Sys2Proof.Machine

open Sys2Proof

/-! ## Frames from the trunk (R177, R178) -/

/-- A management frame joins the management receive buffer, or is dropped and counted (R177, step 3). -/
def State.joinManagement (s : State) (frame : Bytes) : State :=
  if s.mgmtBuffer.length < Config.managementCapacity then { s with mgmtBuffer := s.mgmtBuffer ++ [frame] }
  else { s with mgmtDropped := satInc16 s.mgmtDropped }

/-- The table of R178: a frame for handle `h` is admitted. -/
def Feeder.admitsFrame (fd : Feeder) (h : Nat) : Bool :=
  fd.state.serving && (decide (h = 0) || (fd.record h).state.carriesTraffic)

/-- A frame for a feeder is admitted to its downstream buffer, or refused and counted (R177, step 4; R178). A frame without
room for its check behind the tag fails the check (DESIGN CHOICE, log entry 41). -/
def Feeder.takeFrame (fd : Feeder) (frame : Bytes) : Feeder :=
  if checkGood tagEnd frame && fd.admitsFrame (frameHandle frame) &&
      decide (fd.downBuffer.length < Config.downstreamCapacity) then
    { fd with downBuffer := fd.downBuffer ++ [{ handle := frameHandle frame, frame := removeTag frame }] }
  else fd.count .downstreamRefused 1

/-- A frame dropped for its tag (R177, steps 1 and 2). -/
def State.badTag (s : State) : State := { s with badTags := satInc16 s.badTags }

/-- The sort of a trunk frame by its estate tag (R177). Whether the frame check counts in the length that step 1 and R206
compare with the addresses and tag is open: the whole frame, check included, is compared with 16, so the tag of a frame of
16 to 19 bytes is read from bytes that may be its check (DESIGN CHOICE, log entry 41, unsafe). -/
def State.sortFrame (s : State) (frame : Bytes) : State :=
  if frame.length < tagEnd ∨ frameTagType frame ≠ s.tagType then s.badTag
  else
    match frameTarget frame with
    | 0 => s.joinManagement frame
    | 1 => s.modFd .A (·.takeFrame frame)
    | 2 => s.modFd .B (·.takeFrame frame)
    | _ => s.badTag

/-! ## Resets (R198, R204, R205, R211) -/

/-- What left the trunk transmitter when a frame in transmission is cut off (R176, R205). -/
def State.cutOff (s : State) : Option TrunkSent :=
  match s.transmitting with
  | some t => some { frame := t, intact := false }
  | none => s.lastSent

/-- The watchdog mode that the straps select (R198). -/
def Straps.watchdogMode (x : Straps) : WatchdogMode :=
  if x.mode1 then .fromStart else if x.mode0 then .afterFirst else .off

/-- The straps sampled: the watchdog fields take their reset values (R186, R198). -/
def State.sampleStraps (s : State) (x : Straps) : State :=
  { s with
    pins := { s.pins with mode1 := x.mode1, mode0 := x.mode0 }
    wdMode := Straps.watchdogMode x
    wdArmed := decide (Straps.watchdogMode x = .fromStart)
    wdCd := if Straps.watchdogMode x = .fromStart then 16384 else 0 }

/-- A power-on reset: every block takes its reset values and waits for the release (R1 and the reset column of each
chapter). -/
def State.powerOn (s : State) : State := State.heldReset s.pending .held s.pins s.cutOff

/-- RESET driven low: the part is held in its pin reset (R205, R211). -/
def State.pinReset (s : State) : State :=
  if s.phase = .unpowered then s else State.heldReset s.pending .held { s.pins with reset := false } s.cutOff

/-- The release of a power-on or pin reset, at which the straps are sampled (R211). -/
def State.releaseReset (s : State) (x : Straps) : State :=
  if s.phase = .held then State.sampleStraps { s with phase := .running, pins := { s.pins with reset := true } } x else s

/-- The trunk transmitter sends the PART_RESET reply (R204). -/
def State.sendsPartReset (s : State) : Bool :=
  match s.transmitting with
  | some (.reply r) => r.isPartReset
  | _ => false

/-- How the frame in transmission leaves when it runs to its end. -/
def State.sentWhole (s : State) : Option TrunkSent :=
  match s.transmitting with
  | some t => some { frame := t, intact := true }
  | none => s.lastSent

/-- The part reset takes effect once the last bit of the PART_RESET reply is sent (R204, R211; log entry 23). -/
def State.partReset (s : State) (x : Straps) : State :=
  if s.sendsPartReset then (State.heldReset s.pending .running s.pins s.sentWhole).sampleStraps x else s

/-- A loss of power: the part stops at once and a frame in transmission is cut off (R205; log entry 21). -/
def State.losePower (s : State) : State := { s with phase := .unpowered, transmitting := none, lastSent := s.cutOff }

/-! ## The trunk transmitter (R183) -/

/-- The notice frame composed from an entry: its addresses as its transmission begins (R206). -/
def State.noticeFrame (s : State) (n : Notice) : TrunkOut :=
  .notice (s.lastManager.getD (BitVec.allOnes 48)) (s.lastReplySource.getD 0#48) n

/-- The arbiter chooses the next frame: a reply, else a notice, else an upstream frame, else none (R183). -/
def State.arbitrate (s : State) : State :=
  match s.replies with
  | r :: rest => { s with transmitting := some (.reply r), replies := rest, lastReplySource := some r.source }
  | [] =>
    match s.notices with
    | n :: rest => { s with transmitting := some (s.noticeFrame n), notices := rest }
    | [] =>
      match s.upBuffer with
      | u :: rest => { s with transmitting := some (.data u), upBuffer := rest }
      | [] => { s with transmitting := none }

/-- A frame boundary: the frame in transmission has run to its end, and the arbiter chooses the next (R183). The end of
the PART_RESET reply is where the part reset takes effect (R204). The boundary of an idle transmitter, the moment a frame
becomes ready, is an event of its own too, which the sender of the queue sends (DESIGN CHOICE, log entry 39). -/
def State.frameBoundary (s : State) (x : Straps) : State :=
  if s.sendsPartReset then s.partReset x else State.arbitrate { s with lastSent := s.sentWhole }

end Sys2Proof.Machine
end

