-- ==== Sys2Proof/Machine/Supervision.lean ====
section
/-! DEFINITION. The Supervision Unit (chapter 8): the hunt, hush recovery, and the condition word. -/
namespace Sys2Proof.Machine

open Sys2Proof

/-! ## Hush recovery (R166 to R169) -/

/-- The wait of a recovery policy before an attempt (section 8.4). -/
def Policy.wait : Policy → Nat
  | .off => 0
  | .try3x64 => 64
  | .try3x512 => 512
  | .endless512 => 512

/-- The policy ejects a record with this many recovery attempts (R166, R167). -/
def Policy.givesUp (p : Policy) (attempts : Nat) : Bool :=
  match p with
  | .off => true
  | .try3x64 => decide (3 ≤ attempts)
  | .try3x512 => decide (3 ≤ attempts)
  | .endless512 => false

/-- The recovery policy of a record's profile as it stands. -/
def State.policyOf (s : State) (f : FeederId) (h : Nat) : Policy := (s.profileOf (s.record f h)).policy

/-- The decision taken as a record enters HUSHED (R166). -/
def State.entryDecision (s : State) (f : FeederId) (h : Nat) : State :=
  if (s.policyOf f h).givesUp (s.record f h).recAttempts then s.ejectAndBar f h .stray
  else s.modRecord f h fun r => { r with recCd := (s.policyOf f h).wait }

/-- The decision taken as a HUSHED record's recovery countdown reaches 0 (R167). -/
def State.recoveryDecision (s : State) (f : FeederId) (h : Nat) : State :=
  if (s.policyOf f h).givesUp (s.record f h).recAttempts then s.ejectAndBar f h .stray
  else s.modFd f fun fd =>
    (fd.offerResume h).modRecord h fun r => { r with recAttempts := incUpTo 255 r.recAttempts }

/-- A record stands within its re-hush watch (R168). -/
def Record.withinWatch (r : Record) : Bool := decide (r.state = .inService) && decide (0 < r.recCd)

/-- The record within its watch that was resumed last: the largest recovery countdown, the lowest handle among equals
(R169). -/
def Feeder.watched (fd : Feeder) : Option Nat :=
  let hs := fd.handlesWhere fun _ r => r.withinWatch
  hs.find? fun h => hs.all fun k => decide ((fd.record k).recCd ≤ (fd.record h).recCd)

/-- A re-hush (R169): the stray run becomes 0 and STRAY stays clear (R45). -/
def State.reHush (s : State) (f : FeederId) (h : Nat) : State :=
  let s1 := s.modFd f fun fd => (fd.modRecord h fun r => { r with state := .hushed, recCd := 0 }).offerHush h
  (s1.entryDecision f h).modFd f fun fd => { fd with strayRun := 0 }

/-! ## The hunt (R158 to R163) -/

/-- A hunt starts (R158). -/
def State.startHunt (s : State) (f : FeederId) : State :=
  (s.modFd f fun fd => { fd with hunt := { idleHunt with state := .hunting } }).chooseTarget f

/-- STRAY cleared, the stray run 0 and the hunt record at its reset values (R46, R160, R161). -/
def Feeder.endStray (fd : Feeder) : Feeder := { fd with stray := false, strayRun := 0, hunt := idleHunt }

/-- A target in HUSH_OFFERED or WATCHING is released by a RESUME; one in RELEASING already has it (R161). -/
def Feeder.releaseHeld (fd : Feeder) : Feeder :=
  match fd.hunt.target with
  | none => fd
  | some h => if fd.hunt.phase = some .releasing then fd else fd.offerResume h

/-- The light has gone out while no target was dark: the end of a hunt, without its notice (R161, R163). -/
def Feeder.endHunt (fd : Feeder) : Feeder := fd.releaseHeld.endStray

/-- The hunt ends as the light vanishes, with the notice STRAY_CLEARED (R161). -/
def State.strayVanished (s : State) (f : FeederId) : State :=
  (s.modFd f (·.endHunt)).raise .strayCleared { feeder := some f }

/-- The target is found to be the culprit (R160). -/
def State.culprit (s : State) (f : FeederId) (h : Nat) : State :=
  let r := s.record f h
  let s1 := (s.modRecord f h fun r => { r with state := .hushed, heldFrom := none }).raise .strayFound
    { feeder := some f, handle := some h, serial := r.serial, dwelling := s.dwellingOf r.planLink }
  (s1.modFd f (·.endStray)).entryDecision f h

/-- The target is released and its phase becomes RELEASING (R160, step 4). -/
def Feeder.releaseTarget (fd : Feeder) (h : Nat) : Feeder :=
  { (fd.offerResume h) with hunt := { fd.hunt with phase := some .releasing, hushCycle := none } }

/-- The report is of the hush cycle or of an upstream cycle that began after it. Two cycles whose numbers lie less than
32,768 apart are ordered by that distance, since the numbers wrap (log entry 18). -/
def Hunt.takesAsHushed (t : Hunt) (n : CycleNumber) : Bool :=
  decide (t.phase = some .watching) &&
    match t.hushCycle with
    | some c => decide ((n - c).toNat < 32768)
    | none => false

/-- A hushed report (R160). -/
def State.hushedReport (s : State) (f : FeederId) (h : Nat) (light : Bool) : State :=
  let t := (s.fd f).hunt
  let absence := if light then 0 else t.absence + 1
  if 2 ≤ absence then s.culprit f h
  else
    let watch := t.watchCd - 1
    s.modFd f fun fd =>
      let fd1 := { fd with hunt := { t with absence := absence, watchCd := watch } }
      if watch = 0 ∧ absence = 0 then fd1.releaseTarget h else fd1

/-- A report that is not a hushed report (R161). -/
def State.openReport (s : State) (f : FeederId) (light : Bool) : State :=
  let t := (s.fd f).hunt
  let absence := if light then 0 else t.absence + 1
  if 2 ≤ absence then s.strayVanished f
  else s.modFd f fun fd => { fd with hunt := { t with absence := absence } }

/-- The stray report that closes an evaluated upstream cycle (R160, R161, R163). -/
def State.strayReport (s : State) (f : FeederId) (n : CycleNumber) (light : Bool) : State :=
  let t := (s.fd f).hunt
  if t.state ≠ .hunting then s
  else
    match t.target with
    | some h => if t.takesAsHushed n then s.hushedReport f h light else s.openReport f light
    | none => s.openReport f light

/-! ## The condition word (R171 to R174) -/

/-- The watch decides whether a confirmation raises CONDITION (R174). -/
def Watch.raises (w : Watch) (old new : Byte) : Bool :=
  match w.mode with
  | .event => decide ((old ^^^ new) &&& w.mask ≠ 0#8)
  | .matching => decide (new &&& w.mask = w.compare &&& w.mask) && decide (old &&& w.mask ≠ w.compare &&& w.mask)

/-- Bit 0 of a word taken (R171). -/
def State.takeMains (s : State) (f : FeederId) (h : Nat) (w : Byte) : State :=
  let r := s.record f h
  let s1 := s.modRecord f h fun r => { r with mainsFailing := w.getLsbD 0 }
  if w.getLsbD 0 && !r.mainsFailing then
    s1.raise .mainsFailing
      { feeder := some f, handle := some h, serial := r.serial, dwelling := s.dwellingOf r.planLink }
  else s1

/-- The debounce of a word taken, and the watch at a confirmation (R172, R174). -/
def State.debounce (s : State) (f : FeederId) (h : Nat) (w : Byte) : State :=
  let r := s.record f h
  if w = r.confirmed then s.modRecord f h fun r => { r with candidate := none }
  else if r.candidate = some w then
    let s1 := s.modRecord f h fun r => { r with confirmed := w, candidate := none }
    if (s.fd f).watch.raises r.confirmed w then
      s1.raise .condition
        { feeder := some f, handle := some h, serial := r.serial, dwelling := s.dwellingOf r.planLink,
          words := some (r.confirmed, w) }
    else s1
  else s.modRecord f h fun r => { r with candidate := some w }

/-- A condition word taken (R171). -/
def State.takeCondition (s : State) (f : FeederId) (h : Nat) (w : Byte) : State :=
  (s.takeMains f h w).debounce f h w

end Sys2Proof.Machine
end

