-- ==== Sys2Proof/Machine/Manage.lean ====
section
/-! DEFINITION. The Management Unit (chapter 10): what each command does and reports, and the taking of a frame. -/
namespace Sys2Proof.Machine

open Sys2Proof

/-! ## Outcomes (R188) -/

/-- A refused command changes nothing (R189). -/
def refuse (s : State) (r : Reason) : State × CmdResult := (s, .refused r)

/-- DONE with no results. -/
def done (s : State) : State × CmdResult := (s, .done [])

/-- DONE with results. -/
def reportDone (s : State) (results : Bytes) : State × CmdResult := (s, .done results)

/-- DONE_CLAMPED when a value was clamped, DONE otherwise (R189). -/
def doneClamped (s : State) (clamped : Bool) : State × CmdResult := (s, if clamped then .clamped else .done [])

/-- The guard acts: the guard enable is set and PLAN_GUARD is asserted (R82). -/
def State.guarded (s : State) : Bool := s.guardEnable && s.pins.planGuard

/-! ## Device commands -/

/-- IDENTIFY (R190). -/
def State.cmdIdentify (s : State) : State × CmdResult := reportDone s s.identityReport

/-- PART_RESET (R204). -/
def State.cmdPartReset (s : State) : State × CmdResult := done { s with resetPending := true }

/-- The device counters and latched flags cleared (R191). -/
def State.clearDevice (s : State) : State :=
  { s with badTags := 0, mgmtDropped := 0, noticeOverrun := false, holdoverEntered := false }

/-- STATUS_READ (R191). -/
def State.cmdStatusRead (s : State) (clear : Byte) : State × CmdResult :=
  match yesNoArg clear with
  | none => refuse s .badArg
  | some c => reportDone (if c then s.clearDevice else s) s.statusReport

/-- WATCHDOG_SET (R200). In holdover it loads the countdown too, as R200 says of the countdown that a WATCHDOG_SET leaves
(DEDUCED, log entry 38). -/
def State.cmdWatchdogSet (s : State) (mode : Byte) (period : Word16) : State × CmdResult :=
  match watchdogModeArg mode, periodArg period with
  | some m, some t =>
    done { s with
      wdMode := m
      wdPeriod := t
      wdArmed := decide (m ≠ .off)
      wdCd := if m = .off then 0 else t }
  | _, _ => refuse s .badArg

/-- HOLDOVER_EXIT (R202). -/
def State.cmdHoldoverExit (s : State) : State × CmdResult :=
  if s.holdover then
    if s.wdMode = .off then done { s with holdover := false }
    else done { s with holdover := false, wdArmed := true, wdCd := s.wdPeriod }
  else done s

/-- NOTICE_MASK_SET (R197, R208). -/
def State.cmdNoticeMaskSet (s : State) (mask : Word32) : State × CmdResult :=
  if mask >>> 20 ≠ 0#32 then refuse s .badArg else done { s with noticeMask := mask }

/-! ## Feeder commands -/

/-- What a FEEDER_SET's value makes of a setting (R34). -/
inductive SettingWrite where
  | badValue
  | crossed
  | written (settings : Settings) (clamped : Bool)
deriving DecidableEq, Repr

/-- A numeric setting clamped and written (R34, step 6). -/
def writeNumber (lo hi : Nat) (value : Word16) (put : Nat → Settings) : SettingWrite :=
  .written (put (clampTo lo hi value.toNat)) (outside lo hi value.toNat)

/-- An enumerated setting written, or its value unassigned (R34, step 3). -/
def writeChoice {α : Type} (choice : Option α) (put : α → Settings) : SettingWrite :=
  match choice with
  | some c => .written (put c) false
  | none => .badValue

/-- LEVEL_WINDOW clamped and written, unless the low value then stands above the high value (R34, step 6). -/
def writeLevelWindow (x : Settings) (low high : Word16) : SettingWrite :=
  let l := clampTo 0 63 low.toNat
  let h := clampTo 0 63 high.toNat
  if h < l then .crossed
  else .written { x with levelLow := l, levelHigh := h } (outside 0 63 low.toNat || outside 0 63 high.toNat)

/-- A setting written by its identifier, coded from 00h in the order of R32 (R207). -/
def Settings.write (x : Settings) (id : Byte) (value high : Word16) : SettingWrite :=
  match id.toNat with
  | 0x00 => writeChoice (reachArg value) fun c => { x with reach := c }
  | 0x01 => writeNumber 1 15 value fun n => { x with callInGap := n }
  | 0x02 => writeNumber 16 4096 value fun n => { x with rootInterval := n }
  | 0x03 => writeChoice (spreadArg value) fun c => { x with spread := c }
  | 0x04 => writeChoice (fanArg value) fun c => { x with fan := c }
  | 0x05 => writeChoice (pollArg value) fun c => { x with pollOrder := c }
  | 0x06 => writeNumber 256 65535 value fun n => { x with decisionCycles := n }
  | 0x07 => writeNumber 1 15 value fun n => { x with driftTrip := n }
  | 0x08 => writeNumber 1 15 value fun n => { x with driftRun := n }
  | 0x09 => writeLevelWindow x value high
  | 0x0A => writeNumber 2 64 value fun n => { x with levelPace := n }
  | 0x0B => writeNumber 4 64 value fun n => { x with guard := n }
  | 0x0C => writeNumber 4 64 value fun n => { x with darkDebounce := n }
  | 0x0D => writeNumber 2 16 value fun n => { x with strayRun := n }
  | _ => .badValue

/-- A feeder in its open sequence. -/
def FeederState.sequencing : FeederState → Bool
  | .quieting => true
  | .purging => true
  | _ => false

/-- FEEDER_SET (R34). -/
def State.cmdFeederSet (s : State) (feeder setting : Byte) (value high : Word16) : State × CmdResult :=
  match feederArg feeder with
  | none => refuse s .badArg
  | some f =>
    match (s.fd f).settings.write setting value high with
    | .badValue => refuse s .badArg
    | .crossed => if (s.fd f).state.sequencing then refuse s .busy else refuse s .badArg
    | .written x clamped =>
      if (s.fd f).state.sequencing then refuse s .busy
      else if setting = 0#8 ∧ (s.fd f).state ≠ .closed then refuse s .wrongState
      else doneClamped (s.modFd f fun fd => { fd with settings := x }) clamped

/-- A CLOSED feeder opened; when the other is CLOSED too, the shared timing starts again with the next cycle number
(R28, R36). -/
def State.openFeeder (s : State) (f : FeederId) : State :=
  (if s.timingRuns then s else { s with cycle := s.cycle + 1#16, award := none }).modFd f fun fd =>
    { fd with state := .quieting, seqCount := some 64 }

/-- FEEDER_OPEN (R36). -/
def State.cmdFeederOpen (s : State) (feeder : Byte) : State × CmdResult :=
  match feederArg feeder with
  | none => refuse s .badArg
  | some f =>
    match (s.fd f).state with
    | .closed => done (s.openFeeder f)
    | .quieting => refuse s .busy
    | .purging => refuse s .busy
    | .opened => refuse s .wrongState
    | .paused => refuse s .wrongState

/-- What a close leaves of a feeder: its settings and watch settings stand, everything else is at its reset value (R39,
R55, R88, R132, R155, R176). The line keeps what was last sent. -/
def Feeder.close (fd : Feeder) : Feeder :=
  { resetFeeder with settings := fd.settings, watch := fd.watch, line := fd.line }

/-- An award made to a feeder withdrawn by its close (R60, R63). -/
def Award.withdraw (a : Award) (f : FeederId) : Award := if a.winner = some f then { a with winner := none } else a

/-- A feeder closed (R21, R39, R60). -/
def State.closeFeeder (s : State) (f : FeederId) : State :=
  let s1 := (s.fd f).table.toList.foldl (fun t r => t.releaseLink r.planLink) s
  State.modFd
    { s1 with
      windows := s1.windows.filter fun w => decide (w.feeder ≠ f)
      award := s1.award.map (·.withdraw f) } f (·.close)

/-- FEEDER_CLOSE (R39, R40). -/
def State.cmdFeederClose (s : State) (feeder : Byte) : State × CmdResult :=
  match feederArg feeder with
  | none => refuse s .badArg
  | some f => if (s.fd f).state = .closed then done s else done (s.closeFeeder f)

/-- FEEDER_PAUSE (R41). -/
def State.cmdFeederPause (s : State) (feeder : Byte) : State × CmdResult :=
  match feederArg feeder with
  | none => refuse s .badArg
  | some f =>
    if (s.fd f).state = .opened then done (s.modFd f fun fd => { fd with state := .paused }) else refuse s .wrongState

/-- FEEDER_RESUME (R42). -/
def State.cmdFeederResume (s : State) (feeder : Byte) : State × CmdResult :=
  match feederArg feeder with
  | none => refuse s .badArg
  | some f =>
    if (s.fd f).state = .paused then done (s.modFd f fun fd => { fd with state := .opened }) else refuse s .wrongState

/-- FEEDER_STATUS (R49). -/
def State.cmdFeederStatus (s : State) (feeder clear : Byte) : State × CmdResult :=
  match feederArg feeder, yesNoArg clear with
  | some f, some c =>
    reportDone (if c then s.modFd f fun fd => { fd with counters := zeroCounters, latched := clearLatched } else s)
      (s.fd f).report
  | _, _ => refuse s .badArg

/-- WATCH_SET (R173). -/
def State.cmdWatchSet (s : State) (feeder mode mask compare : Byte) : State × CmdResult :=
  match feederArg feeder, watchModeArg mode with
  | some f, some m => done (s.modFd f fun fd => { fd with watch := { mode := m, mask := mask, compare := compare } })
  | _, _ => refuse s .badArg

/-- STRAY_CLEAR (R46, R163). -/
def State.cmdStrayClear (s : State) (feeder : Byte) : State × CmdResult :=
  match feederArg feeder with
  | none => refuse s .badArg
  | some f => if (s.fd f).stray then done (s.modFd f (·.endHunt)) else done s

/-! ## Plan commands -/

/-- The index lies in the freeze range (R80). -/
def FreezeRange.holds (r : FreezeRange) (i : Nat) : Bool :=
  match r with
  | .none => false
  | .upper64 => decide (448 ≤ i)
  | .upper128 => decide (384 ≤ i)
  | .upper256 => decide (256 ≤ i)
  | .lower64 => decide (i < 64)
  | .lower128 => decide (i < 128)
  | .lower256 => decide (i < 256)
  | .all => true

/-- The entry an accepted PLAN_WRITE leaves where `old` stood (R77). -/
def PlanEntry.rewrite (old : PlanEntry) (a : PlanArgs) (kind : PlanKind) (expected : Expected) (profile : Fin 8) :
    PlanEntry where
  inUse := true
  kind := kind
  serial := a.serial
  mask := if kind = .pattern then some a.mask else none
  dwelling := a.dwelling
  expected := expected
  profile := profile
  preAuth := a.flags.getLsbD 0
  auto := a.flags.getLsbD 1
  hold := a.flags.getLsbD 2
  limit := if kind = .pattern then some (clampTo 1 255 a.limit.toNat) else none
  count := if kind = .pattern then (if old.inUse = true ∧ old.kind = .pattern then old.count else some 0) else none
  claim := if kind = .exact ∧ old.inUse = true ∧ old.kind = .exact then old.claim else none

/-- An EXACT entry with a claim, or a PATTERN entry with a nonzero admit count (R76, R78). -/
def PlanEntry.held (e : PlanEntry) : Bool :=
  e.inUse &&
    match e.kind with
    | .exact => e.claim.isSome
    | .pattern => decide (e.count.getD 0 ≠ 0)

/-- A write to a held entry that CLAIMED refuses (R76, step 5). -/
def PlanEntry.claimedAgainst (old new : PlanEntry) : Bool :=
  old.held &&
    (decide (new.kind ≠ old.kind) || decide (new.serial ≠ old.serial) || decide (new.mask ≠ old.mask) ||
      decide (new.expected ≠ old.expected) || decide (new.limit.getD 255 < old.count.getD 0))

/-- Another in-use EXACT entry, at a different index, holds the serial (R76, step 6). -/
def State.duplicateExact (s : State) (i : Nat) (serial : Serial) : Bool :=
  s.plan.toList.zipIdx.any fun x =>
    decide (x.2 ≠ i) && x.1.inUse && decide (x.1.kind = .exact) && decide (x.1.serial = serial)

/-- PLAN_WRITE (R76, R77). -/
def State.cmdPlanWrite (s : State) (a : PlanArgs) : State × CmdResult :=
  if s.guarded then refuse s .guarded
  else
    match indexArg a.index, planKindArg a.kind, expectedArg a.expected, profileArg a.profile with
    | some i, some kind, some expected, some profile =>
      if a.flags.getLsbD 1 = true ∧ kind = .exact then refuse s .badArg
      else if s.freeze.holds i then refuse s .frozen
      else
        let new := (s.planAt i).rewrite a kind expected profile
        if (s.planAt i).claimedAgainst new then refuse s .claimed
        else if kind = .exact ∧ s.duplicateExact i a.serial = true then refuse s .duplicate
        else doneClamped (s.setPlan i new) (decide (kind = .pattern) && outside 1 255 a.limit.toNat)
    | _, _, _, _ => refuse s .badArg

/-- PLAN_READ (R79). -/
def State.cmdPlanRead (s : State) (index : Word16) : State × CmdResult :=
  match indexArg index with
  | none => refuse s .badArg
  | some i => reportDone s (s.planAt i).report

/-- PLAN_ERASE (R78). -/
def State.cmdPlanErase (s : State) (index : Word16) : State × CmdResult :=
  if s.guarded then refuse s .guarded
  else
    match indexArg index with
    | none => refuse s .badArg
    | some i =>
      if s.freeze.holds i then refuse s .frozen
      else if (s.planAt i).held then refuse s .claimed
      else done (s.setPlan i unusedEntry)

/-- FREEZE_SET (R80). -/
def State.cmdFreezeSet (s : State) (range : Byte) : State × CmdResult :=
  if s.guarded then refuse s .guarded
  else
    match freezeArg range with
    | none => refuse s .badArg
    | some r => if s.freezeLock then refuse s .locked else done { s with freeze := r }

/-- FREEZE_LOCK (R81). -/
def State.cmdFreezeLock (s : State) : State × CmdResult :=
  if s.guarded then refuse s .guarded else done { s with freezeLock := true }

/-- GUARD_SET (R82). R82 gives BAD_ARG for an unassigned value byte (R207) no place among its checks: it stands behind
GUARDED, as in the other guarded commands (DESIGN CHOICE, log entry 37). -/
def State.cmdGuardSet (s : State) (value : Byte) : State × CmdResult :=
  if s.guarded then refuse s .guarded
  else
    match yesNoArg value with
    | none => refuse s .badArg
    | some v => done { s with guardEnable := v }

/-! ## Profile commands -/

/-- The profile PROFILE_WRITE leaves, its lock flag kept (R85). -/
def Profile.rewrite (old : Profile) (a : ProfileArgs) (policy : Policy) : Profile where
  dataLength := clampTo 0 4000 a.dataLength.toNat
  dataInterval := clampTo 1 64 a.dataInterval.toNat
  presence := clampTo 16 4096 a.presence.toNat
  missLimit := clampTo 1 15 a.missLimit.toNat
  grace := clampTo 0 15 a.grace.toNat
  policy := policy
  locked := old.locked

/-- A value of PROFILE_WRITE lies outside its range (R85). -/
def profileClamped (a : ProfileArgs) : Bool :=
  outside 0 4000 a.dataLength.toNat || outside 1 64 a.dataInterval.toNat || outside 16 4096 a.presence.toNat ||
    outside 1 15 a.missLimit.toNat || outside 0 15 a.grace.toNat

/-- A profile replaced. -/
def State.setProfile (s : State) (i : Fin 8) (p : Profile) : State := { s with profiles := s.profiles.set i p }

/-- PROFILE_WRITE (R85). -/
def State.cmdProfileWrite (s : State) (a : ProfileArgs) : State × CmdResult :=
  if s.guarded then refuse s .guarded
  else
    match profileArg a.index, policyArg a.policy with
    | some i, some policy =>
      if s.profiles[i].locked || s.allLock then refuse s .locked
      else doneClamped (s.setProfile i (s.profiles[i].rewrite a policy)) (profileClamped a)
    | _, _ => refuse s .badArg

/-- PROFILE_READ (R85). -/
def State.cmdProfileRead (s : State) (index : Byte) : State × CmdResult :=
  match profileArg index with
  | none => refuse s .badArg
  | some i => reportDone s (s.profiles[i].report s.allLock)

/-- PROFILE_LOCK and PROFILE_UNLOCK: the lock flag of one profile written (R86). -/
def State.writeProfileLock (s : State) (index : Byte) (locked : Bool) : State × CmdResult :=
  if s.guarded then refuse s .guarded
  else
    match profileArg index with
    | none => refuse s .badArg
    | some i =>
      if s.allLock then refuse s .locked else done (s.setProfile i { s.profiles[i] with locked := locked })

/-- PROFILE_LOCK (R86). -/
def State.cmdProfileLock (s : State) (index : Byte) : State × CmdResult := s.writeProfileLock index true

/-- PROFILE_UNLOCK (R86). -/
def State.cmdProfileUnlock (s : State) (index : Byte) : State × CmdResult := s.writeProfileLock index false

/-- PROFILES_LOCK_ALL (R86). -/
def State.cmdProfilesLockAll (s : State) : State × CmdResult :=
  if s.guarded then refuse s .guarded
  else if s.allLock then refuse s .locked
  else done { s with allLock := true }

/-! ## Arrival commands -/

/-- ARRIVALS_READ (R89). -/
def State.cmdArrivalsRead (s : State) (feeder : Byte) : State × CmdResult :=
  match feederArg feeder with
  | none => refuse s .badArg
  | some f => reportDone s (listReport Arrival.report (s.fd f).arrivals)

/-- A serial without an entry: TOO_LATE when it stands in the expiry list, NOT_FOUND otherwise (R96, R97). -/
def Feeder.missingReason (fd : Feeder) (serial : Serial) : Reason :=
  if fd.expired.any fun x => decide (x = serial) then .tooLate else .notFound

/-- A HELD entry made READY with source COMMAND, its place and link kept (R96). -/
def Feeder.readyArrival (fd : Feeder) (serial : Serial) (profile : Fin 8) : Feeder :=
  { fd with
    arrivals := fd.arrivals.map fun a => if a.serial = serial then { a with status := .readyCommand profile } else a }

/-- ADMIT (R96). -/
def State.cmdAdmit (s : State) (feeder : Byte) (serial : Serial) (profile : Byte) : State × CmdResult :=
  match feederArg feeder, profileArg profile with
  | some f, some p =>
    if s.isBarred serial then refuse s .barred
    else
      match (s.fd f).arrivals.find? fun a => decide (a.serial = serial) with
      | none => refuse s ((s.fd f).missingReason serial)
      | some a =>
        match a.status with
        | .held _ _ => done (s.modFd f (·.readyArrival serial p))
        | _ => refuse s .wrongState
  | _, _ => refuse s .badArg

/-- REFUSE (R97). R97 gives BAD_ARG for an unassigned bar choice (R207) no place among its checks: it stands with BAD_ARG
for the feeder, before BARRED, TOO_LATE and NOT_FOUND (DESIGN CHOICE, log entry 37). -/
def State.cmdRefuse (s : State) (feeder : Byte) (serial : Serial) (bar : Byte) : State × CmdResult :=
  match feederArg feeder, yesNoArg bar with
  | some f, some b =>
    if s.isBarred serial then refuse s .barred
    else if (s.fd f).arrivals.any fun a => decide (a.serial = serial) then
      let s1 := s.modFd f (·.dropArrival serial)
      done (if b then s1.bar serial else s1)
    else refuse s ((s.fd f).missingReason serial)
  | _, _ => refuse s .badArg

/-! ## Terminal commands -/

/-- TERMINAL_READ (R8, R192). -/
def State.cmdTerminalRead (s : State) (feeder handle : Byte) : State × CmdResult :=
  match feederArg feeder, handleArg handle with
  | some f, some h => reportDone s (recordReport h (s.record f h))
  | _, _ => refuse s .badArg

/-- The live record of a serial across both tables (R192). -/
def State.findSerial (s : State) (serial : Serial) : Option (FeederId × Nat) :=
  match s.feederA.holderOf serial with
  | some h => some (.A, h)
  | none => (s.feederB.holderOf serial).map fun h => (.B, h)

/-- TERMINAL_FIND (R192). -/
def State.cmdTerminalFind (s : State) (serial : Serial) : State × CmdResult :=
  match s.findSerial serial with
  | none => refuse s .notFound
  | some (f, h) => reportDone s (feederByte f :: recordReport h (s.record f h))

/-- TERMINAL_EJECT (R193). -/
def State.cmdTerminalEject (s : State) (feeder handle bar : Byte) : State × CmdResult :=
  match feederArg feeder, handleArg handle, yesNoArg bar with
  | some f, some h, some b =>
    match (s.record f h).state with
    | .free => refuse s .notFound
    | .ejected => if b then done (s.barHeld (s.record f h).serial) else refuse s .wrongState
    | _ => done (if b then s.ejectAndBar f h .ordered else s.eject f h .ordered)
  | _, _, _ => refuse s .badArg

/-- TERMINAL_RELEVEL (R130). -/
def State.cmdTerminalRelevel (s : State) (feeder handle : Byte) : State × CmdResult :=
  match feederArg feeder, handleArg handle with
  | some f, some h =>
    match (s.record f h).state with
    | .free => refuse s .notFound
    | .inService => done (s.modRecord f h fun r => { r with walking := true, levelRun := 0 })
    | .levelling => done s
    | _ => refuse s .wrongState
  | _, _ => refuse s .badArg

/-! ## Bar List commands -/

/-- BAR_READ (R194). -/
def State.cmdBarRead (s : State) : State × CmdResult := reportDone s s.barReport

/-- A serial held by a live record that is not EJECTED, on either feeder (R26). -/
def State.heldActive (s : State) (serial : Serial) : Bool :=
  let active := fun r : Record => r.state.active && decide (r.serial = some serial)
  s.feederA.table.toList.any active || s.feederB.table.toList.any active

/-- BAR_HOLD written when the hold value is present (R194, step 3). -/
def State.writeBarHold (s : State) (hold : Option Word16) : State :=
  match hold with
  | none => s
  | some v => { s with barHold := clampTo 1024 65535 v.toNat }

/-- BAR_ADD (R26, R194). -/
def State.cmdBarAdd (s : State) (serial : Option Serial) (hold : Option Word16) : State × CmdResult :=
  if serial = none ∧ hold = none then refuse s .badArg
  else if serial.any s.heldActive then refuse s .claimed
  else doneClamped ((s.writeBarHold hold).barHeld serial) (hold.any fun v => outside 1024 65535 v.toNat)

/-- BAR_REMOVE (R26, R195). -/
def State.cmdBarRemove (s : State) (serial : Serial) : State × CmdResult :=
  if s.isBarred serial then done { s with bars := s.bars.filter fun b => decide (b.serial ≠ serial) }
  else refuse s .notFound

/-! ## Taking a frame (R187 to R189, R199) -/

/-- The effect and the outcome of a command past the checks of R189 that concern every command. -/
def runCommand (c : Command) (s : State) : State × CmdResult :=
  match c with
  | .identify => s.cmdIdentify
  | .partReset => s.cmdPartReset
  | .statusRead clear => s.cmdStatusRead clear
  | .watchdogSet mode period => s.cmdWatchdogSet mode period
  | .holdoverExit => s.cmdHoldoverExit
  | .noticeMaskSet mask => s.cmdNoticeMaskSet mask
  | .feederSet feeder setting value high => s.cmdFeederSet feeder setting value high
  | .feederOpen feeder => s.cmdFeederOpen feeder
  | .feederClose feeder => s.cmdFeederClose feeder
  | .feederPause feeder => s.cmdFeederPause feeder
  | .feederResume feeder => s.cmdFeederResume feeder
  | .feederStatus feeder clear => s.cmdFeederStatus feeder clear
  | .watchSet feeder mode mask compare => s.cmdWatchSet feeder mode mask compare
  | .strayClear feeder => s.cmdStrayClear feeder
  | .planWrite args => s.cmdPlanWrite args
  | .planRead index => s.cmdPlanRead index
  | .planErase index => s.cmdPlanErase index
  | .freezeSet range => s.cmdFreezeSet range
  | .freezeLock => s.cmdFreezeLock
  | .guardSet value => s.cmdGuardSet value
  | .profileWrite args => s.cmdProfileWrite args
  | .profileRead index => s.cmdProfileRead index
  | .profileLock index => s.cmdProfileLock index
  | .profileUnlock index => s.cmdProfileUnlock index
  | .profilesLockAll => s.cmdProfilesLockAll
  | .arrivalsRead feeder => s.cmdArrivalsRead feeder
  | .admitArrival feeder serial profile => s.cmdAdmit feeder serial profile
  | .refuse feeder serial bar => s.cmdRefuse feeder serial bar
  | .terminalRead feeder handle => s.cmdTerminalRead feeder handle
  | .terminalFind serial => s.cmdTerminalFind serial
  | .terminalEject feeder handle bar => s.cmdTerminalEject feeder handle bar
  | .terminalRelevel feeder handle => s.cmdTerminalRelevel feeder handle
  | .barRead => s.cmdBarRead
  | .barAdd serial hold => s.cmdBarAdd serial hold
  | .barRemove serial => s.cmdBarRemove serial

/-- The restart that every valid frame makes (R199). -/
def State.restartWatchdog (s : State) : State :=
  if s.holdover then s
  else
    match s.wdMode with
    | .off => s
    | .afterFirst => { s with wdArmed := true, wdCd := s.wdPeriod }
    | .fromStart => { s with wdCd := s.wdPeriod }

/-- The Management Unit may take a frame: the reply list has room and no part reset is pending (R182, R204). -/
def State.canTake (s : State) : Bool := decide (s.replies.length < Config.replyCapacity) && !s.resetPending

/-- A valid frame as it is taken: PLAN_GUARD sampled, the manager's address kept, the receipt count incremented and the
watchdog restarted (R187, R188, R199, R206, R211). -/
def State.openTaking (s : State) (t : Taking) : State :=
  State.restartWatchdog
    { s with
      pins := { s.pins with planGuard := t.guardPin }
      lastManager := some t.source
      receipt := (s.receipt + 1) % 16 }

/-- A reply composed and joined to the reply list (R182, R187, R188). -/
def State.addReply (s : State) (t : Taking) (code : Byte) (receipt : Nat) (result : CmdResult) : State :=
  { s with
    replies := s.replies ++
      [{ destination := t.source, source := t.destination, reference := t.reference, code := code, receipt := receipt,
         result := result }] }

/-- A command behind the holdover check of R189, step 2. -/
def outsideHoldover (code : Byte) (body : State → State × CmdResult) (s : State) : State × CmdResult :=
  if s.holdover && !servedInHoldover code then refuse s .holdover else body s

/-- A valid frame taken: its command is executed and answered (R187). -/
def State.takeValid (s : State) (t : Taking) (code : Byte) (body : State → State × CmdResult) : State :=
  let s1 := s.openTaking t
  let (s2, result) := body s1
  s2.addReply t code s1.receipt result

/-- A command row: the taking of a valid frame that carries the command, when the unit may take one (log entry 6). -/
def State.takeCommand (s : State) (t : Taking) (code : Byte) (body : State → State × CmdResult) : State :=
  if s.canTake then s.takeValid t code (outsideHoldover code body) else s

/-- The command of a valid frame by R189: an unassigned code, then holdover, then missing arguments and unassigned presence
bytes, then the command's own checks. That BAR_ADD's presence bytes stand ahead of its own checks is the model's choice (DESIGN
CHOICE, log entry 37). -/
def runBytes (code : Byte) (args : Bytes) (s : State) : State × CmdResult :=
  if assignedCode code then
    outsideHoldover code
      (fun t =>
        match readCommand code args with
        | some c => runCommand c t
        | none => refuse t .badArg) s
  else refuse s .unknown

/-- The bytes of a management header: reference and command code (R187). -/
def managementHeader : Nat := 3

/-- A frame is valid: its check is good and it holds the management header (R187). A frame of 16 to 19
bytes, which the sort lets through by its length, has no good check (DESIGN CHOICE, log entry 41). -/
def validFrame (frame : Bytes) : Bool :=
  checkGood tagEnd frame && decide (managementHeader ≤ (framePayload frame).length)

/-- What a management frame gives its taking. -/
def takingOf (guardPin : Bool) (frame : Bytes) : Taking where
  guardPin := guardPin
  reference := BitVec.ofNat 16 (beNat ((framePayload frame).take 2))
  destination := frameDestination frame
  source := frameSource frame

/-- The command code of a management frame. -/
def frameCode (frame : Bytes) : Byte := (framePayload frame).getD 2 0#8

/-- The head frame of the management receive buffer taken: executed and answered when it is valid, discarded otherwise
(R182, R187). -/
def State.takeFrame (s : State) (guardPin : Bool) : State :=
  match s.mgmtBuffer with
  | [] => s
  | frame :: rest =>
    if s.canTake then
      if validFrame frame then
        State.takeValid { s with mgmtBuffer := rest } (takingOf guardPin frame) (frameCode frame)
          (runBytes (frameCode frame) ((framePayload frame).drop managementHeader))
      else { s with mgmtBuffer := rest }
    else s

end Sys2Proof.Machine
end

