-- ==== Sys2Proof/Machine/Commands.lean ====
section
/-! DEFINITION. The meanings of the command rows of section 10.3: each is the taking of a valid management frame that
carries the command (log entry 6). -/
namespace Sys2Proof.Machine

open Sys2Proof

/-- What a running part does with an event. A part held in a reset or without power does nothing with it (R205, R211). -/
def whenRunning (op : State → State) (s : State) : Host.Outcome State Fault Refusal :=
  .next (if s.phase = .running then op s else s)

/-- IDENTIFY (R190). -/
def execIdentify (t : Taking) (s : State) : Host.Outcome State Fault Refusal :=
  whenRunning (·.takeCommand t (commandCode .identify) (·.cmdIdentify)) s

/-- PART_RESET (R204). -/
def execPartReset (t : Taking) (s : State) : Host.Outcome State Fault Refusal :=
  whenRunning (·.takeCommand t (commandCode .partReset) (·.cmdPartReset)) s

/-- STATUS_READ (R191). -/
def execStatusRead (t : Taking) (clear : Byte) (s : State) : Host.Outcome State Fault Refusal :=
  whenRunning (·.takeCommand t (commandCode (.statusRead clear)) (·.cmdStatusRead clear)) s

/-- WATCHDOG_SET (R200). -/
def execWatchdogSet (t : Taking) (mode : Byte) (period : Word16) (s : State) : Host.Outcome State Fault Refusal :=
  whenRunning (·.takeCommand t (commandCode (.watchdogSet mode period)) (·.cmdWatchdogSet mode period)) s

/-- HOLDOVER_EXIT (R202). -/
def execHoldoverExit (t : Taking) (s : State) : Host.Outcome State Fault Refusal :=
  whenRunning (·.takeCommand t (commandCode .holdoverExit) (·.cmdHoldoverExit)) s

/-- NOTICE_MASK_SET (R197). -/
def execNoticeMaskSet (t : Taking) (mask : Word32) (s : State) : Host.Outcome State Fault Refusal :=
  whenRunning (·.takeCommand t (commandCode (.noticeMaskSet mask)) (·.cmdNoticeMaskSet mask)) s

/-- FEEDER_SET (R34). -/
def execFeederSet (t : Taking) (feeder : Byte) (setting : Byte) (value : Word16) (high : Word16) (s : State) : Host.Outcome State Fault Refusal :=
  whenRunning (·.takeCommand t (commandCode (.feederSet feeder setting value high)) (·.cmdFeederSet feeder setting value high)) s

/-- FEEDER_OPEN (R36). -/
def execFeederOpen (t : Taking) (feeder : Byte) (s : State) : Host.Outcome State Fault Refusal :=
  whenRunning (·.takeCommand t (commandCode (.feederOpen feeder)) (·.cmdFeederOpen feeder)) s

/-- FEEDER_CLOSE (R39, R40). -/
def execFeederClose (t : Taking) (feeder : Byte) (s : State) : Host.Outcome State Fault Refusal :=
  whenRunning (·.takeCommand t (commandCode (.feederClose feeder)) (·.cmdFeederClose feeder)) s

/-- FEEDER_PAUSE (R41). -/
def execFeederPause (t : Taking) (feeder : Byte) (s : State) : Host.Outcome State Fault Refusal :=
  whenRunning (·.takeCommand t (commandCode (.feederPause feeder)) (·.cmdFeederPause feeder)) s

/-- FEEDER_RESUME (R42). -/
def execFeederResume (t : Taking) (feeder : Byte) (s : State) : Host.Outcome State Fault Refusal :=
  whenRunning (·.takeCommand t (commandCode (.feederResume feeder)) (·.cmdFeederResume feeder)) s

/-- FEEDER_STATUS (R49). -/
def execFeederStatus (t : Taking) (feeder : Byte) (clear : Byte) (s : State) : Host.Outcome State Fault Refusal :=
  whenRunning (·.takeCommand t (commandCode (.feederStatus feeder clear)) (·.cmdFeederStatus feeder clear)) s

/-- WATCH_SET (R173). -/
def execWatchSet (t : Taking) (feeder : Byte) (mode : Byte) (mask : Byte) (compare : Byte) (s : State) : Host.Outcome State Fault Refusal :=
  whenRunning (·.takeCommand t (commandCode (.watchSet feeder mode mask compare)) (·.cmdWatchSet feeder mode mask compare)) s

/-- STRAY_CLEAR (R46, R163). -/
def execStrayClear (t : Taking) (feeder : Byte) (s : State) : Host.Outcome State Fault Refusal :=
  whenRunning (·.takeCommand t (commandCode (.strayClear feeder)) (·.cmdStrayClear feeder)) s

/-- PLAN_WRITE (R76, R77). -/
def execPlanWrite (t : Taking) (args : PlanArgs) (s : State) : Host.Outcome State Fault Refusal :=
  whenRunning (·.takeCommand t (commandCode (.planWrite args)) (·.cmdPlanWrite args)) s

/-- PLAN_READ (R79). -/
def execPlanRead (t : Taking) (index : Word16) (s : State) : Host.Outcome State Fault Refusal :=
  whenRunning (·.takeCommand t (commandCode (.planRead index)) (·.cmdPlanRead index)) s

/-- PLAN_ERASE (R78). -/
def execPlanErase (t : Taking) (index : Word16) (s : State) : Host.Outcome State Fault Refusal :=
  whenRunning (·.takeCommand t (commandCode (.planErase index)) (·.cmdPlanErase index)) s

/-- FREEZE_SET (R80). -/
def execFreezeSet (t : Taking) (range : Byte) (s : State) : Host.Outcome State Fault Refusal :=
  whenRunning (·.takeCommand t (commandCode (.freezeSet range)) (·.cmdFreezeSet range)) s

/-- FREEZE_LOCK (R81). -/
def execFreezeLock (t : Taking) (s : State) : Host.Outcome State Fault Refusal :=
  whenRunning (·.takeCommand t (commandCode .freezeLock) (·.cmdFreezeLock)) s

/-- GUARD_SET (R82). -/
def execGuardSet (t : Taking) (value : Byte) (s : State) : Host.Outcome State Fault Refusal :=
  whenRunning (·.takeCommand t (commandCode (.guardSet value)) (·.cmdGuardSet value)) s

/-- PROFILE_WRITE (R85). -/
def execProfileWrite (t : Taking) (args : ProfileArgs) (s : State) : Host.Outcome State Fault Refusal :=
  whenRunning (·.takeCommand t (commandCode (.profileWrite args)) (·.cmdProfileWrite args)) s

/-- PROFILE_READ (R85). -/
def execProfileRead (t : Taking) (index : Byte) (s : State) : Host.Outcome State Fault Refusal :=
  whenRunning (·.takeCommand t (commandCode (.profileRead index)) (·.cmdProfileRead index)) s

/-- PROFILE_LOCK (R86). -/
def execProfileLock (t : Taking) (index : Byte) (s : State) : Host.Outcome State Fault Refusal :=
  whenRunning (·.takeCommand t (commandCode (.profileLock index)) (·.cmdProfileLock index)) s

/-- PROFILE_UNLOCK (R86). -/
def execProfileUnlock (t : Taking) (index : Byte) (s : State) : Host.Outcome State Fault Refusal :=
  whenRunning (·.takeCommand t (commandCode (.profileUnlock index)) (·.cmdProfileUnlock index)) s

/-- PROFILES_LOCK_ALL (R86). -/
def execProfilesLockAll (t : Taking) (s : State) : Host.Outcome State Fault Refusal :=
  whenRunning (·.takeCommand t (commandCode .profilesLockAll) (·.cmdProfilesLockAll)) s

/-- ARRIVALS_READ (R89). -/
def execArrivalsRead (t : Taking) (feeder : Byte) (s : State) : Host.Outcome State Fault Refusal :=
  whenRunning (·.takeCommand t (commandCode (.arrivalsRead feeder)) (·.cmdArrivalsRead feeder)) s

/-- ADMIT (R96). -/
def execAdmit (t : Taking) (feeder : Byte) (serial : Serial) (profile : Byte) (s : State) : Host.Outcome State Fault Refusal :=
  whenRunning (·.takeCommand t (commandCode (.admitArrival feeder serial profile)) (·.cmdAdmit feeder serial profile)) s

/-- REFUSE (R97). -/
def execRefuse (t : Taking) (feeder : Byte) (serial : Serial) (bar : Byte) (s : State) : Host.Outcome State Fault Refusal :=
  whenRunning (·.takeCommand t (commandCode (.refuse feeder serial bar)) (·.cmdRefuse feeder serial bar)) s

/-- TERMINAL_READ (R192). -/
def execTerminalRead (t : Taking) (feeder : Byte) (handle : Byte) (s : State) : Host.Outcome State Fault Refusal :=
  whenRunning (·.takeCommand t (commandCode (.terminalRead feeder handle)) (·.cmdTerminalRead feeder handle)) s

/-- TERMINAL_FIND (R192). -/
def execTerminalFind (t : Taking) (serial : Serial) (s : State) : Host.Outcome State Fault Refusal :=
  whenRunning (·.takeCommand t (commandCode (.terminalFind serial)) (·.cmdTerminalFind serial)) s

/-- TERMINAL_EJECT (R193). -/
def execTerminalEject (t : Taking) (feeder : Byte) (handle : Byte) (bar : Byte) (s : State) : Host.Outcome State Fault Refusal :=
  whenRunning (·.takeCommand t (commandCode (.terminalEject feeder handle bar)) (·.cmdTerminalEject feeder handle bar)) s

/-- TERMINAL_RELEVEL (R130). -/
def execTerminalRelevel (t : Taking) (feeder : Byte) (handle : Byte) (s : State) : Host.Outcome State Fault Refusal :=
  whenRunning (·.takeCommand t (commandCode (.terminalRelevel feeder handle)) (·.cmdTerminalRelevel feeder handle)) s

/-- BAR_READ (R194). -/
def execBarRead (t : Taking) (s : State) : Host.Outcome State Fault Refusal :=
  whenRunning (·.takeCommand t (commandCode .barRead) (·.cmdBarRead)) s

/-- BAR_ADD (R194). -/
def execBarAdd (t : Taking) (serial : Option Serial) (hold : Option Word16) (s : State) : Host.Outcome State Fault Refusal :=
  whenRunning (·.takeCommand t (commandCode (.barAdd serial hold)) (·.cmdBarAdd serial hold)) s

/-- BAR_REMOVE (R195). -/
def execBarRemove (t : Taking) (serial : Serial) (s : State) : Host.Outcome State Fault Refusal :=
  whenRunning (·.takeCommand t (commandCode (.barRemove serial)) (·.cmdBarRemove serial)) s

end Sys2Proof.Machine
end

