-- ==== Sys2Proof/Machine/Admission.lean ====
section
/-! DEFINITION. The Admission Unit (chapter 4): matching, the taking of call-ins, naming, and the expiry of decisions. -/
namespace Sys2Proof.Machine

open Sys2Proof

/-! ## Matching against the plan (R92, R93) -/

/-- The entry's expected feeder admits a call-in of this feeder. -/
def Expected.admits (e : Expected) (f : FeederId) : Bool :=
  match e, f with
  | .any, _ => true
  | .A, .A => true
  | .B, .B => true
  | _, _ => false

/-- The serial and the entry's serial agree in every bit where the mask holds a 1 (R93). -/
def PlanEntry.masked (e : PlanEntry) (serial : Serial) : Bool :=
  decide (serial &&& e.mask.getD (BitVec.allOnes 64) = e.serial &&& e.mask.getD (BitVec.allOnes 64))

/-- An in-use EXACT entry that holds the serial. -/
def PlanEntry.isExactFor (e : PlanEntry) (serial : Serial) : Bool :=
  e.inUse && decide (e.kind = .exact) && decide (e.serial = serial)

/-- An in-use PATTERN entry that a call-in of the feeder takes. -/
def PlanEntry.isPatternFor (e : PlanEntry) (f : FeederId) (serial : Serial) : Bool :=
  e.inUse && decide (e.kind = .pattern) && e.expected.admits f && e.masked serial

/-- What matching makes of a serial. -/
inductive MatchOutcome where
  | ready (profile : Fin 8)
  | held (reason : HeldReason)
deriving DecidableEq, Repr

/-- The outcome of an EXACT match (R92). -/
def PlanEntry.exactOutcome (e : PlanEntry) (f : FeederId) (holdover : Bool) : MatchOutcome :=
  if !e.expected.admits f then .held .wrongFeeder
  else if e.hold then .held .planHold
  else if holdover && !e.preAuth then .held .holdover
  else .ready e.profile

/-- The outcome of a PATTERN match (R93). -/
def PlanEntry.patternOutcome (e : PlanEntry) (holdover : Bool) : MatchOutcome :=
  if e.count = e.limit then .held .patternFull
  else if e.hold || !e.auto then .held .planHold
  else if holdover && !e.preAuth then .held .holdover
  else .ready e.profile

/-- A serial matched against the plan (R92, R93), with the link the arrival takes. -/
def State.matchPlan (s : State) (f : FeederId) (serial : Serial) : MatchOutcome × Option ArrivalLink :=
  match s.plan.toList.findIdx? (·.isExactFor serial) with
  | some i => ((s.planAt i).exactOutcome f s.holdover, some { index := i, kind := .exact })
  | none =>
    match s.plan.toList.findIdx? (·.isPatternFor f serial) with
    | some i => ((s.planAt i).patternOutcome s.holdover, some { index := i, kind := .pattern })
    | none => (.held .unplanned, none)

/-- The status an outcome of the plan gives an arrival. A held one is loaded with DECISION_CYCLES (R94, R100). -/
def MatchOutcome.status (o : MatchOutcome) (decisionCycles : Nat) : ArrivalStatus :=
  match o with
  | .ready p => .readyPlan p
  | .held r => .held r decisionCycles

/-- ARRIVAL_HELD raised for an outcome that holds an arrival (R94, R100). -/
def State.noteHeld (s : State) (f : FeederId) (serial : Serial) (o : MatchOutcome) (link : Option ArrivalLink) : State :=
  match o with
  | .ready _ => s
  | .held r =>
    s.raise .arrivalHeld
      { feeder := some f, serial := some serial, reason := some (.held r),
        dwelling := s.dwellingOf (link.map (·.index)) }

/-! ## Taking a call-in (R90 to R94) -/

/-- The call-in's cycle is one of the two before the settle cycle, modulo 65,536 (R90). -/
def Record.stillSettling (r : Record) (n : CycleNumber) : Bool :=
  match r.settle with
  | some c => decide (c - n = 1#16) || decide (c - n = 2#16)
  | none => false

/-- A live record of the same feeder holds the serial (R90, second step). -/
def State.callInOfHolder (s : State) (f : FeederId) (h : Nat) (n : CycleNumber) : State :=
  let r := s.record f h
  match r.state with
  | .ejected => s
  | .named => s
  | st =>
    if st = .confirming ∧ r.stillSettling n = true then s
    else
      (s.eject f h .rebooted).raise .rebooted
        { feeder := some f, handle := some h, serial := r.serial, dwelling := s.dwellingOf r.planLink }

/-- A repeat merged into the entry of its serial (R91, fourth step). -/
def Feeder.mergeArrival (fd : Feeder) (serial : Serial) (m : Measurement) : Feeder :=
  { fd with arrivals := fd.arrivals.map fun a => if a.serial = serial then { a with measured := m } else a }

/-- A new entry at the end of the Arrivals List (R94). -/
def State.joinArrivals (s : State) (f : FeederId) (serial : Serial) (m : Measurement) : State :=
  let (o, link) := s.matchPlan f serial
  let fd := s.fd f
  let fd1 : Feeder := { fd with
    arrivals := fd.arrivals ++ [⟨serial, o.status fd.settings.decisionCycles, link, m⟩]
    expired := fd.expired.filter fun x => decide (x ≠ serial) }
  (s.setFd f (if Config.arrivalsCapacity ≤ fd1.arrivals.length then fd1.latchArrivalsFull else fd1)).noteHeld f serial o
    link

/-- A call-in that the Equalisation Unit hands on (R90 to R94). -/
def State.admitCallIn (s : State) (f : FeederId) (serial : Serial) (m : Measurement) : State :=
  if s.isBarred serial then s.modFd f (·.count .barredCallIns 1)
  else
    match (s.fd f).holderOf serial with
    | some h => s.callInOfHolder f h m.cycle
    | none =>
      if ((s.fd f.other).holderOf serial).isSome then
        s.raise .duplicateSerial { feeder := some f, serial := some serial }
      else if (s.fd f).arrivals.any (fun a => decide (a.serial = serial)) then s.modFd f (·.mergeArrival serial m)
      else if Config.arrivalsCapacity ≤ (s.fd f).arrivals.length then
        s.modFd f fun fd => (fd.count .arrivalsOverflow 1).latchArrivalsFull
      else s.joinArrivals f serial m

/-! ## Naming (R99 to R102) -/

/-- The link of an arrival of source COMMAND stands (R100). -/
def State.linkStands (s : State) (serial : Serial) (l : ArrivalLink) : Bool :=
  let e := s.planAt l.index
  e.inUse && decide (e.kind = l.kind) &&
    match e.kind with
    | .exact => decide (e.serial = serial) && e.claim.isNone
    | .pattern => e.masked serial && decide (e.count.getD 0 < e.limit.getD 0)

/-- The record that naming fills from an arrival (R9). -/
def Arrival.record (a : Arrival) (link : Option Nat) (profile : Fin 8) : Record :=
  { freeRecord with
    state := .named
    serial := some a.serial
    planLink := link
    profile := profile
    eqd := a.measured.eqd
    residue := a.measured.residue
    lastLevel := some a.measured.level
    levelSetting := 3
    confirmed := 0#8 }

/-- The plan takes a new record's link (R75). -/
def State.takeLink (s : State) (link : Option Nat) (f : FeederId) (h : Nat) : State :=
  match link with
  | none => s
  | some i => s.setPlan i ((s.planAt i).takeLink f h)

/-- An arrival named (R101). -/
def State.nameAs (s : State) (f : FeederId) (a : Arrival) (link : Option Nat) (profile : Fin 8) : State :=
  match (s.fd f).firstFrom 1 fun r => decide (r.state = .free) with
  | none => s
  | some h =>
    let s1 := (s.modFd f (·.setRecord h (a.record link profile))).takeLink link f h
    ((s1.modFd f (·.offerOrdinary h (.name a.serial a.measured.eqd))).dropArrivals a.serial).raise .named
      { feeder := some f, handle := some h, serial := some a.serial, dwelling := s1.dwellingOf link }

/-- A READY arrival that its re-matching holds, in its place in the list (R100). -/
def Feeder.rehold (fd : Feeder) (serial : Serial) (reason : HeldReason) (link : Option ArrivalLink) : Feeder :=
  { fd with
    arrivals := fd.arrivals.map fun a =>
      if a.serial = serial then { a with status := .held reason fd.settings.decisionCycles, link := link } else a }

/-- A READY arrival taken: checked once more, then named, held or removed (R100). -/
def State.nameOne (s : State) (f : FeederId) (a : Arrival) : State :=
  if ((s.fd f).holderOf a.serial).isSome || ((s.fd f.other).holderOf a.serial).isSome then
    (s.modFd f (·.dropArrival a.serial)).raise .duplicateSerial { feeder := some f, serial := some a.serial }
  else
    match a.status with
    | .held _ _ => s
    | .readyCommand p =>
      s.nameAs f a ((a.link.filter fun l => s.linkStands a.serial l).map (·.index)) p
    | .readyPlan _ =>
      let (o, link) := s.matchPlan f a.serial
      match o with
      | .ready p => s.nameAs f a (link.map (·.index)) p
      | .held r => (s.modFd f (·.rehold a.serial r link)).noteHeld f a.serial o link

/-- FEEDER_FULL raised when it is armed, and disarmed (R102). -/
def State.feederFull (s : State) (f : FeederId) : State :=
  if (s.fd f).fullArmed then
    (s.modFd f fun fd => { fd with fullArmed := false }).raise .feederFull { feeder := some f }
  else s

/-- The arrival is READY. -/
def Arrival.isReady (a : Arrival) : Bool :=
  match a.status with
  | .held _ _ => false
  | _ => true

/-- The naming of a build over the entries in order (R99). -/
def State.nameAll (s : State) (f : FeederId) : List Arrival → State
  | [] => s
  | a :: rest =>
    if !a.isReady then s.nameAll f rest
    else if ((s.fd f).firstFrom 1 fun r => decide (r.state = .free)).isNone then s.feederFull f
    else if !(s.fd f).ordinaryRoom then s
    else (s.nameOne f a).nameAll f rest

/-- The naming of a build of a feeder that is OPEN or PAUSED (R99). -/
def State.name (s : State) (f : FeederId) : State :=
  if (s.fd f).state.serving then s.nameAll f (s.fd f).arrivals else s

/-! ## The expiry of a decision (R88, R95) -/

/-- The expiry list with a serial as its youngest entry (R88). -/
def addExpired (l : List Serial) (serial : Serial) : List Serial :=
  let kept := l.filter fun x => decide (x ≠ serial)
  (if kept.length < Config.expiryCapacity then kept else kept.drop 1) ++ [serial]

/-- The decision countdown of a HELD arrival has reached 0 (R95). -/
def State.expireArrival (s : State) (f : FeederId) (a : Arrival) : State :=
  (s.modFd f fun fd => { fd.dropArrival a.serial with expired := addExpired fd.expired a.serial }).raise .decisionExpired
    { feeder := some f, serial := some a.serial, dwelling := s.dwellingOf (a.link.map (·.index)) }

end Sys2Proof.Machine
end

