-- ==== Sys2Proof/Machine/CallIn.lean ====
section
/-! DEFINITION. The Call-In Unit and the Delay Meter (chapter 3): when a window is due, the award, the placement and the
close of windows, and the split of a collided subgroup. -/
namespace Sys2Proof.Machine

open Sys2Proof

/-! ## What a feeder wants (R57 to R59) -/

/-- The Delay Meter holds a window record of a probe of this handle: the window has been placed and has not closed. -/
def State.probePlaced (s : State) (f : FeederId) (h : Nat) : Bool :=
  s.windows.any fun w => decide (w.feeder = f) && decide (w.window.use = .probe h)

/-- The record awaits a probe (R58). -/
def State.awaitsProbe (s : State) (f : FeederId) (h : Nat) (r : Record) : Bool :=
  decide (r.state = .probing) && !(s.fd f).queuedOrOwed h .delay && !s.probePlaced f h

/-- The first awaiting handle after the last probed handle, wrapping from 255 to 1 (R58). -/
def State.nextProbe (s : State) (f : FeederId) : Option Nat :=
  let hs := (s.fd f).handlesWhere fun h r => s.awaitsProbe f h r
  match hs.find? fun h => decide ((s.fd f).lastProbed < h) with
  | some h => some h
  | none => hs.head?

/-- The root subgroup (R50). -/
def rootSubgroup : Subgroup := { value := 0, len := 0 }

/-- The subgroup of the call-in window that is due, or none (R57). -/
def Feeder.callInDue (fd : Feeder) : Option Subgroup :=
  if fd.state = .opened ∧ fd.dark = false ∧ fd.stray = false ∧ fd.arrivals.length < Config.arrivalsCapacity ∧
      fd.gapCd = 0 then
    match fd.splitList with
    | g :: _ => some g
    | [] => if fd.rootCd = 0 then some rootSubgroup else none
  else none

/-- The feeder's Call-In Unit asks for the next cycle (R59). -/
def State.asks (s : State) (f : FeederId) : Bool :=
  (s.fd f).state.serving && ((s.nextProbe f).isSome || (s.fd f).callInDue.isSome)

/-! ## The award (R61) -/

/-- The award's table (R61). -/
def awardWinner (lastServed : FeederId) (asksA asksB : Bool) : Option FeederId :=
  match asksA, asksB with
  | false, false => none
  | true, false => some .A
  | false, true => some .B
  | true, true => some lastServed.other

/-- The award of cycle `n`, made once, at the first build that asks for it (R61; log entry 11). -/
def State.makeAward (s : State) (n : CycleNumber) : State :=
  match s.award with
  | some _ => s
  | none =>
    let w := awardWinner s.lastServed (s.asks .A) (s.asks .B)
    { s with award := some { cycle := n, winner := w }, lastServed := w.getD s.lastServed }

/-- The feeder holds the award of cycle `n`. -/
def State.hasAward (s : State) (f : FeederId) (n : CycleNumber) : Bool :=
  decide (s.award = some { cycle := n, winner := some f })

/-! ## Window geometry (R53, R54) and placement (R62) -/

/-- A call-in window's span end W (R53). -/
def callInSpan (span slots : Nat) : Nat := span + Config.slotWidth * slots + Config.callInLength

/-- A probe window's span end W (R54). -/
def probeSpan (span : Nat) : Nat := span + Config.callInLength

/-- The window record made at a placement (R60). -/
def newWindowRecord (f : FeederId) (n : CycleNumber) (w : Window) : WindowRecord where
  feeder := f
  cycle := n
  window := w
  collided := false
  clean := 0
  answered := false

/-- The feeder's Call-In Unit at the placement of a call-in window (R62). -/
def Feeder.placeCallIn (fd : Feeder) (g : Subgroup) : Feeder :=
  Feeder.count
    { fd with
      splitList := fd.splitList.tail
      gapCd := fd.settings.callInGap
      rootCd := if g = rootSubgroup then fd.settings.rootInterval else fd.rootCd } .windows 1

/-- The chosen window placed for cycle `n`, with its window record (R62). -/
def State.placeWindow (s : State) (f : FeederId) (n : CycleNumber) : State × Option Window :=
  let fd := s.fd f
  let span := fd.settings.reach.span
  match s.nextProbe f with
  | some h =>
    let w : Window := { use := .probe h, grantOffset := span, spanEnd := probeSpan span }
    (State.setFd { s with windows := lastTwo (s.windows ++ [newWindowRecord f n w]) } f { fd with lastProbed := h }, some w)
  | none =>
    match fd.callInDue with
    | some g =>
      let w : Window :=
        { use := .callIn g fd.settings.spread, grantOffset := span
          spanEnd := callInSpan span fd.settings.spread.slots }
      (State.setFd { s with windows := lastTwo (s.windows ++ [newWindowRecord f n w]) } f (fd.placeCallIn g), some w)
    | none => (s, none)

/-- The measurement window stage of a build: a feeder without the award places none (R62), and an award with nothing to
place lapses (R63). -/
def State.windowStage (s : State) (f : FeederId) (n : CycleNumber) : State × Option Window :=
  if s.hasAward f n then s.placeWindow f n else (s, none)

/-! ## Splitting (R69 to R71) -/

/-- The poll order of the children (R70). -/
def pollChildren (order : PollOrder) (f s : Nat) : List Nat :=
  (List.range f).map fun i =>
    match order with
    | .sequential => (s + i) % f
    | .interleaved => s ^^^ i

/-- Child `k` of a subgroup split by `b` bits (R69). -/
def Subgroup.child (g : Subgroup) (b k : Nat) : Subgroup := { value := g.value + k * 2 ^ g.len, len := g.len + b }

/-- A collided subgroup split, pushed back or dropped (R69, R71). -/
def Feeder.split (fd : Feeder) (g : Subgroup) : Feeder :=
  let b := fd.settings.fan.bits
  let f := 2 ^ b
  if Config.maxSubgroupLength < g.len + b ∨ Config.splitCapacity < fd.splitList.length + f then
    if fd.splitList.length < Config.splitCapacity then { fd with splitList := g :: fd.splitList } else fd
  else
    { fd with
      splitList := (pollChildren fd.settings.pollOrder f (fd.splitCounter % f)).map (g.child b) ++ fd.splitList
      splitCounter := satInc16 fd.splitCounter }

/-! ## Window records and their close (R60, R64 to R67) -/

/-- The window record of a feeder's upstream cycle. -/
def State.windowOf (s : State) (f : FeederId) (n : CycleNumber) : Option WindowRecord :=
  s.windows.find? fun w => decide (w.feeder = f) && decide (w.cycle = n)

/-- The window record of a feeder's upstream cycle changed. -/
def State.modWindow (s : State) (f : FeederId) (n : CycleNumber) (g : WindowRecord → WindowRecord) : State :=
  { s with windows := s.windows.map fun w => if w.feeder = f ∧ w.cycle = n then g w else w }

/-- The window record of a feeder's upstream cycle removed. -/
def State.dropWindow (s : State) (f : FeederId) (n : CycleNumber) : State :=
  { s with windows := s.windows.filter fun w => !(decide (w.feeder = f) && decide (w.cycle = n)) }

/-- The position, in eighths, lies within the window's span [0, W). -/
def Window.holds (w : Window) (m8 : Nat) : Bool := decide (m8 < 8 * w.spanEnd)

/-- The window takes call-ins. -/
def Window.isCallIn (w : Window) : Bool :=
  match w.use with
  | .callIn _ _ => true
  | .probe _ => false

/-- The outcomes of a call-in window (R66). -/
inductive WindowOutcome where
  | collided
  | clean
  | silent
deriving DecidableEq, Repr

/-- The outcome at the span end (R66). -/
def WindowRecord.outcome (w : WindowRecord) : WindowOutcome :=
  if w.collided then .collided else if 0 < w.clean then .clean else .silent

/-- What the Call-In Unit does with an outcome (R66). -/
def Feeder.takeOutcome (fd : Feeder) (o : WindowOutcome) (g : Subgroup) : Feeder :=
  match o with
  | .collided => (fd.count .collisions 1).split g
  | .clean => fd
  | .silent => fd

end Sys2Proof.Machine
end

