-- ==== Sys2Proof/Machine/Reports.lean ====
section
/-! DEFINITION. The dispatch reports of the Message Queue (R150): what the dispatch of each kind of message into header
`n` does to the record of its handle. -/
namespace Sys2Proof.Machine

open Sys2Proof

/-- The states in which a DELAY or STEP changes a record without changing its state (R114, R125). -/
def RecState.takesCorrection : RecState → Bool
  | .levelling => true
  | .inService => true
  | .suspect => true
  | .huntHeld => true
  | .hushed => true
  | _ => false

/-- The dispatch of a NAME (R108). -/
def Record.nameSent (r : Record) (n : CycleNumber) : Record :=
  if r.state = .named then { r with state := .confirming, settle := some n } else r

/-- The dispatch of a DELAY (R114). -/
def Record.delaySent (r : Record) (n : CycleNumber) (eqd : Nat) (companion : Option Int) : Record :=
  if r.state = .probing then
    { r with state := .confirming, eqd := eqd, residue := companion.getD r.residue, settle := some n, driftRun := 0 }
  else if r.state.takesCorrection then { r with eqd := eqd, settle := some n, driftRun := 0 }
  else r

/-- The level setting one step up or down, within 0..7 (R125). -/
def stepLevel (up : Bool) (setting : Nat) : Nat := if up then incUpTo 7 setting else setting - 1

/-- The dispatch of a STEP (R125). -/
def Record.stepSent (r : Record) (n : CycleNumber) (up : Bool) (levelPace : Nat) : Record :=
  if r.state.takesCorrection then
    { r with levelSetting := stepLevel up r.levelSetting, settle := some n, pace := levelPace }
  else r

/-- The record fields loaded from its profile at an ADMIT dispatch (R127). -/
def Record.admitted (r : Record) (p : Profile) : Record :=
  { r with
    state := .inService
    grace := p.grace
    checkCd := p.presence
    dataCd := 1
    miss := 0
    suspectLeft := 0
    levelRun := 0
    walking := false }

/-- The dispatch of an ADMIT message (R127). -/
def State.admitSent (s : State) (f : FeederId) (h : Nat) : State :=
  let r := s.record f h
  if r.state = .levelling then
    (s.modRecord f h (·.admitted (s.profileOf r))).raise .admitted
      { feeder := some f, handle := some h, serial := r.serial, dwelling := s.dwellingOf r.planLink }
  else s

/-- The dispatch of a HUSH (R159). -/
def Feeder.hushSent (fd : Feeder) (n : CycleNumber) (h : Nat) : Feeder :=
  if (fd.record h).state = .huntHeld ∧ fd.hunt.target = some h ∧ fd.hunt.phase = some .hushOffered then
    { fd with hunt := { fd.hunt with phase := some .watching, hushCycle := some n, watchCd := 4, absence := 0 } }
  else fd

/-- The recovery RESUME (R168). -/
def Record.recovered (r : Record) : Record :=
  { r with state := .inService, miss := 0, suspectLeft := 0, checkCd := 0, recCd := 16 }

/-- A HUNT_HELD record returns to its held from state (R162). -/
def Record.released (r : Record) : Record :=
  { r with state := (r.heldFrom.getD .inService).toState, heldFrom := none }

/-- The dispatch of a RESUME (R162, R168). -/
def State.resumeSent (s : State) (f : FeederId) (h : Nat) : State :=
  match (s.record f h).state with
  | .huntHeld =>
    let s1 := s.modRecord f h (·.released)
    if (s.fd f).hunt.target = some h ∧ (s.fd f).hunt.phase = some .releasing then s1.chooseTarget f else s1
  | .hushed => s.modRecord f h (·.recovered)
  | _ => s

/-- The dispatch of an EJECT (R16). -/
def Record.ejectSent (r : Record) : Record :=
  if r.state = .ejected then { r with drain := some 4 } else r

/-- A dispatch into header `n` reported to the record of its handle (R150). -/
def State.report (s : State) (f : FeederId) (n : CycleNumber) (q : QMsg) : State :=
  match q.msg with
  | .name _ _ => s.modRecord f q.handle (·.nameSent n)
  | .delay eqd companion => s.modRecord f q.handle (·.delaySent n eqd companion)
  | .step up => s.modRecord f q.handle (·.stepSent n up (s.fd f).settings.levelPace)
  | .admission => s.admitSent f q.handle
  | .hush => s.modFd f (·.hushSent n q.handle)
  | .resume => s.resumeSent f q.handle
  | .eject _ => s.modRecord f q.handle (·.ejectSent)

/-! ## The dispatch of a build (R150, R151) -/

/-- The next message taken: the head of the urgent band, otherwise the head of the ordinary band (R150). -/
def Feeder.takeMessage (fd : Feeder) : Option (QMsg × Feeder) :=
  match fd.urgent with
  | q :: rest => some (q, { fd with urgent := rest })
  | [] =>
    match fd.ordinary with
    | q :: rest => some (q, { fd with ordinary := rest })
    | [] => none

/-- The states from which a dispatch moves a record into a state that is granted CHECK bursts (R133). -/
def RecState.ungranted : RecState → Bool
  | .named => true
  | .probing => true
  | .huntHeld => true
  | .hushed => true
  | _ => false

/-- The states that are granted CHECK bursts (R135). -/
def RecState.granted : RecState → Bool
  | .confirming => true
  | .levelling => true
  | .inService => true
  | .suspect => true
  | _ => false

/-- A report, and the handle it moved into a state that is granted CHECK bursts, if it moved one (R133). -/
def State.reportMoved (s : State) (f : FeederId) (n : CycleNumber) (q : QMsg) : State × List Nat :=
  let s1 := s.report f n q
  (s1, if (s.record f q.handle).state.ungranted && (s1.record f q.handle).state.granted then [q.handle] else [])

/-- Up to `k` messages taken, each reported before the next is taken: a message that a report offers joins the queue in
time for the rest of the header (R153). -/
def State.dispatchJoined (s : State) (f : FeederId) (n : CycleNumber) : Nat → State × List QMsg × List Nat
  | 0 => (s, [], [])
  | k + 1 =>
    match (s.fd f).takeMessage with
    | none => (s, [], [])
    | some (q, fd) =>
      let (s1, moved) := (s.setFd f fd).reportMoved f n q
      let (s2, qs, more) := s1.dispatchJoined f n k
      (s2, q :: qs, moved ++ more)

/-- Up to `k` messages taken from a queue. -/
def Feeder.takeMessages (fd : Feeder) : Nat → Feeder × List QMsg
  | 0 => (fd, [])
  | k + 1 =>
    match fd.takeMessage with
    | none => (fd, [])
    | some (q, fd1) =>
      let (fd2, qs) := fd1.takeMessages k
      (fd2, q :: qs)

/-- The reports of messages already taken, in the order taken. -/
def State.reportAll (s : State) (f : FeederId) (n : CycleNumber) : List QMsg → State × List Nat
  | [] => (s, [])
  | q :: rest =>
    let (s1, moved) := s.reportMoved f n q
    let (s2, more) := s1.reportAll f n rest
    (s2, moved ++ more)

/-- The dispatch of a build: the messages of the header and the handles they moved (R150). When `joins` is no, the
reports are taken after the four messages, so that what they offer goes into a later header (R153). -/
def State.dispatch (s : State) (f : FeederId) (n : CycleNumber) (joins : Bool) : State × List QMsg × List Nat :=
  if joins then s.dispatchJoined f n 4
  else
    let (fd, qs) := (s.fd f).takeMessages 4
    let (s1, moved) := (s.setFd f fd).reportAll f n qs
    (s1, qs, moved)

/-- A record's owed message offered again (R151). -/
def Feeder.reoffer (fd : Feeder) (h : Nat) : Feeder :=
  match (fd.record h).owed with
  | none => fd
  | some m => (fd.modRecord h fun r => { r with owed := none }).offer h m

/-- The owed messages offered again in handle order (R151). -/
def Feeder.reofferAll (fd : Feeder) : Feeder := (List.range' 1 255).foldl Feeder.reoffer fd

end Sys2Proof.Machine
end

