-- ==== Sys2Proof/Machine/Builder.lean ====
section
/-! DEFINITION. The cycle build (chapter 7): the placement of grants and the composition of the next header. -/
namespace Sys2Proof.Machine

open Sys2Proof

/-! ## Placing grants (R134) -/

/-- A grant map as it is filled: the next free offset and the grants placed so far. -/
structure GrantMap where
  next : Nat
  grants : List Grant
deriving DecidableEq, Repr

/-- A grant of this length fits (R134). -/
def GrantMap.fits (m : GrantMap) (guard len : Nat) : Bool :=
  decide (m.next + len + guard ≤ Config.cycleLength) && decide (m.grants.length < Config.maxGrants)

/-- A grant placed at the next free offset (R134). -/
def GrantMap.place (m : GrantMap) (guard : Nat) (kind : GrantKind) (h len : Nat) (confirm : Bool) : GrantMap where
  next := m.next + len + guard
  grants := m.grants ++
    [{ kind := kind, handle := h, offset := m.next, length := len, confirm := confirm, answered := false,
       garbled := false }]

/-- The next multiple of 4 LU (R134). -/
def roundUp4 (n : Nat) : Nat := (n + 3) / 4 * 4

/-! ## CHECK grants (R135, R136) -/

/-- A record has a check due (R135). -/
def Record.checkDue (r : Record) : Bool :=
  match r.state with
  | .confirming => true
  | .levelling => true
  | .suspect => true
  | .inService => decide (r.checkCd = 0)
  | _ => false

/-- A handle's check wait. -/
def Feeder.wait (fd : Feeder) (h : Nat) : Nat := fd.checkWait[h - 1]?.getD 0

/-- A handle put into a list ordered by check wait, the largest first, behind those of the same wait. -/
def insertByWait (wait : Nat → Nat) (h : Nat) : List Nat → List Nat
  | [] => [h]
  | k :: rest => if wait k < wait h then h :: k :: rest else k :: insertByWait wait h rest

/-- Handles in ascending order put into the order of R135. -/
def orderByWait (wait : Nat → Nat) (hs : List Nat) : List Nat := hs.foldl (fun acc h => insertByWait wait h acc) []

/-- The due checks of a build in the order of R135. A record that a dispatch into this header has moved receives none
(R133; log entry 12). -/
def Feeder.checksDue (fd : Feeder) (moved : List Nat) : List Nat :=
  orderByWait fd.wait (fd.handlesWhere fun h r => r.checkDue && !moved.contains h)

/-- The due checks placed in their order, up to the first that does not fit; the rest are deferred (R136). -/
def State.placeChecks (s : State) (f : FeederId) (guard : Nat) : List Nat → GrantMap → State × GrantMap × List Nat
  | [], m => (s, m, [])
  | h :: rest, m =>
    if m.fits guard Config.checkLength then
      let r := s.record f h
      let s1 :=
        if r.state = .inService then s.modRecord f h fun r => { r with checkCd := (s.profileOf r).presence } else s
      s1.placeChecks f guard rest (m.place guard .check h Config.checkLength (decide (r.state = .confirming)))
    else (s, m, h :: rest)

/-- The check waits after the CHECK stage (R135). -/
def Feeder.updateWaits (fd : Feeder) (deferred : List Nat) : Feeder :=
  { fd with
    checkWait := Vector.ofFn fun i : Fin 255 =>
      if deferred.contains (i.val + 1) then incUpTo 255 fd.checkWait[i] else 0 }

/-! ## DATA grants (R137) -/

/-- The record has a DATA grant due (R137). -/
def State.dataDue (s : State) (r : Record) : Bool :=
  decide (r.state = .inService) && decide (0 < (s.profileOf r).dataLength) && decide (r.dataCd = 0)

/-- Handles in ascending order taken from the rotation pointer on, wrapping from 255 to 1. -/
def rotateFrom (pointer : Nat) (hs : List Nat) : List Nat :=
  (hs.filter fun h => decide (pointer ≤ h)) ++ hs.filter fun h => decide (h < pointer)

/-- The due DATA grants placed in rotation order, up to the first that does not fit; the rest are deferred (R137). -/
def State.placeData (s : State) (f : FeederId) (guard : Nat) : List Nat → GrantMap → State × GrantMap × List Nat
  | [], m => (s, m, [])
  | h :: rest, m =>
    let p := s.profileOf (s.record f h)
    let len := roundUp4 p.dataLength
    if m.fits guard len then
      (s.modRecord f h fun r => { r with dataCd := p.dataInterval }).placeData f guard rest
        (m.place guard .data h len false)
    else (s, m, h :: rest)

/-- The handle after another, wrapping from 255 to 1. -/
def handleAfter (h : Nat) : Nat := if h < 255 then h + 1 else 1

/-- The rotation pointer after the DATA stage: the handle after the last one placed (R137). -/
def rotationAfter (pointer : Nat) (due deferred : List Nat) : Nat :=
  match (due.take (due.length - deferred.length)).getLast? with
  | some h => handleAfter h
  | none => pointer

/-- The DATA stage (R137). -/
def State.dataStage (s : State) (f : FeederId) (guard : Nat) (moved : List Nat) (checksDeferred : Bool) (m : GrantMap) :
    State × GrantMap :=
  let due :=
    rotateFrom (s.fd f).rotation ((s.fd f).handlesWhere fun h r => s.dataDue r && !moved.contains h)
  let (s1, m1, deferred) := if checksDeferred then (s, m, due) else s.placeData f guard due m
  (s1.modFd f fun fd =>
      Feeder.count { fd with rotation := rotationAfter fd.rotation due deferred } .dataDeferrals deferred.length, m1)

/-! ## The header (R133) -/

/-- The first offset free for a grant: 0, or W + GUARD behind a measurement window (R134). -/
def firstOffset (guard : Nat) : Option Window → Nat
  | none => 0
  | some w => w.spanEnd + guard

/-- The grants of a header placed: the CHECK stage and the DATA stage (R133, stages 3 and 4). -/
def State.placeGrants (s : State) (f : FeederId) (guard : Nat) (moved : List Nat) (window : Option Window) :
    State × List Grant :=
  let (s1, m, deferred) :=
    s.placeChecks f guard ((s.fd f).checksDue moved) { next := firstOffset guard window, grants := [] }
  let s2 := s1.modFd f (·.updateWaits deferred)
  let (s3, m1) := s2.dataStage f guard moved (!deferred.isEmpty) m
  (s3, m1.grants)

/-- Naming taken at a point of the build when the build's order places it there. -/
def State.nameAt (s : State) (f : FeederId) (here point : NamingPoint) : State :=
  if here = point then s.name f else s

/-- The full header of a feeder that is OPEN or PAUSED, with the award already made (R133). -/
def State.buildFull (s : State) (f : FeederId) (n : CycleNumber) (order : BuildOrder) : State :=
  let guard := (s.fd f).settings.guard
  let s1 := s.nameAt f .beforeDispatch order.naming
  let (s2, messages, moved) := s1.dispatch f n order.reportsJoin
  let s3 := s2.nameAt f .afterDispatch order.naming
  let s4 := s3.modFd f (·.reofferAll)
  let s5 := s4.nameAt f .afterReoffers order.naming
  let (s6, window) := s5.windowStage f n
  let (s7, grants) := s6.placeGrants f guard moved window
  let s8 := s7.nameAt f .afterPlacement order.naming
  s8.modFd f fun fd =>
    { fd with
      nextHeader := some
        { cycle := n, kind := .full, window := window, guard := guard, grants := grants, messages := messages } }

/-- A quiet or purge header (R37, R38, R209). -/
def bareHeader (n : CycleNumber) (kind : HeaderKind) (guard : Nat) : Header where
  cycle := n
  kind := kind
  window := none
  guard := guard
  grants := []
  messages := []

/-- The quiet or purge header written into a feeder. -/
def Feeder.writeBare (fd : Feeder) (n : CycleNumber) (kind : HeaderKind) : Feeder :=
  { fd with nextHeader := some (bareHeader n kind fd.settings.guard) }

/-- The cycle build of a feeder (R29, R133). A CLOSED feeder holds no build, and a feeder holds one build in a cycle, so
that a build that finds the header already composed has no effect (log entry 13). -/
def State.build (s : State) (f : FeederId) (order : BuildOrder) : State :=
  let n := s.cycle + 1#16
  if (s.fd f).state = .closed ∨ (s.fd f).nextHeader.isSome = true then s
  else
    let s1 := (s.nameAt f .beforeAward order.naming).makeAward n
    match (s.fd f).state with
    | .closed => s1
    | .quieting => s1.modFd f (·.writeBare n .quiet)
    | .purging => s1.modFd f (·.writeBare n .purge)
    | .opened => s1.buildFull f n order
    | .paused => s1.buildFull f n order

end Sys2Proof.Machine
end

