-- ==== Sys2Proof/Machine/Cycle.lean ====
section
/-! DEFINITION. The common cycle (chapter 2): the cycle start with its countdowns and their expiries, the downstream frames
sent behind a header, and the watchdog's periods. -/
namespace Sys2Proof.Machine

open Sys2Proof

/-! ## Sending a header (R29, R132) -/

/-- The map a sent header leaves (R132). Its end is evaluated when the header was built while the feeder was OPEN or
PAUSED (R31). -/
def Header.heldMap (hd : Header) : HeldMap where
  cycle := hd.cycle
  evaluated := decide (hd.kind = .full)
  window := hd.window
  guard := hd.guard
  grants := hd.grants
  burstSeen := false
  lightSeen := false

/-- A feeder sends its built header: it goes out on the line and its map becomes a held map (R132). -/
def Feeder.send (fd : Feeder) : Feeder :=
  match fd.nextHeader with
  | none => fd
  | some hd =>
    { fd with
      nextHeader := none
      heldMaps := lastTwo (fd.heldMaps ++ [hd.heldMap])
      line := some { header := hd, sent := [] } }

/-! ## The countdowns of a cycle start -/

/-- A record's countdowns at a cycle start of its feeder (R17, R123, R138, R167, R168). -/
def Record.tick (r : Record) : Record :=
  { r with
    pace := if r.state.active then r.pace - 1 else r.pace
    drain := if r.state = .ejected then r.drain.map (· - 1) else r.drain
    checkCd := if r.state = .inService then r.checkCd - 1 else r.checkCd
    dataCd := if r.state = .inService then r.dataCd - 1 else r.dataCd
    recCd := if r.state = .hushed ∨ r.state = .inService then r.recCd - 1 else r.recCd }

/-- A HELD arrival's decision countdown at a cycle start (R95). -/
def Arrival.tick (a : Arrival) : Arrival :=
  match a.status with
  | .held r n => { a with status := .held r (n - 1) }
  | _ => a

/-- A feeder's countdowns at its own cycle start (R37, R38, R56, R95). -/
def Feeder.tick (fd : Feeder) : Feeder :=
  { fd with
    seqCount := fd.seqCount.map (· - 1)
    rootCd := if fd.state.serving then fd.rootCd - 1 else fd.rootCd
    gapCd := if fd.state.serving then fd.gapCd - 1 else fd.gapCd
    table := fd.table.map (·.tick)
    arrivals := if fd.state = .opened then fd.arrivals.map (·.tick) else fd.arrivals }

/-- The hold countdowns decremented together, with the entries that reach 0 removed (R24). -/
def tickBars (bars : List BarEntry) : List BarEntry :=
  (bars.map fun b => { b with countdown := b.countdown - 1 }).filter fun b => decide (b.countdown ≠ 0)

/-- The Bar List counts at this cycle start: at feeder A's while A is OPEN or PAUSED, otherwise at feeder B's while B is
(R24). -/
def barsCount (a b : FeederState) (startsA startsB : Bool) : Bool :=
  if a.serving then startsA else b.serving && startsB

/-! ## Expiries -/

/-- The end of the quiet sequence (R37). -/
def Feeder.endQuiet (fd : Feeder) : Feeder := { fd with state := .purging, seqCount := some 8 }

/-- The end of the purge sequence (R38). -/
def Feeder.endPurge (fd : Feeder) : Feeder := { fd with state := .opened, seqCount := none, rootCd := 0, gapCd := 0 }

/-- A sequence count that stands at 0 ends its sequence (R37, R38). -/
def Feeder.endSequence (fd : Feeder) : Feeder :=
  if fd.seqCount = some 0 then
    match fd.state with
    | .quieting => fd.endQuiet
    | .purging => fd.endPurge
    | _ => fd
  else fd

/-- The handles whose drain countdown stands at 0 (R17). -/
def Feeder.drained (fd : Feeder) : List Nat :=
  fd.handlesWhere fun _ r => decide (r.state = .ejected) && decide (r.drain = some 0)

/-- The arrivals whose decision countdown stands at 0 (R95). -/
def Feeder.decided (fd : Feeder) : List Arrival :=
  fd.arrivals.filter fun a =>
    match a.status with
    | .held _ n => decide (n = 0)
    | _ => false

/-- The HUSHED records whose recovery countdown the next decrement brings to 0 (R167). -/
def Feeder.recoveryDue (fd : Feeder) : List Nat :=
  fd.handlesWhere fun _ r => decide (r.state = .hushed) && decide (r.recCd = 1)

/-- The expiries of one feeder's countdowns at its cycle start. `before` is the feeder before the decrement (log
entry 5). -/
def State.expireAll (s : State) (f : FeederId) (before : Feeder) : State :=
  let s1 := s.modFd f (·.endSequence)
  let s2 := (s1.fd f).drained.foldl (fun t h => t.tearDown f h) s1
  let s3 := if before.state = .opened then (s2.fd f).decided.foldl (fun t a => t.expireArrival f a) s2 else s2
  before.recoveryDue.foldl (fun t h => t.recoveryDecision f h) s3

/-! ## Downstream frames (R179) -/

/-- The frames that leave a downstream buffer behind a header: those sent, those that stay, and the number removed
because their record is out of service (R179). -/
def Feeder.drainDown (fd : Feeder) : List DownFrame → Nat → List DownFrame × List DownFrame × Nat
  | [], _ => ([], [], 0)
  | d :: rest, budget =>
    if d.handle ≠ 0 ∧ (fd.record d.handle).state.carriesTraffic = false then
      let (sent, stay, n) := fd.drainDown rest budget
      (sent, stay, n + 1)
    else if d.frame.length + 4 ≤ budget then
      let (sent, stay, n) := fd.drainDown rest (budget - (d.frame.length + 4))
      (d :: sent, stay, n)
    else ([], d :: rest, 0)

/-- The downstream bytes a header leaves for frames (R179). -/
def LineCycle.budget (c : LineCycle) : Nat := Config.downstreamBytes - c.header.length

/-- A feeder that was OPEN or PAUSED at the send sends its downstream frames behind its header (R179; log entry 22). -/
def Feeder.sendDown (fd : Feeder) : Feeder :=
  match fd.line with
  | none => fd
  | some c =>
    let (sent, stay, n) := fd.drainDown fd.downBuffer c.budget
    Feeder.count { fd with downBuffer := stay, line := some { c with sent := sent } } .downstreamRefused n

/-! ## The cycle start (R28, R29) -/

/-- The feeder sends a header at this cycle start. -/
def Feeder.starts (fd : Feeder) : Bool := fd.nextHeader.isSome

/-- A feeder's send and the decrement of its countdowns. -/
def Feeder.startCycle (fd : Feeder) : Feeder := if fd.starts then fd.send.tick else fd

/-- What follows a feeder's decrements: the expiries, then the downstream frames. -/
def State.afterStart (s : State) (f : FeederId) (before : Feeder) : State :=
  if before.starts then
    let s1 := s.expireAll f before
    if before.state.serving then s1.modFd f (·.sendDown) else s1
  else s

/-- A cycle start of the shared timing, which stands still while both feeders are CLOSED (R28). The feeders are taken A
first (log entry 5). -/
def State.startCycle (s : State) : State :=
  if s.timingRuns then
    let a := s.feederA
    let b := s.feederB
    let s1 : State := { s with
      cycle := s.cycle + 1#16
      award := none
      feederA := a.startCycle
      feederB := b.startCycle
      bars := if barsCount a.state b.state a.starts b.starts then tickBars s.bars else s.bars }
    (s1.afterStart .A a).afterStart .B b
  else s

/-! ## One countdown's end on its own (log entry 4) -/

/-- QUIET_END. -/
def Feeder.quietEnd (fd : Feeder) : Feeder :=
  if fd.state = .quieting ∧ fd.seqCount.getD 0 ≤ 1 then fd.endQuiet else fd

/-- PURGE_END. -/
def Feeder.purgeEnd (fd : Feeder) : Feeder :=
  if fd.state = .purging ∧ fd.seqCount.getD 0 ≤ 1 then fd.endPurge else fd

/-- DRAIN_EXPIRY (R20). -/
def State.drainEnd (s : State) (f : FeederId) (h : Nat) : State :=
  let r := s.record f h
  if r.state = .ejected ∧ (r.drain = some 1 ∨ r.drain = some 0) then s.tearDown f h else s

/-- BAR_HOLD_EXPIRY (R24). -/
def State.barEnd (s : State) (serial : Serial) : State :=
  if s.feederA.state.serving || s.feederB.state.serving then
    { s with bars := s.bars.filter fun b => !(decide (b.serial = serial) && decide (b.countdown ≤ 1)) }
  else s

/-- DECISION_EXPIRY (R95). -/
def State.decisionEnd (s : State) (f : FeederId) (serial : Serial) : State :=
  if (s.fd f).state = .opened then
    match (s.fd f).arrivals.find? fun a => decide (a.serial = serial) with
    | none => s
    | some a =>
      match a.status with
      | .held _ n => if n ≤ 1 then s.expireArrival f a else s
      | _ => s
  else s

/-- RECOVERY_EXPIRY (R167). -/
def State.recoveryEnd (s : State) (f : FeederId) (h : Nat) : State :=
  let r := s.record f h
  if r.state = .hushed ∧ r.recCd = 1 then (s.modRecord f h fun r => { r with recCd := 0 }).recoveryDecision f h else s

/-- RE_HUSH_WATCH_END (R168). -/
def Record.watchEnd (r : Record) : Record := if r.state = .inService ∧ r.recCd = 1 then { r with recCd := 0 } else r

/-- CHECK_COUNTDOWN_EXPIRY (R138). -/
def Record.checkEnd (r : Record) : Record := if r.state = .inService ∧ r.checkCd = 1 then { r with checkCd := 0 } else r

/-- DATA_COUNTDOWN_EXPIRY (R138). -/
def Record.dataEnd (r : Record) : Record := if r.state = .inService ∧ r.dataCd = 1 then { r with dataCd := 0 } else r

/-- PACE_COUNTDOWN_EXPIRY (R123). -/
def Record.paceEnd (r : Record) : Record := if r.state.active = true ∧ r.pace = 1 then { r with pace := 0 } else r

/-- GAP_COUNTDOWN_EXPIRY (R56). -/
def Feeder.gapEnd (fd : Feeder) : Feeder := if fd.state.serving = true ∧ fd.gapCd = 1 then { fd with gapCd := 0 } else fd

/-- ROOT_COUNTDOWN_EXPIRY (R56). -/
def Feeder.rootEnd (fd : Feeder) : Feeder :=
  if fd.state.serving = true ∧ fd.rootCd = 1 then { fd with rootCd := 0 } else fd

/-! ## The watchdog (R199, R201) -/

/-- The watchdog expires (R201). -/
def State.enterHoldover (s : State) : State :=
  State.raise { s with holdover := true, wdCd := 0, holdoverEntered := true } .holdover {}

/-- The end of a watchdog period (R199). -/
def State.watchdogPeriod (s : State) : State :=
  if s.wdArmed = true ∧ s.holdover = false then
    if s.wdCd ≤ 1 then s.enterHoldover else { s with wdCd := s.wdCd - 1 }
  else s

/-- WATCHDOG_EXPIRY on its own (R201; log entry 4). -/
def State.watchdogEnd (s : State) : State :=
  if s.wdArmed = true ∧ s.holdover = false ∧ s.wdCd ≤ 1 then s.enterHoldover else s

end Sys2Proof.Machine
end

