-- ==== Sys2Proof/Machine/Equalise.lean ====
section
/-! DEFINITION. The Equalisation Unit (chapter 5): the delay of one measurement, confirmation, probing, and the drift and
misplaced watches. -/
namespace Sys2Proof.Machine

open Sys2Proof

/-! ## The delay from one measurement (R104, R105) -/

/-- The needed delay Q8 in eighths (R104). -/
def neededDelay (grantOffset slot m8 : Nat) : Int := 8 * ((grantOffset : Int) + 16 * slot) - m8

/-- The bands of Q8 (R104). -/
inductive Band where
  | beyondReach
  | early
  | inRange
deriving DecidableEq, Repr

/-- Q8 sorted into its band under a reach class whose Z − 40 is `span` (R104). -/
def bandOf (span : Nat) (q : Int) : Band :=
  if q < -4 then .beyondReach else if 8 * (span : Int) + 4 < q then .early else .inRange

/-- Q8 clamped to 0..8·(Z − 40) (R105). -/
def clampDelay (span : Nat) (q : Int) : Int := max 0 (min q (8 * (span : Int)))

/-- EqD from Q8: the clamped Q8 to the nearest whole LU, a half rounded up (R105). -/
def delayOf (span : Nat) (q : Int) : Nat := ((clampDelay span q + 4) / 8).toNat

/-- The residue that EqD leaves (R105). -/
def residueOf (span : Nat) (q : Int) : Int := clampDelay span q - 8 * (delayOf span q : Int)

/-- The deviation d8 of a burst from its grant offset (R109, R115). -/
def deviation (m8 offset : Nat) : Int := (m8 : Int) - 8 * (offset : Int)

/-! ## Entry into PROBING (R111) -/

/-- The record fields of an entry into PROBING below four attempts (R111, R168). -/
def Record.toProbing (r : Record) : Record :=
  { r.endWatch with
    state := .probing
    driftRun := 0
    misplacedRun := 0
    levelRun := 0
    walking := false
    owed := r.owed.filter fun m => m.kind.urgent }

/-- An equalisation attempt counted: at the fourth the record is ejected with NO_CONFIRM and its serial barred, below it
`next` says what the record becomes (R111, R113). -/
def State.countAttempt (s : State) (f : FeederId) (h : Nat) (next : State → State) : State :=
  let s1 := s.modRecord f h fun r => { r with eqAttempts := r.eqAttempts + 1 }
  if 4 ≤ (s1.record f h).eqAttempts then s1.ejectAndBar f h .noConfirm else next s1

/-- A record enters PROBING (R111). -/
def State.enterProbing (s : State) (f : FeederId) (h : Nat) : State :=
  s.countAttempt f h fun s1 => s1.modFd f fun fd => (fd.modRecord h (·.toProbing)).removeOrdinary h

/-- A failed probe (R113): it counts an attempt of a PROBING record and leaves any other record as it is. -/
def State.failProbe (s : State) (f : FeederId) (h : Nat) : State :=
  if (s.record f h).state = .probing then s.countAttempt f h id else s

/-- A failed confirm (R110): it leaves a record that is not CONFIRMING as it is. -/
def State.failConfirm (s : State) (f : FeederId) (h : Nat) : State :=
  if (s.record f h).state = .confirming then s.enterProbing f h else s

/-! ## A clean probe (R112) -/

/-- A clean probe judged against the record of its handle. -/
def State.judgeProbe (s : State) (f : FeederId) (h : Nat) (serial : Serial) (grantOffset m8 level : Nat) : State :=
  let r := s.record f h
  if r.state ≠ .probing then s
  else if r.serial ≠ some serial then s.failProbe f h
  else
    let s1 := s.modRecord f h fun r => { r with lastLevel := some level }
    let span := (s.fd f).settings.reach.span
    let q := neededDelay grantOffset 0 m8
    match bandOf span q with
    | .beyondReach =>
      (s1.eject f h .outOfReach).raise .outOfReach
        { feeder := some f, handle := some h, serial := r.serial, dwelling := s.dwellingOf r.planLink }
    | .early => s1.failProbe f h
    | .inRange =>
      s1.modFd f fun fd => fd.offerOrdinary h (.delay (delayOf span q) (some (residueOf span q)))

/-! ## Confirmation (R109) -/

/-- The confirm tolerance, in eighths. -/
def confirmTolerance : Nat := 16

/-- The bound above which a burst is misplaced, in eighths (R109, R115). -/
def misplacedBound : Nat := 512

/-- A CHECK burst that is not a settle burst judged for a CONFIRMING record (R109). -/
def State.judgeConfirm (s : State) (f : FeederId) (h : Nat) (d8 : Int) : State :=
  if d8.natAbs ≤ confirmTolerance then
    s.modRecord f h fun r => { r with state := .levelling, driftRun := 0, misplacedRun := 0 }
  else
    (if misplacedBound < d8.natAbs then s.modFd f (·.count .misplaced 1) else s).enterProbing f h

/-! ## The misplaced watch (R116) -/

/-- A misplaced burst. -/
def State.misplace (s : State) (f : FeederId) (h : Nat) : State :=
  let s1 := s.modFd f fun fd =>
    (fd.count .misplaced 1).modRecord h fun r => { r with misplacedRun := incUpTo 3 r.misplacedRun }
  if (s1.record f h).misplacedRun = 3 then s1.enterProbing f h else s1

/-! ## The drift watch (R117 to R119) -/

/-- The drift run after a burst that leans late, leans early or does neither (R117); its sign is the run's sign. -/
def driftRunAfter (trip : Nat) (run d8 : Int) : Int :=
  if 8 * (trip : Int) < d8 then
    if run < 0 then 0 else min 15 (run + 1)
  else if d8 < -(8 * (trip : Int)) then
    if 0 < run then 0 else max (-15) (run - 1)
  else 0

/-- d8 / 8 to the nearest whole LU, a half rounded away from zero, clamped to −8..+8 (R118, steps 1 and 2). -/
def correctionOf (d8 : Int) : Int :=
  max (-8) (min 8 (if 0 ≤ d8 then (d8 + 4) / 8 else -((-d8 + 4) / 8)))

/-- The new EqD of a drift correction before its clamp (R118, step 3). -/
def correctedDelay (eqd : Nat) (d8 : Int) : Int := (eqd : Int) - correctionOf d8

/-- The record takes REACH_EDGE, and the notice is raised when the flag was clear (R119). -/
def State.reachEdge (s : State) (f : FeederId) (h : Nat) : State :=
  let r := s.record f h
  let s1 := s.modRecord f h fun r => { r with reachEdge := true }
  if r.reachEdge then s1
  else
    s1.raise .reachEdge
      { feeder := some f, handle := some h, serial := r.serial, dwelling := s.dwellingOf r.planLink }

/-- A drift correction computed from the burst that called for it (R118). -/
def State.correctDrift (s : State) (f : FeederId) (h : Nat) (d8 : Int) : State :=
  let span := (s.fd f).settings.reach.span
  let r := s.record f h
  let raw := correctedDelay r.eqd d8
  let new := max 0 (min raw (span : Int))
  let s1 := if new ≠ raw then s.reachEdge f h else s
  if new ≠ (r.eqd : Int) then s1.modFd f fun fd => fd.offerOrdinary h (.delay new.toNat none)
  else s1.modRecord f h fun r => { r with driftRun := 0 }

/-- The drift watch judges a burst (R117). -/
def State.watchDrift (s : State) (f : FeederId) (h : Nat) (d8 : Int) : State :=
  let x := (s.fd f).settings
  let run := driftRunAfter x.driftTrip (s.record f h).driftRun d8
  let s1 := s.modRecord f h fun r => { r with driftRun := run }
  if run ≠ 0 ∧ x.driftRun ≤ run.natAbs then s1.correctDrift f h d8 else s1

/-- A burst judged for timing in LEVELLING, IN_SERVICE or SUSPECT, and whether it is misplaced (R115). -/
def State.judgeTiming (s : State) (f : FeederId) (h : Nat) (d8 : Int) : State × Bool :=
  if misplacedBound < d8.natAbs then (s.misplace f h, true)
  else ((s.modRecord f h fun r => { r with misplacedRun := 0 }).watchDrift f h d8, false)

/-- The record states whose bursts R115 judges. -/
def RecState.judged : RecState → Bool
  | .levelling => true
  | .inService => true
  | .suspect => true
  | _ => false

end Sys2Proof.Machine
end

