-- ==== Sys2Proof/Machine/Level.lean ====
section
/-! DEFINITION. The Level Unit (chapter 6): the walk step, the ends of a walk, and the level watch. -/
namespace Sys2Proof.Machine

open Sys2Proof

/-- The code lies well outside the window (R124). -/
def wellOutside (low high c : Nat) : Bool :=
  decide (high + Config.levelSlack < c) || decide (c + Config.levelSlack < low)

/-- The outcomes of the walk step's table (R124). -/
inductive WalkStep where
  | endInside
  | endAtEdge
  | stepUp
  | stepDown
  | wait
deriving DecidableEq, Repr

/-- The walk step's table (R124). -/
def walkStep (low high c setting pace : Nat) : WalkStep :=
  if high < c then
    if 7 ≤ setting then .endAtEdge else if pace = 0 then .stepUp else .wait
  else if c < low then
    if setting = 0 then .endAtEdge else if pace = 0 then .stepDown else .wait
  else .endInside

/-- What an end of the walk does beyond the edge: an unsent STEP is removed (R124), and a LEVELLING record's ADMIT is offered
(R126) or an IN_SERVICE record's walk ends (R129). R124 and R126 do not order the removal and the offer, which decides whether
ADMIT finds room: the STEP goes first (DESIGN CHOICE, log entry 40). -/
def Feeder.endWalk (fd : Feeder) (h : Nat) : Feeder :=
  let fd1 := fd.removeUnsent h .step
  if (fd.record h).state = .levelling then fd1.offerOrdinary h .admission
  else fd1.modRecord h fun r => { r with walking := false, levelRun := 0 }

/-- The record takes LEVEL_EDGE, and the notice is raised when the flag was clear (R124). -/
def State.levelEdge (s : State) (f : FeederId) (h : Nat) : State :=
  let r := s.record f h
  let s1 := s.modRecord f h fun r => { r with levelEdge := true }
  if r.levelEdge then s1
  else
    s1.raise .levelEdge
      { feeder := some f, handle := some h, serial := r.serial, level := r.lastLevel,
        dwelling := s.dwellingOf r.planLink }

/-- The walk step judges a code for a record (R124). -/
def State.walk (s : State) (f : FeederId) (h : Nat) (c : Nat) : State :=
  let x := (s.fd f).settings
  let r := s.record f h
  match walkStep x.levelLow x.levelHigh c r.levelSetting r.pace with
  | .endInside => s.modFd f (·.endWalk h)
  | .endAtEdge => (s.levelEdge f h).modFd f (·.endWalk h)
  | .stepUp => s.modFd f (·.offerOrdinary h (.step true))
  | .stepDown => s.modFd f (·.offerOrdinary h (.step false))
  | .wait => s

/-- The level watch of an IN_SERVICE record that is not walking (R128). -/
def State.watchLevel (s : State) (f : FeederId) (h : Nat) (c : Nat) : State :=
  let x := (s.fd f).settings
  if wellOutside x.levelLow x.levelHigh c then
    let run := (s.record f h).levelRun + 1
    if 4 ≤ run then (s.modRecord f h fun r => { r with walking := true, levelRun := 0 }).walk f h c
    else s.modRecord f h fun r => { r with levelRun := run }
  else s.modRecord f h fun r => { r with levelRun := 0 }

/-- A CHECK burst's code taken by the Level Unit (R122). `before` is the record's state at the burst's arrival; the
record stands as the timing judgement has left it. -/
def State.takeLevel (s : State) (f : FeederId) (h : Nat) (before : RecState) (c : Nat) : State :=
  let r := s.record f h
  let s1 := s.modRecord f h fun r => { r with lastLevel := some c }
  match r.state with
  | .levelling => if (s.fd f).queuedOrOwed h .admission then s1 else s1.walk f h c
  | .inService =>
    if before = .suspect then s1 else if r.walking then s1.walk f h c else s1.watchLevel f h c
  | .suspect => s1
  | .probing => s1
  | _ => s

end Sys2Proof.Machine
end

