-- ==== Sys2Proof/Machine/Upstream.lean ====
section
/-! DEFINITION. The upstream (R31, R139 to R145, R180, R181): bursts, unassigned light, and the ends of spans, windows and
upstream cycles. -/
namespace Sys2Proof.Machine

open Sys2Proof

/-! ## Grants of a held map (R139) -/

/-- The grant of a kind for a handle. -/
def HeldMap.grant (m : HeldMap) (kind : GrantKind) (h : Nat) : Option Grant :=
  m.grants.find? fun g => decide (g.kind = kind) && decide (g.handle = h)

/-- The grant of a kind for a handle changed. -/
def HeldMap.modGrant (m : HeldMap) (kind : GrantKind) (h : Nat) (c : Grant → Grant) : HeldMap :=
  { m with grants := m.grants.map fun g => if g.kind = kind ∧ g.handle = h then c g else g }

/-- The grant's span, guard included, holds the position (R139). -/
def Grant.holds (g : Grant) (guard m8 : Nat) : Bool :=
  decide (8 * g.offset ≤ m8) && decide (m8 < 8 * (g.offset + g.length + guard))

/-- The window's span and its guard hold the position (R45). -/
def Window.holdsWithGuard (w : Window) (guard m8 : Nat) : Bool := decide (m8 < 8 * (w.spanEnd + guard))

/-- The answered mark of a grant set. -/
def State.markAnswered (s : State) (f : FeederId) (n : CycleNumber) (kind : GrantKind) (h : Nat) : State :=
  s.modFd f (·.modMap n (·.modGrant kind h fun g => { g with answered := true }))

/-- The burst is a settle burst of the record (R4). -/
def Record.settles (r : Record) (n : CycleNumber) : Bool := decide (r.settle = some n)

/-! ## Call-ins and probes (R64, R65, R107, R112) -/

/-- A clean call-in disposed of by the band of its Q8 (R107). -/
def State.judgeCallIn (s : State) (f : FeederId) (n : CycleNumber) (w : Window) (m8 level : Nat) (serial : Serial)
    (slot attempts firmware : Byte) : State :=
  let span := (s.fd f).settings.reach.span
  let q := neededDelay w.grantOffset slot.toNat m8
  match bandOf span q with
  | .beyondReach => s.raise .outOfReach { feeder := some f, serial := some serial }
  | .early => s.modFd f (·.count .malformed 1)
  | .inRange =>
    s.admitCallIn f serial
      { eqd := delayOf span q, residue := residueOf span q, level := level, cycle := n, attempts := attempts
        firmware := firmware.setWidth 4 }

/-- A clean call-in burst: measured in a call-in window's span, discarded elsewhere (R64, R65, R210). -/
def State.callInBurst (s : State) (f : FeederId) (n : CycleNumber) (m8 level : Nat) (serial : Serial)
    (slot attempts firmware : Byte) : State :=
  match s.windowOf f n with
  | none => s
  | some w =>
    if w.window.isCallIn && w.window.holds m8 then
      (s.modWindow f n fun w => { w with clean := w.clean + 1 }).judgeCallIn f n w.window m8 level serial slot attempts
        firmware
    else s

/-- A clean probe burst: the first of the window's handle in a probe window's span is handed on, any other is discarded
(R64, R65, R210). -/
def State.probeBurst (s : State) (f : FeederId) (n : CycleNumber) (m8 level : Nat) (h : Nat) (serial : Serial) : State :=
  match s.windowOf f n with
  | none => s
  | some w =>
    if w.window.use = .probe h ∧ w.window.holds m8 = true ∧ w.answered = false then
      (s.modWindow f n fun w => { w with answered := true }).judgeProbe f h serial w.window.grantOffset m8 level
    else s

/-! ## CHECK bursts (R109, R115, R122, R140, R171) -/

/-- The states whose records an answered check changes (R140). -/
def Record.answer (r : Record) (presence : Nat) : Record :=
  match r.state with
  | .levelling => { r with miss := 0 }
  | .inService => { r with miss := 0, grace := r.grace - 1 }
  | .suspect => { r with state := .inService, miss := 0, suspectLeft := 0, checkCd := presence }
  | _ => r

/-- An answered check taken by the record (R140). -/
def State.answerCheck (s : State) (f : FeederId) (h : Nat) : State :=
  s.modRecord f h fun r => r.answer (s.profileOf r).presence

/-- The states whose records' condition words are taken (R171). -/
def RecState.conditionTaken : RecState → Bool
  | .levelling => true
  | .inService => true
  | .suspect => true
  | .probing => true
  | _ => false

/-- The Level Unit and the Supervision Unit take a judged CHECK burst, the record standing as the timing judgement left it
(R122, R171). -/
def State.takeCheck (s : State) (f : FeederId) (h : Nat) (before : RecState) (level : Nat) (w : Byte) : State :=
  let s1 := s.takeLevel f h before level
  if (s.record f h).state.conditionTaken then s1.takeCondition f h w else s1

/-- A CLEAN CHECK burst that is no settle burst, judged against the record as it stands (R109, R115, R140). -/
def State.judgeCheck (s : State) (f : FeederId) (h : Nat) (d8 : Int) (level : Nat) (w : Byte) : State :=
  let before := (s.record f h).state
  if before = .confirming then
    let s1 := s.judgeConfirm f h d8
    if (s1.record f h).state = .levelling then s1.takeCheck f h before level w else s1
  else if before.judged then (((s.judgeTiming f h d8).1).takeCheck f h before level w).answerCheck f h
  else s

/-- A CLEAN CHECK burst attributed to its grant (R139). -/
def State.checkBurst (s : State) (f : FeederId) (m : HeldMap) (m8 level : Nat) (h : Nat) (w : Byte) : State :=
  match m.grant .check h with
  | none => s
  | some g =>
    if g.answered then s
    else
      let s1 := s.markAnswered f m.cycle .check h
      if (s.record f h).settles m.cycle then s1.answerCheck f h else s1.judgeCheck f h (deviation m8 g.offset) level w

/-! ## DATA bursts (R139, R180, R181) -/

/-- One frame of a forwarded burst: tagged and put into the upstream buffer when its check is good and there is room,
otherwise dropped and counted (R181, R210). The rules do not speak of a frame shorter than its two addresses whose last four
bytes are a good check: it is dropped and counted as if its check had failed (DESIGN CHOICE, log entry 42, unsafe). -/
def State.forwardFrame (s : State) (f : FeederId) (h : Nat) (frame : Bytes) : State :=
  if checkGood addressLength frame && decide (s.upBuffer.length < Config.upstreamCapacity) then
    { s with upBuffer := s.upBuffer ++ [{ tagType := s.tagType, feeder := f, handle := h, frame := frame }] }
  else s.modFd f (·.count .upstreamDropped 1)

/-- The frames of a burst dropped and counted (R180). -/
def State.dropFrames (s : State) (f : FeederId) (frames : List Bytes) : State :=
  s.modFd f (·.count .upstreamDropped frames.length)

/-- The timing judgement of a DATA burst and its verdict: misplaced or not (R115). -/
def State.judgeData (s : State) (f : FeederId) (h : Nat) (n : CycleNumber) (d8 : Int) : State × Bool :=
  let r := s.record f h
  if r.state.judged && !r.settles n then s.judgeTiming f h d8 else (s, false)

/-- A CLEAN DATA burst (R139, R180). -/
def State.dataBurst (s : State) (f : FeederId) (m : HeldMap) (m8 : Nat) (h : Nat) (frames : List Bytes) : State :=
  match m.grant .data h with
  | none => s.dropFrames f frames
  | some g =>
    if g.answered then s.dropFrames f frames
    else
      let (s1, misplaced) := (s.markAnswered f m.cycle .data h).judgeData f h m.cycle (deviation m8 g.offset)
      if (s.record f h).state.carriesTraffic && !misplaced then
        frames.foldl (fun t frame => t.forwardFrame f h frame) s1
      else s1.dropFrames f frames

/-! ## Burst reports (R31, R139, R210) -/

/-- The map of an upstream cycle whose reports the feeder takes: the feeder is OPEN or PAUSED and holds the cycle's map
(R31). -/
def Feeder.liveMap (fd : Feeder) (n : CycleNumber) : Option HeldMap := if fd.state.serving then fd.mapOf n else none

/-- A CLEAN burst (R139, R210). -/
def State.cleanBurst (s : State) (f : FeederId) (n : CycleNumber) (m8 level : Nat) (content : BurstContent) : State :=
  match (s.fd f).liveMap n with
  | none => s
  | some m =>
    let s1 := s.modFd f (·.modMap n fun m => { m with burstSeen := true })
    match content with
    | .callIn serial slot attempts firmware => s1.callInBurst f n m8 level serial slot attempts firmware
    | .probe handle serial => s1.probeBurst f n m8 level handle.toNat serial
    | .check handle condition => s1.checkBurst f m m8 level handle.toNat condition
    | .data handle frames => s1.dataBurst f m m8 handle.toNat frames
    | .unknown _ => s1

/-- A GARBLED burst attributed to a grant: its garbled mark, and a failed confirm (R110, R139). -/
def State.garbleGrant (s : State) (f : FeederId) (n : CycleNumber) (g : Grant) : State :=
  let s1 := s.modFd f (·.modMap n (·.modGrant g.kind g.handle fun g => { g with garbled := true }))
  if g.kind = .check ∧ g.confirm = true then s1.failConfirm f g.handle else s1

/-- A GARBLED burst at a position: a measurement window's within its span, otherwise the grant's whose span and guard
hold it (R64, R65, R139). -/
def State.garbleAt (s : State) (f : FeederId) (n : CycleNumber) (m : HeldMap) (m8 : Nat) : State :=
  match s.windowOf f n with
  | some w =>
    if w.window.holds m8 then
      if w.window.isCallIn then s.modWindow f n fun w => { w with collided := true } else s
    else
      match m.grants.find? fun g => g.holds m.guard m8 with
      | some g => s.garbleGrant f n g
      | none => s
  | none =>
    match m.grants.find? fun g => g.holds m.guard m8 with
    | some g => s.garbleGrant f n g
    | none => s

/-- A GARBLED burst (R31, R139; without a position it concerns no window and no grant, log entry 20). -/
def State.garbledBurst (s : State) (f : FeederId) (n : CycleNumber) (m8 : Option Nat) : State :=
  match (s.fd f).liveMap n with
  | none => s
  | some m =>
    let s1 := s.modFd f (·.modMap n fun m => { m with burstSeen := true })
    match m8 with
    | some p => s1.garbleAt f n m p
    | none => s1

/-- The position lies outside every grant span, every window span and every guard of the map (R45). -/
def HeldMap.unassigned (m : HeldMap) (m8 : Nat) : Bool :=
  !((match m.window with | some w => w.holdsWithGuard m.guard m8 | none => false) ||
    m.grants.any fun g => g.holds m.guard m8)

/-- Light in unassigned time (R31, R45). A report without a position counts (log entry 19). -/
def State.unassignedLight (s : State) (f : FeederId) (n : CycleNumber) (m8 : Option Nat) : State :=
  match (s.fd f).liveMap n with
  | none => s
  | some m =>
    if (match m8 with | some p => m.unassigned p | none => true) then
      s.modFd f (·.modMap n fun m => { m with lightSeen := true })
    else s

/-! ## The end of a CHECK grant's span (R141 to R144) -/

/-- A record becomes SUSPECT (R142, R168). -/
def Record.toSuspect (r : Record) : Record := { r.endWatch with state := .suspect, suspectLeft := 8 }

/-- An unanswered check of an IN_SERVICE record (R142). -/
def Record.missService (r : Record) (missLimit : Nat) : Record :=
  if 0 < r.grace then { r with grace := r.grace - 1, checkCd := 0 }
  else
    let r1 := { r with miss := incUpTo 15 r.miss, checkCd := 0 }
    if missLimit ≤ r1.miss then r1.toSuspect else r1

/-- An unanswered check of a LEVELLING record (R143). -/
def State.missLevelling (s : State) (f : FeederId) (h : Nat) : State :=
  let limit := (s.profileOf (s.record f h)).missLimit
  let s1 := s.modRecord f h fun r => { r with miss := incUpTo 15 r.miss }
  if limit ≤ (s1.record f h).miss ∧ (s1.fd f).queuedOrOwed h .admission = false then
    s1.modFd f fun fd => (fd.removeUnsent h .step).offerOrdinary h .admission
  else s1

/-- An unanswered check of a SUSPECT record (R144, R175). -/
def State.missSuspect (s : State) (f : FeederId) (h : Nat) : State :=
  let r := s.record f h
  let s1 := s.modRecord f h fun r => { r with suspectLeft := r.suspectLeft - 1 }
  if r.suspectLeft ≤ 1 then s1.eject f h (if r.mainsFailing then .mainsLost else .silent) else s1

/-- The record's judgement of an unanswered check, the last rows of the table of R141. -/
def State.missCheck (s : State) (f : FeederId) (h : Nat) : State :=
  match (s.record f h).state with
  | .levelling => s.missLevelling f h
  | .inService => s.modRecord f h fun r => r.missService (s.profileOf r).missLimit
  | .suspect => s.missSuspect f h
  | _ => s

/-- The span end of a CHECK grant (R110, R141). -/
def State.judgeSpan (s : State) (f : FeederId) (g : Grant) : State :=
  if g.confirm then
    if g.answered || g.garbled then s else s.failConfirm f g.handle
  else if g.answered then s
  else if (s.fd f).dark then s
  else if g.garbled then s
  else s.missCheck f g.handle

/-- The end of the guard of a CHECK grant (R141). -/
def State.checkSpanEnd (s : State) (f : FeederId) (n : CycleNumber) (h : Nat) : State :=
  match (s.fd f).mapOf n with
  | none => s
  | some m =>
    match m.grant .check h with
    | none => s
    | some g => s.judgeSpan f g

/-! ## The end of a window's span (R66, R67) -/

/-- The end of a call-in window's span (R66). -/
def State.callInWindowEnd (s : State) (f : FeederId) (n : CycleNumber) : State :=
  match s.windowOf f n with
  | none => s
  | some w =>
    match w.window.use with
    | .callIn g _ => (s.dropWindow f n).modFd f (·.takeOutcome w.outcome g)
    | .probe _ => s

/-- The end of a probe window's span (R67). -/
def State.probeWindowEnd (s : State) (f : FeederId) (n : CycleNumber) : State :=
  match s.windowOf f n with
  | none => s
  | some w =>
    match w.window.use with
    | .callIn _ _ => s
    | .probe h => if w.answered then s.dropWindow f n else (s.dropWindow f n).failProbe f h

/-! ## The end of an upstream cycle (R31, R43 to R45) -/

/-- The dark run after a cycle (R43). -/
def darkRunAfter (run : Nat) (granted burst : Bool) : Nat :=
  if burst then 0 else if granted then incUpTo 64 run else run

/-- The dark run or the light run updated, with DARK set or cleared (R43, R44). -/
def State.watchDark (s : State) (f : FeederId) (m : HeldMap) : State :=
  let fd := s.fd f
  if fd.dark then
    let run := if m.burstSeen then fd.lightRun + 1 else 0
    if 2 ≤ run then
      (s.setFd f { fd with dark := false, darkRun := 0, lightRun := 0 }).raise .lightBack { feeder := some f }
    else s.setFd f { fd with lightRun := run }
  else
    let granted := !m.grants.isEmpty
    let run := darkRunAfter fd.darkRun granted m.burstSeen
    let fd1 := { fd with darkRun := run }
    if !m.burstSeen && granted && decide (fd.settings.darkDebounce ≤ run) then
      (s.setFd f (Feeder.latchDark { fd1 with dark := true })).raise .dark { feeder := some f }
    else s.setFd f fd1

/-- STRAY set and a hunt started, unless a record within its re-hush watch is hushed again (R45, R169). -/
def State.strayReached (s : State) (f : FeederId) : State :=
  match (s.fd f).watched with
  | some h => s.reHush f h
  | none =>
    ((s.modFd f fun fd => Feeder.latchStray { fd with stray := true }).raise .stray { feeder := some f }).startHunt f

/-- The stray run updated, and the stray report of the cycle (R45). A report that finds STRAY set goes to the hunt; the
report of the cycle that sets STRAY starts it (log entry 29). -/
def State.watchStray (s : State) (f : FeederId) (m : HeldMap) : State :=
  let fd := s.fd f
  let run := if m.lightSeen then incUpTo 16 fd.strayRun else 0
  let s1 := s.setFd f { fd with strayRun := run }
  if fd.stray then s1.strayReport f m.cycle m.lightSeen
  else if m.lightSeen && decide (fd.settings.strayRun ≤ run) then s1.strayReached f
  else s1

/-- The end of an upstream cycle: its map is no longer held, and the runs are updated when the cycle is evaluated
(R31, R132). -/
def State.upstreamCycleEnd (s : State) (f : FeederId) (n : CycleNumber) : State :=
  match (s.fd f).mapOf n with
  | none => s
  | some m =>
    let s1 := s.modFd f fun fd => { fd with heldMaps := fd.heldMaps.filter fun x => decide (x.cycle ≠ n) }
    if m.evaluated then (s1.watchDark f m).watchStray f m else s1

end Sys2Proof.Machine
end

