-- ==== Sys2Proof/Machine/Events.lean ====
section
/-! DEFINITION. The meanings of the rows that are no commands of section 10.3: resets and power, the trunk, the common
cycle, countdown ends, builds and the upstream. -/
namespace Sys2Proof.Machine

open Sys2Proof

/-! ## Resets and power -/

/-- POWER_ON_RESET (R1). -/
def execPowerOnReset (s : State) : Host.Outcome State Fault Refusal := .next s.powerOn

/-- PIN_RESET (R205, R211). -/
def execPinReset (s : State) : Host.Outcome State Fault Refusal := .next s.pinReset

/-- RESET_RELEASE (R198, R211). -/
def execResetRelease (straps : Straps) (s : State) : Host.Outcome State Fault Refusal := .next (s.releaseReset straps)

/-- PART_RESET_EFFECT (R204). -/
def execPartResetEffect (straps : Straps) (s : State) : Host.Outcome State Fault Refusal :=
  whenRunning (·.partReset straps) s

/-- POWER_LOSS (R205). -/
def execPowerLoss (s : State) : Host.Outcome State Fault Refusal := .next s.losePower

/-! ## The trunk -/

/-- TRUNK_FRAME_ARRIVAL (R177, R178). -/
def execTrunkFrameArrival (frame : Bytes) (s : State) : Host.Outcome State Fault Refusal :=
  whenRunning (·.sortFrame frame) s

/-- MANAGEMENT_FRAME_TAKE (R182, R187). -/
def execManagementFrameTake (guardPin : Bool) (s : State) : Host.Outcome State Fault Refusal :=
  whenRunning (·.takeFrame guardPin) s

/-- TRUNK_FRAME_BOUNDARY (R183). -/
def execTrunkFrameBoundary (straps : Straps) (s : State) : Host.Outcome State Fault Refusal :=
  whenRunning (·.frameBoundary straps) s

/-! ## The common cycle and its countdowns -/

/-- CYCLE_START (R28, R29). -/
def execCycleStart (s : State) : Host.Outcome State Fault Refusal := whenRunning (·.startCycle) s

/-- QUIET_END (R37). -/
def execQuietEnd (f : FeederId) (s : State) : Host.Outcome State Fault Refusal := whenRunning (·.modFd f (·.quietEnd)) s

/-- PURGE_END (R38). -/
def execPurgeEnd (f : FeederId) (s : State) : Host.Outcome State Fault Refusal := whenRunning (·.modFd f (·.purgeEnd)) s

/-- DRAIN_EXPIRY (R17, R20). -/
def execDrainExpiry (f : FeederId) (h : Nat) (s : State) : Host.Outcome State Fault Refusal :=
  whenRunning (·.drainEnd f h) s

/-- BAR_HOLD_EXPIRY (R24). -/
def execBarHoldExpiry (serial : Serial) (s : State) : Host.Outcome State Fault Refusal := whenRunning (·.barEnd serial) s

/-- DECISION_EXPIRY (R95). -/
def execDecisionExpiry (f : FeederId) (serial : Serial) (s : State) : Host.Outcome State Fault Refusal :=
  whenRunning (·.decisionEnd f serial) s

/-- RECOVERY_EXPIRY (R167). -/
def execRecoveryExpiry (f : FeederId) (h : Nat) (s : State) : Host.Outcome State Fault Refusal :=
  whenRunning (·.recoveryEnd f h) s

/-- RE_HUSH_WATCH_END (R168). -/
def execReHushWatchEnd (f : FeederId) (h : Nat) (s : State) : Host.Outcome State Fault Refusal :=
  whenRunning (·.modRecord f h (·.watchEnd)) s

/-- CHECK_COUNTDOWN_EXPIRY (R138). -/
def execCheckCountdownExpiry (f : FeederId) (h : Nat) (s : State) : Host.Outcome State Fault Refusal :=
  whenRunning (·.modRecord f h (·.checkEnd)) s

/-- DATA_COUNTDOWN_EXPIRY (R138). -/
def execDataCountdownExpiry (f : FeederId) (h : Nat) (s : State) : Host.Outcome State Fault Refusal :=
  whenRunning (·.modRecord f h (·.dataEnd)) s

/-- PACE_COUNTDOWN_EXPIRY (R123). -/
def execPaceCountdownExpiry (f : FeederId) (h : Nat) (s : State) : Host.Outcome State Fault Refusal :=
  whenRunning (·.modRecord f h (·.paceEnd)) s

/-- GAP_COUNTDOWN_EXPIRY (R56). -/
def execGapCountdownExpiry (f : FeederId) (s : State) : Host.Outcome State Fault Refusal :=
  whenRunning (·.modFd f (·.gapEnd)) s

/-- ROOT_COUNTDOWN_EXPIRY (R56). -/
def execRootCountdownExpiry (f : FeederId) (s : State) : Host.Outcome State Fault Refusal :=
  whenRunning (·.modFd f (·.rootEnd)) s

/-- WATCHDOG_PERIOD_END (R199). -/
def execWatchdogPeriodEnd (s : State) : Host.Outcome State Fault Refusal := whenRunning (·.watchdogPeriod) s

/-- WATCHDOG_EXPIRY (R201). -/
def execWatchdogExpiry (s : State) : Host.Outcome State Fault Refusal := whenRunning (·.watchdogEnd) s

/-! ## The build and the upstream -/

/-- CYCLE_BUILD (R29, R133). -/
def execCycleBuild (f : FeederId) (order : BuildOrder) (s : State) : Host.Outcome State Fault Refusal :=
  whenRunning (·.build f order) s

/-- CLEAN_BURST_ARRIVAL (R139, R210). -/
def execCleanBurst (f : FeederId) (n : CycleNumber) (m8 level : Nat) (content : BurstContent) (s : State) :
    Host.Outcome State Fault Refusal :=
  whenRunning (·.cleanBurst f n m8 level content) s

/-- GARBLED_BURST_ARRIVAL (R139). -/
def execGarbledBurst (f : FeederId) (n : CycleNumber) (m8 : Option Nat) (s : State) :
    Host.Outcome State Fault Refusal :=
  whenRunning (·.garbledBurst f n m8) s

/-- UNASSIGNED_LIGHT (R31, R45). -/
def execUnassignedLight (f : FeederId) (n : CycleNumber) (m8 : Option Nat) (s : State) :
    Host.Outcome State Fault Refusal :=
  whenRunning (·.unassignedLight f n m8) s

/-- CHECK_SPAN_END (R141). -/
def execCheckSpanEnd (f : FeederId) (n : CycleNumber) (h : Nat) (s : State) : Host.Outcome State Fault Refusal :=
  whenRunning (·.checkSpanEnd f n h) s

/-- CALLIN_WINDOW_END (R66). -/
def execCallInWindowEnd (f : FeederId) (n : CycleNumber) (s : State) : Host.Outcome State Fault Refusal :=
  whenRunning (·.callInWindowEnd f n) s

/-- PROBE_WINDOW_END (R67). -/
def execProbeWindowEnd (f : FeederId) (n : CycleNumber) (s : State) : Host.Outcome State Fault Refusal :=
  whenRunning (·.probeWindowEnd f n) s

/-- UPSTREAM_CYCLE_END (R31, R43, R45). -/
def execUpstreamCycleEnd (f : FeederId) (n : CycleNumber) (s : State) : Host.Outcome State Fault Refusal :=
  whenRunning (·.upstreamCycleEnd f n) s

end Sys2Proof.Machine
end

