-- ==== Sys2Proof/Machine/Dispatch.lean ====
section
/-! DEFINITION. The one dispatch from a command to its meaning. -/
namespace Sys2Proof.Machine

open Sys2Proof

def exec (i : Instr) (s : State) : Host.Outcome State Fault Refusal :=
  match i with
  | .powerOnReset => Sys2Proof.Machine.execPowerOnReset s
  | .pinReset => Sys2Proof.Machine.execPinReset s
  | .resetRelease straps => Sys2Proof.Machine.execResetRelease straps s
  | .partResetEffect straps => Sys2Proof.Machine.execPartResetEffect straps s
  | .trunkFrameArrival frame => Sys2Proof.Machine.execTrunkFrameArrival frame s
  | .managementFrameTake guardPin => Sys2Proof.Machine.execManagementFrameTake guardPin s
  | .identify t => Sys2Proof.Machine.execIdentify t s
  | .partReset t => Sys2Proof.Machine.execPartReset t s
  | .statusRead t clear => Sys2Proof.Machine.execStatusRead t clear s
  | .watchdogSet t mode period => Sys2Proof.Machine.execWatchdogSet t mode period s
  | .holdoverExit t => Sys2Proof.Machine.execHoldoverExit t s
  | .noticeMaskSet t mask => Sys2Proof.Machine.execNoticeMaskSet t mask s
  | .feederSet t feeder setting value high => Sys2Proof.Machine.execFeederSet t feeder setting value high s
  | .feederOpen t feeder => Sys2Proof.Machine.execFeederOpen t feeder s
  | .feederClose t feeder => Sys2Proof.Machine.execFeederClose t feeder s
  | .feederPause t feeder => Sys2Proof.Machine.execFeederPause t feeder s
  | .feederResume t feeder => Sys2Proof.Machine.execFeederResume t feeder s
  | .feederStatus t feeder clear => Sys2Proof.Machine.execFeederStatus t feeder clear s
  | .watchSet t feeder mode mask compare => Sys2Proof.Machine.execWatchSet t feeder mode mask compare s
  | .strayClear t feeder => Sys2Proof.Machine.execStrayClear t feeder s
  | .planWrite t args => Sys2Proof.Machine.execPlanWrite t args s
  | .planRead t index => Sys2Proof.Machine.execPlanRead t index s
  | .planErase t index => Sys2Proof.Machine.execPlanErase t index s
  | .freezeSet t range => Sys2Proof.Machine.execFreezeSet t range s
  | .freezeLock t => Sys2Proof.Machine.execFreezeLock t s
  | .guardSet t value => Sys2Proof.Machine.execGuardSet t value s
  | .profileWrite t args => Sys2Proof.Machine.execProfileWrite t args s
  | .profileRead t index => Sys2Proof.Machine.execProfileRead t index s
  | .profileLock t index => Sys2Proof.Machine.execProfileLock t index s
  | .profileUnlock t index => Sys2Proof.Machine.execProfileUnlock t index s
  | .profilesLockAll t => Sys2Proof.Machine.execProfilesLockAll t s
  | .arrivalsRead t feeder => Sys2Proof.Machine.execArrivalsRead t feeder s
  | .admitArrival t feeder serial profile => Sys2Proof.Machine.execAdmit t feeder serial profile s
  | .refuse t feeder serial bar => Sys2Proof.Machine.execRefuse t feeder serial bar s
  | .terminalRead t feeder handle => Sys2Proof.Machine.execTerminalRead t feeder handle s
  | .terminalFind t serial => Sys2Proof.Machine.execTerminalFind t serial s
  | .terminalEject t feeder handle bar => Sys2Proof.Machine.execTerminalEject t feeder handle bar s
  | .terminalRelevel t feeder handle => Sys2Proof.Machine.execTerminalRelevel t feeder handle s
  | .barRead t => Sys2Proof.Machine.execBarRead t s
  | .barAdd t serial hold => Sys2Proof.Machine.execBarAdd t serial hold s
  | .barRemove t serial => Sys2Proof.Machine.execBarRemove t serial s
  | .trunkFrameBoundary straps => Sys2Proof.Machine.execTrunkFrameBoundary straps s
  | .cycleStart => Sys2Proof.Machine.execCycleStart s
  | .quietEnd f => Sys2Proof.Machine.execQuietEnd f s
  | .purgeEnd f => Sys2Proof.Machine.execPurgeEnd f s
  | .drainExpiry f h => Sys2Proof.Machine.execDrainExpiry f h s
  | .barHoldExpiry serial => Sys2Proof.Machine.execBarHoldExpiry serial s
  | .decisionExpiry f serial => Sys2Proof.Machine.execDecisionExpiry f serial s
  | .recoveryExpiry f h => Sys2Proof.Machine.execRecoveryExpiry f h s
  | .reHushWatchEnd f h => Sys2Proof.Machine.execReHushWatchEnd f h s
  | .checkCountdownExpiry f h => Sys2Proof.Machine.execCheckCountdownExpiry f h s
  | .dataCountdownExpiry f h => Sys2Proof.Machine.execDataCountdownExpiry f h s
  | .paceCountdownExpiry f h => Sys2Proof.Machine.execPaceCountdownExpiry f h s
  | .gapCountdownExpiry f => Sys2Proof.Machine.execGapCountdownExpiry f s
  | .rootCountdownExpiry f => Sys2Proof.Machine.execRootCountdownExpiry f s
  | .watchdogPeriodEnd => Sys2Proof.Machine.execWatchdogPeriodEnd s
  | .watchdogExpiry => Sys2Proof.Machine.execWatchdogExpiry s
  | .cycleBuild f order => Sys2Proof.Machine.execCycleBuild f order s
  | .cleanBurst f n m8 level content => Sys2Proof.Machine.execCleanBurst f n m8 level content s
  | .garbledBurst f n m8 => Sys2Proof.Machine.execGarbledBurst f n m8 s
  | .unassignedLight f n m8 => Sys2Proof.Machine.execUnassignedLight f n m8 s
  | .checkSpanEnd f n h => Sys2Proof.Machine.execCheckSpanEnd f n h s
  | .callInWindowEnd f n => Sys2Proof.Machine.execCallInWindowEnd f n s
  | .probeWindowEnd f n => Sys2Proof.Machine.execProbeWindowEnd f n s
  | .upstreamCycleEnd f n => Sys2Proof.Machine.execUpstreamCycleEnd f n s
  | .powerLoss => Sys2Proof.Machine.execPowerLoss s

end Sys2Proof.Machine
end

