-- ==== Sys2Proof/WellFormed.lean ====
section
/-! DEFINITION. Which commands are well formed: every operand lies in the range that its field has in the manual. The
machine gives every command a meaning, well formed or not. -/
namespace Sys2Proof

open Sys2Proof.Machine

/-- A handle of a record (R1). -/
def handleInRange (h : Nat) : Bool := decide (1 ≤ h) && decide (h ≤ 255)

/-- An arrival position in eighths (R64). -/
def positionInRange (m8 : Nat) : Bool := decide (m8 < 128000)

/-- A level code (Terms: from 0 to 63). -/
def levelInRange (level : Nat) : Bool := decide (level < 64)

/-- FEEDER_SET's value fills the bytes that its setting carries and no more (R207). -/
def settingFits (setting : Byte) (value high : Word16) : Bool :=
  match settingWidth setting with
  | 0 => decide (value = 0#16) && decide (high = 0#16)
  | 1 => decide (value.toNat < 256) && decide (high = 0#16)
  | 2 => decide (high = 0#16)
  | _ => true

/-- A DATA burst's frame count is one byte (section 11.5). -/
def BurstContent.wellFormed : BurstContent → Bool
  | .callIn _ _ _ _ => true
  | .probe _ _ => true
  | .check _ _ => true
  | .data _ frames => decide (frames.length ≤ 255)
  | .unknown type => decide (type.toNat = 0) || decide (4 < type.toNat)

/-- A command whose arguments a frame can carry. -/
def Command.wellFormed : Command → Bool
  | .feederSet _ setting value high => settingFits setting value high
  | _ => true

/-- A command of the block with every operand in its range. -/
def Instr.wellFormed : Instr → Bool
  | .feederSet _ _ setting value high => settingFits setting value high
  | .drainExpiry _ h => handleInRange h
  | .recoveryExpiry _ h => handleInRange h
  | .reHushWatchEnd _ h => handleInRange h
  | .checkCountdownExpiry _ h => handleInRange h
  | .dataCountdownExpiry _ h => handleInRange h
  | .paceCountdownExpiry _ h => handleInRange h
  | .cleanBurst _ _ m8 level content => positionInRange m8 && levelInRange level && content.wellFormed
  | .garbledBurst _ _ m8 => m8.all positionInRange
  | .unassignedLight _ _ m8 => m8.all positionInRange
  | .checkSpanEnd _ _ h => handleInRange h
  | _ => true

end Sys2Proof
end

