-- ==== Sys2Proof/Safety.lean ====
section
/-! DEFINITION. What the statements speak of: the commands as rows, an answered command, and the properties of a sound
state. -/
namespace Sys2Proof.Machine

open Sys2Proof

/-! ## Commands as rows -/

/-- The row of a command taken with `t`. -/
def rowOf (t : Taking) : Command → Instr
  | .identify => .identify t
  | .partReset => .partReset t
  | .statusRead clear => .statusRead t clear
  | .watchdogSet mode period => .watchdogSet t mode period
  | .holdoverExit => .holdoverExit t
  | .noticeMaskSet mask => .noticeMaskSet t mask
  | .feederSet feeder setting value high => .feederSet t feeder setting value high
  | .feederOpen feeder => .feederOpen t feeder
  | .feederClose feeder => .feederClose t feeder
  | .feederPause feeder => .feederPause t feeder
  | .feederResume feeder => .feederResume t feeder
  | .feederStatus feeder clear => .feederStatus t feeder clear
  | .watchSet feeder mode mask compare => .watchSet t feeder mode mask compare
  | .strayClear feeder => .strayClear t feeder
  | .planWrite args => .planWrite t args
  | .planRead index => .planRead t index
  | .planErase index => .planErase t index
  | .freezeSet range => .freezeSet t range
  | .freezeLock => .freezeLock t
  | .guardSet value => .guardSet t value
  | .profileWrite args => .profileWrite t args
  | .profileRead index => .profileRead t index
  | .profileLock index => .profileLock t index
  | .profileUnlock index => .profileUnlock t index
  | .profilesLockAll => .profilesLockAll t
  | .arrivalsRead feeder => .arrivalsRead t feeder
  | .admitArrival feeder serial profile => .admitArrival t feeder serial profile
  | .refuse feeder serial bar => .refuse t feeder serial bar
  | .terminalRead feeder handle => .terminalRead t feeder handle
  | .terminalFind serial => .terminalFind t serial
  | .terminalEject feeder handle bar => .terminalEject t feeder handle bar
  | .terminalRelevel feeder handle => .terminalRelevel t feeder handle
  | .barRead => .barRead t
  | .barAdd serial hold => .barAdd t serial hold
  | .barRemove serial => .barRemove t serial

/-- The management frame that carries a command: its header, its arguments, and any bytes behind them (sections 11.1 and
11.2). -/
def commandFrame (t : Taking) (tagType : BitVec 16) (c : Command) (extra : Bytes) : Bytes :=
  trunkFrame t.destination t.source tagType 0#8 0 (beBytes 2 t.reference.toNat ++ [commandCode c] ++ argBytes c ++ extra)

/-! ## Answered commands -/

/-- The part runs and its Management Unit may take a frame (R182, R204). -/
def State.mayTake (s : State) : Prop :=
  s.phase = .running ∧ s.replies.length < 16 ∧ s.resetPending = false

/-- The part may take a frame and is not in holdover. -/
def State.mayWrite (s : State) : Prop := s.mayTake ∧ s.holdover = false

/-- The part as a command taken with `t` finds it: PLAN_GUARD sampled, the receipt count incremented, the watchdog
restarted (R187). -/
def State.opened (s : State) (t : Taking) : State := s.openTaking t

/-- The state `u` that a command has left, with the command's reply as the youngest of the reply list (R188). -/
def State.answered (s u : State) (t : Taking) (code : Byte) (result : CmdResult) : State :=
  { u with
    replies := s.replies ++
      [{ destination := t.source, source := t.destination, reference := t.reference, code := code,
         receipt := (s.receipt + 1) % 16, result := result }] }

/-- The guard acts on a command taken with `t` (R82, R211). -/
def State.guardActs (s : State) (t : Taking) : Prop := s.guardEnable = true ∧ t.guardPin = true

/-- A FEEDER_SET that is taken and writes the settings `put` makes of the ones that stood (R34). -/
def FeederSetWrites (setting : Byte) (value high : Word16) (put : Settings → Settings) (clamped : Bool) : Prop :=
  ∀ (s : State) (t : Taking) (feeder : Byte) (f : FeederId),
    s.mayWrite → feederArg feeder = some f → (s.fd f).state ≠ .quieting → (s.fd f).state ≠ .purging →
    (setting = 0#8 → (s.fd f).state = .closed) →
    exec (.feederSet t feeder setting value high) s =
      .next (s.answered ((s.opened t).modFd f fun fd => { fd with settings := put fd.settings }) t 0x10#8
        (if clamped then .clamped else .done []))

/-! ## What an ejection, a hunt's choice and an entry leave -/

/-- What the ejection of an active record leaves that is past NAMED and not the hunt's target: the record EJECTED with the
reason, its owed and its ordinary messages gone, an EJECT offered, and EJECTED raised (R12, R13, R18). -/
def State.ejection (s : State) (f : FeederId) (h : Nat) (reason : EjectReason) : State :=
  let fd := s.fd f
  let r := fd.record h
  State.raise
    (s.setFd f (Feeder.offerUrgent
      { (fd.setRecord h { r with state := .ejected, ejectReason := some reason, owed := none, drain := none }) with
        ordinary := fd.ordinary.filter fun q => decide (q.handle ≠ h) } h (.eject reason))) .ejected
    { feeder := some f, handle := some h, serial := r.serial
      dwelling := r.planLink.map fun i => (s.planAt i).dwelling, reason := some (.eject reason) }

/-- The same ejection for a cause that bars: the serial joins the Bar List once the record is EJECTED (R19). -/
def State.barringEjection (s : State) (f : FeederId) (h : Nat) (reason : EjectReason) : State :=
  match (s.record f h).serial with
  | none => s.ejection f h reason
  | some serial => (s.ejection f h reason).bar serial

/-- `t` is what a choice of the hunt's target leaves of `s`: the lowest handle not below the next handle whose record is
IN_SERVICE or SUSPECT becomes the target, its record HUNT_HELD with a HUSH offered; without one the hunt is STOPPED and
STRAY_UNRESOLVED is raised (R158, R163, R165, R168). -/
def HuntChooses (s : State) (f : FeederId) (t : State) : Prop :=
  let fd := s.fd f
  let candidate := fun k =>
    fd.hunt.nextHandle ≤ k ∧ ((fd.record k).state = .inService ∨ (fd.record k).state = .suspect)
  (∀ k, candidate k → (∀ j, j < k → ¬ candidate j) →
      let r := fd.record k
      let held : Record :=
        { r with
          state := .huntHeld
          heldFrom := some (if r.state = .inService then .inService else .suspect)
          recCd := if r.state = .inService then 0 else r.recCd
          owed := if r.owed = some .resume then none else r.owed }
      t = s.setFd f (Feeder.offerUrgent
        { (fd.setRecord k held) with
          hunt := { fd.hunt with
            target := some k
            phase := some .hushOffered
            nextHandle := k + 1
            hushCycle := none
            watchCd := 0 } } k .hush)) ∧
    ((∀ k, ¬ candidate k) →
      t = State.raise
        (s.setFd f { fd with
          hunt := { fd.hunt with state := .stopped, target := none, phase := none, hushCycle := none, watchCd := 0 } })
        .strayUnresolved { feeder := some f })

/-- `t` is what the decision at a record's entry into HUSHED leaves of `s`, by the recovery policy of the record's profile:
an ejection with reason STRAY that bars, or the recovery countdown loaded (R166). -/
def HushDecides (s : State) (f : FeederId) (h : Nat) (t : State) : Prop :=
  let r := s.record f h
  let policy := s.profiles[r.profile].policy
  let gives := policy = .off ∨ (policy ≠ .endless512 ∧ 3 ≤ r.recAttempts)
  (gives → t = s.barringEjection f h .stray) ∧
    (¬ gives → t = s.setFd f ((s.fd f).setRecord h { r with recCd := if policy = .try3x64 then 64 else 512 }))

/-- `t` is what an entry into PROBING leaves of `s`: below its fourth attempt the record is PROBING with its runs 0, its
walk over and its ordinary messages gone; the fourth attempt ejects it with NO_CONFIRM, which bars (R111). -/
def ProbingEntry (s : State) (f : FeederId) (h : Nat) (t : State) : Prop :=
  let fd := s.fd f
  let r := fd.record h
  (r.eqAttempts < 3 →
      t = s.setFd f
        { (fd.setRecord h { r with
            state := .probing
            eqAttempts := r.eqAttempts + 1
            driftRun := 0
            misplacedRun := 0
            levelRun := 0
            walking := false
            recCd := if r.state = .inService then 0 else r.recCd
            owed := r.owed.filter fun msg => msg.kind.urgent }) with
          ordinary := fd.ordinary.filter fun q => decide (q.handle ≠ h) }) ∧
    (3 ≤ r.eqAttempts →
      t = State.barringEjection (s.setFd f (fd.setRecord h { r with eqAttempts := r.eqAttempts + 1 })) f h .noConfirm)

/-! ## Rows of one feeder -/

/-- The feeder whose event a row is, for the rows that are an event of one feeder. -/
def feederOf : Instr → Option FeederId
  | .quietEnd f => some f
  | .purgeEnd f => some f
  | .drainExpiry f _ => some f
  | .decisionExpiry f _ => some f
  | .recoveryExpiry f _ => some f
  | .reHushWatchEnd f _ => some f
  | .checkCountdownExpiry f _ => some f
  | .dataCountdownExpiry f _ => some f
  | .paceCountdownExpiry f _ => some f
  | .gapCountdownExpiry f => some f
  | .rootCountdownExpiry f => some f
  | .cycleBuild f _ => some f
  | .cleanBurst f _ _ _ _ => some f
  | .garbledBurst f _ _ => some f
  | .unassignedLight f _ _ => some f
  | .checkSpanEnd f _ _ => some f
  | .callInWindowEnd f _ => some f
  | .probeWindowEnd f _ => some f
  | .upstreamCycleEnd f _ => some f
  | _ => none

/-- The row brings a reset about in this state: a power-on reset, a pin reset of a part that has power, or the end of the
PART_RESET reply. -/
def resetsPart (i : Instr) (s : State) : Prop :=
  match i with
  | .powerOnReset => True
  | .pinReset => s.phase ≠ .unpowered
  | .partResetEffect _ => s.phase = .running ∧ s.sendsPartReset = true
  | .trunkFrameBoundary _ => s.phase = .running ∧ s.sendsPartReset = true
  | _ => False

/-! ## Capacities -/

/-- A feeder's lists, queues and maps lie within their capacities (R68, R87, R88, R132, R146, R176). -/
structure Feeder.Bounded (fd : Feeder) : Prop where
  arrivals : fd.arrivals.length ≤ 16
  expired : fd.expired.length ≤ 16
  splitList : fd.splitList.length ≤ 24
  ordinary : fd.ordinary.length ≤ 24
  queue : fd.urgent.length + fd.ordinary.length ≤ 32
  downBuffer : fd.downBuffer.length ≤ 64
  heldMaps : fd.heldMaps.length ≤ 2
  grants : ∀ hd, fd.nextHeader = some hd → hd.grants.length ≤ 64
  messages : ∀ hd, fd.nextHeader = some hd → hd.messages.length ≤ 4

/-- Every collection of the part lies within its capacity (R22, R60, R176, R196 and those of `Feeder.Bounded`). -/
structure State.Bounded (s : State) : Prop where
  feeders : ∀ f, (s.fd f).Bounded
  windows : s.windows.length ≤ 2
  bars : s.bars.length ≤ 32
  upBuffer : s.upBuffer.length ≤ 128
  mgmtBuffer : s.mgmtBuffer.length ≤ 8
  replies : s.replies.length ≤ 16
  notices : s.notices.length ≤ 64

/-! ## The Bar List -/

/-- The Bar List holds no serial twice, each with a countdown of 1 to 65,535, and BAR_HOLD lies in its range (R22, R23). -/
structure State.BarsSound (s : State) : Prop where
  distinct : (s.bars.map (·.serial)).Nodup
  countdown : ∀ b ∈ s.bars, 1 ≤ b.countdown ∧ b.countdown ≤ 65535
  hold : 1024 ≤ s.barHold ∧ s.barHold ≤ 65535

/-! ## The hunt -/

/-- The hunt record agrees with STRAY and with itself (R155): IDLE while STRAY is clear, a target exactly in HUNTING, a
phase exactly with a target, a hush cycle exactly in WATCHING. -/
structure Feeder.HuntSound (fd : Feeder) : Prop where
  idle : fd.hunt.state = .idle ↔ fd.stray = false
  target : fd.hunt.target.isSome = true ↔ fd.hunt.state = .hunting
  phase : fd.hunt.phase.isSome = fd.hunt.target.isSome
  hushCycle : fd.hunt.hushCycle.isSome = true ↔ fd.hunt.phase = some .watching

/-- Both feeders' hunt records are sound. -/
def State.HuntsSound (s : State) : Prop := ∀ f, (s.fd f).HuntSound

/-! ## A CLOSED feeder -/

/-- Everything of the feeder but its settings, its watch settings, its counters and what its line last sent is at its
reset value (R27, R39). -/
def Feeder.Emptied (fd : Feeder) : Prop :=
  fd = { resetFeeder with settings := fd.settings, watch := fd.watch, counters := fd.counters, line := fd.line }

/-- A CLOSED feeder is emptied and has no window record (R39, R60). -/
def State.ClosedSound (s : State) : Prop :=
  ∀ f, (s.fd f).state = .closed → (s.fd f).Emptied ∧ ∀ w ∈ s.windows, w.feeder ≠ f

/-! ## Record ranges -/

/-- The residue a DELAY carries as its companion. -/
def Msg.residue? : Msg → Option Int
  | .delay _ companion => companion
  | _ => none

/-- A residue as R105 leaves it: −4..+3 eighths. -/
abbrev residueFits (i : Int) : Prop := -4 ≤ i ∧ i ≤ 3

/-- The hunt's target is an active record (R155, R164). -/
def Feeder.TargetActive (fd : Feeder) : Prop := ∀ h, fd.hunt.target = some h → (fd.record h).state.active = true

/-- Residue, attempts, runs, counts and the level setting of a record lie in the ranges of R4 to R6; an active record has
made fewer than four equalisation attempts, since the fourth ejects it (R111). -/
structure Record.InRange (r : Record) : Prop where
  residue : residueFits r.residue
  eqAttempts : r.eqAttempts ≤ 4
  activeAttempts : r.state.active = true → r.eqAttempts ≤ 3
  drift : r.driftRun.natAbs ≤ 15
  misplaced : r.misplacedRun ≤ 3
  level : r.levelSetting ≤ 7
  levelRun : r.levelRun ≤ 4
  miss : r.miss ≤ 15
  suspect : r.suspectLeft ≤ 8
  attempts : r.recAttempts ≤ 255
  owed : ∀ m, r.owed = some m → ∀ i, m.residue? = some i → residueFits i

/-- Every record of the feeder is in range, with what that rests on: the residues of its arrivals and of its queued DELAYs,
and an active target. -/
structure Feeder.RecordsInRange (fd : Feeder) : Prop where
  records : ∀ r ∈ fd.table.toList, r.InRange
  arrivals : ∀ a ∈ fd.arrivals, residueFits a.measured.residue
  queued : ∀ q ∈ fd.urgent ++ fd.ordinary, ∀ i, q.msg.residue? = some i → residueFits i
  target : fd.TargetActive

/-- Every record of both tables is in range. -/
def State.RecordsInRange (s : State) : Prop := ∀ f, (s.fd f).RecordsInRange

/-! ## Serials, claims and counts -/

/-- The records of both feeders that are linked to a plan entry. -/
def State.linksTo (s : State) (i : Nat) : Nat :=
  (s.feederA.table.toList ++ s.feederB.table.toList).countP fun r => decide (r.planLink = some i)

/-- A live record holds the serial (R1, R2). -/
def State.holds (s : State) (f : FeederId) (h : Nat) (serial : Serial) : Prop :=
  (s.record f h).state.live = true ∧ (s.record f h).serial = some serial

/-- Serials, arrivals, bars and plan links agree (R2, R22, R75, R87), with what that rests on: a FREE record holds no
serial and no link, and the hunt's target is active. -/
structure State.IdentitiesSound (s : State) : Prop where
  freed : ∀ f h, (s.record f h).state = .free → (s.record f h).serial = none ∧ (s.record f h).planLink = none
  target : ∀ f, (s.fd f).TargetActive
  unique : ∀ f h g k serial, s.holds f h serial → s.holds g k serial → f = g ∧ h = k
  barred : ∀ f h serial, s.isBarred serial = true → s.holds f h serial → (s.record f h).state = .ejected
  distinct : ∀ f, ((s.fd f).arrivals.map (·.serial)).Nodup
  arrivals : ∀ f, ∀ a ∈ (s.fd f).arrivals, s.isBarred a.serial = false ∧ ∀ g h, ¬ s.holds g h a.serial
  linked : ∀ f h i, (s.record f h).planLink = some i →
    i < 512 ∧ (s.planAt i).inUse = true ∧
      ((s.planAt i).kind = .exact → (s.planAt i).claim = some (f, h) ∧ (s.record f h).serial = some (s.planAt i).serial)
  claimed : ∀ i f h, (s.planAt i).claim = some (f, h) →
    (s.planAt i).inUse = true ∧ (s.planAt i).kind = .exact ∧ (s.record f h).planLink = some i
  counted : ∀ i, (s.planAt i).inUse = true → (s.planAt i).kind = .pattern →
    ∃ limit, (s.planAt i).count = some (s.linksTo i) ∧ (s.planAt i).limit = some limit ∧ s.linksTo i ≤ limit

/-! ## Delays -/

/-- The delay a message carries. -/
def Msg.delay? : Msg → Option Nat
  | .name _ eqd => some eqd
  | .delay eqd _ => some eqd
  | _ => none

/-- Every delay a feeder holds, in records, arrivals and messages queued or owed, lies within `z` LU. -/
structure Feeder.DelaysWithin (fd : Feeder) (z : Nat) : Prop where
  records : ∀ r ∈ fd.table.toList, r.eqd ≤ z
  owed : ∀ r ∈ fd.table.toList, ∀ m, r.owed = some m → ∀ d, m.delay? = some d → d ≤ z
  arrivals : ∀ a ∈ fd.arrivals, a.measured.eqd ≤ z
  queued : ∀ q ∈ fd.urgent ++ fd.ordinary, ∀ d, q.msg.delay? = some d → d ≤ z

/-- The delay law with what it rests on: every delay lies within Z − 40 of its feeder's reach class (R106), and a CLOSED
feeder holds nothing (R33, R39). -/
def State.DelaysSound (s : State) : Prop :=
  s.ClosedSound ∧ ∀ f, (s.fd f).DelaysWithin (s.fd f).settings.reach.span

/-! ## Grant maps -/

/-- The law of grant maps (R134): at most 64 grants, none overlapping another or the window with its guard, none ending
with its guard after offset 16,000, at most one of a kind for a handle, and every length a multiple of 4. -/
structure MapLawful (window : Option Window) (guard : Nat) (grants : List Grant) : Prop where
  count : grants.length ≤ 64
  apart : grants.Pairwise fun g k => g.offset + g.length + guard ≤ k.offset
  behindWindow : ∀ w, window = some w → ∀ g ∈ grants, w.spanEnd + guard ≤ g.offset
  ends : ∀ g ∈ grants, g.offset + g.length + guard ≤ 16000
  distinct : (grants.map fun g => (g.kind, g.handle)).Nodup
  whole : ∀ g ∈ grants, g.length % 4 = 0

/-- Every header composed and every map held obeys the law. -/
def State.MapsLawful (s : State) : Prop :=
  ∀ f, (∀ hd, (s.fd f).nextHeader = some hd → MapLawful hd.window hd.guard hd.grants) ∧
    ∀ m ∈ (s.fd f).heldMaps, MapLawful m.window m.guard m.grants

/-! ## Plan contents -/

/-- The contents of a plan entry, as R80 lists them: everything but its claim and its admit count. -/
def PlanEntry.contents (e : PlanEntry) : PlanEntry := { e with claim := none, count := none }

end Sys2Proof.Machine
end

