-- ==== Sys2Proof/Certificates/Slice0/Obligations.lean ====
section
/-! DEFINITION. The statements for the provers. A frame is said by an equation: the state a command leaves is written out
as the state it found with the changed fields replaced, so that every other field, the other feeder and the queue of
commands are the ones that stood. -/

open Sys2Proof Sys2Proof.Machine

/-! ## The block -/

/-- A step takes the command at the front of the queue and runs it on the state with the queue's rest. On an empty queue
the block idles, which is the model's choice (log entry 1). -/
def Obligations.StepTakesFrontCommand : Prop :=
  ∀ (s : State),
    (∀ (c : Instr) (rest : List Instr), s.pending = c :: rest → step s = exec c { s with pending := rest }) ∧
      (s.pending = [] → step s = .next s)

/-- Every command, whatever its operands and the state, ends in a next state, with the queue of commands that wait as it
stood. That the queue is kept by every command, resets and a loss of power included, is the model's choice (log entry 1),
and so is that a row sent at a moment at which its event does not arise completes without an effect (log entry 13). -/
def Obligations.EveryCommandCompletesAndKeepsQueue : Prop :=
  ∀ (i : Instr) (s : State), ∃ t, exec i s = .next t ∧ t.pending = s.pending

/-- A part that is held in a reset or without power does nothing with any command but the three that concern its reset
and the loss of power (R205, R211; the phase is the model's, log entries 3 and 21).
A power-on reset, a pin reset, the release that samples the straps, and a loss of power. The reset state, the queue
kept and what is seen of a frame cut off are the model's (log entries 3, 13 and 21); the watchdog fields at the release
are those of R198. -/
def Obligations.StoppedPartResetsAndPowerLoss : Prop :=
  (∀ (i : Instr) (s : State), s.phase ≠ .running →
      i ≠ .powerOnReset → i ≠ .pinReset → (∀ x, i ≠ .resetRelease x) → i ≠ .powerLoss → exec i s = .next s) ∧
    (∀ (s : State),
      let left : Option TrunkSent :=
        match s.transmitting with
        | some t => some { frame := t, intact := false }
        | none => s.lastSent
      exec .powerOnReset s =
          .next { State.reset with pending := s.pending, phase := .held, pins := s.pins, lastSent := left } ∧
        (s.phase ≠ .unpowered →
          exec .pinReset s =
            .next { State.reset with
              pending := s.pending
              phase := .held
              pins := { s.pins with reset := false }
              lastSent := left }) ∧
        (s.phase = .unpowered → exec .pinReset s = .next s) ∧
        (∀ mode1 mode0, s.phase = .held →
          exec (.resetRelease { mode1 := mode1, mode0 := mode0 }) s =
            .next { s with
              phase := .running
              pins := { reset := true, planGuard := s.pins.planGuard, mode1 := mode1, mode0 := mode0 }
              wdMode := if mode1 then .fromStart else if mode0 then .afterFirst else .off
              wdArmed := mode1
              wdCd := if mode1 then 16384 else 0 }) ∧
        (∀ x, s.phase ≠ .held → exec (.resetRelease x) s = .next s) ∧
        exec .powerLoss s = .next { s with phase := .unpowered, transmitting := none, lastSent := left })

/-! ## Resets and power -/

/-- The values after a reset, table by table. Of each feeder: the Feeder Controller (R27, R32, R47, R48), the records (R1,
R3 to R7), the Arrivals List and what stands beside it (R87, R88), the Call-In Unit (R55), the Cycle Builder (R132), the
Message Queue (R146), the Supervision Unit (R155) and the downstream buffer (R176). Of the shared blocks: the cycle number
(R28), the Delay Meter (R60), the Estate Plan and its protection (R74, R80 to R82), the Profile Store (R83), the Bar List
(R22, R23), the Traffic Gate (R176, R177, R206) and the Management Unit with both straps low (R186, R198): that the straps
are low at the reset state is the model's choice (log entry 3, unsafe), and the watchdog values rest on it. -/
def Obligations.ResetValues : Prop :=
  (∀ (f : FeederId),
      let fd := State.reset.fd f
      (fd.state = .closed ∧ fd.seqCount = none ∧ fd.dark = false ∧ fd.darkRun = 0 ∧ fd.lightRun = 0 ∧ fd.stray = false ∧
          fd.strayRun = 0) ∧
        fd.settings = ⟨.mid, 4, 64, .s32, .f4, .sequential, 4096, 2, 4, 20, 40, 8, 16, 8, 4⟩ ∧
        fd.counters = ⟨0, 0, 0, 0, 0, 0, 0, 0, 0⟩ ∧ fd.latched = ⟨false, false, false, false⟩ ∧
        (∀ h, 1 ≤ h → h ≤ 255 →
          fd.record h =
            { state := .free, serial := none, planLink := none, profile := 0, heldFrom := none
              eqd := 0, residue := 0, eqAttempts := 0, driftRun := 0, misplacedRun := 0
              levelSetting := 0, lastLevel := none, levelRun := 0, walking := false, pace := 0
              settle := none, checkCd := 0, dataCd := 0, grace := 0, miss := 0, suspectLeft := 0
              confirmed := 0x00#8, candidate := none, mainsFailing := false, recAttempts := 0, recCd := 0
              owed := none, ejectReason := none, drain := none, reachEdge := false, levelEdge := false }) ∧
        (fd.arrivals = [] ∧ fd.expired = [] ∧ fd.fullArmed = true) ∧
        (fd.splitList = [] ∧ fd.splitCounter = 0 ∧ fd.rootCd = 0 ∧ fd.gapCd = 0 ∧ fd.lastProbed = 0) ∧
        (fd.nextHeader = none ∧ fd.heldMaps = [] ∧ fd.rotation = 1 ∧ ∀ h, 1 ≤ h → h ≤ 255 → fd.wait h = 0) ∧
        (fd.urgent = [] ∧ fd.ordinary = []) ∧
        fd.hunt = ⟨.idle, none, none, 1, none, 0, 0⟩ ∧ fd.watch = ⟨.event, 0x00#8, 0x00#8⟩ ∧ fd.downBuffer = []) ∧
    (let s := State.reset
    s.cycle = 0 ∧ s.timingRuns = false ∧
      (s.lastServed = .B ∧ s.award = none ∧ s.windows = []) ∧
      (∀ i, i < 512 → s.planAt i = ⟨false, .exact, 0, none, 0, .any, 0, false, false, false, none, none, none⟩) ∧
      (s.freeze = .none ∧ s.freezeLock = false ∧ s.guardEnable = false) ∧
      (∀ i : Fin 8, s.profiles[i] = ⟨0, 1, 256, 3, 2, .off, false⟩) ∧ s.allLock = false ∧
      (s.bars = [] ∧ s.barHold = 16384) ∧
      (s.upBuffer = [] ∧ s.mgmtBuffer = [] ∧ s.replies = [] ∧ s.badTags = 0 ∧ s.mgmtDropped = 0) ∧
      (s.tagType = 0xA7C4#16 ∧ s.transmitting = none ∧ s.lastManager = none ∧ s.lastReplySource = none) ∧
      (s.receipt = 0 ∧ s.holdover = false ∧ s.wdMode = .off ∧ s.wdPeriod = 4096 ∧ s.wdArmed = false ∧ s.wdCd = 0) ∧
      (∀ k : NoticeKind, s.noticeMask.getLsbD k.code = true) ∧
      (s.notices = [] ∧ s.noticeOverrun = false ∧ s.holdoverEntered = false ∧ s.resetPending = false))

/-- The part reset takes effect when the last bit of the PART_RESET reply is sent: at its own event, or at the frame
boundary that ends the reply (R204; log entry 23). Its straps are sampled again (R198). That the queue of commands survives
it (log entry 1) and that the frame last sent, which survives it too, is the whole reply (log entry 21) are the model's. -/
def Obligations.PartResetAfterItsReply : Prop :=
  ∀ (s : State) (mode1 mode0 : Bool) (r : Reply), s.phase = .running → s.transmitting = some (.reply r) →
    r.code = 0x02#8 →
    let t : State := { State.reset with
      pending := s.pending
      pins := { s.pins with mode1 := mode1, mode0 := mode0 }
      lastSent := some { frame := .reply r, intact := true }
      wdMode := if mode1 then .fromStart else if mode0 then .afterFirst else .off
      wdArmed := mode1
      wdCd := if mode1 then 16384 else 0 }
    exec (.partResetEffect { mode1 := mode1, mode0 := mode0 }) s = .next t ∧
      exec (.trunkFrameBoundary { mode1 := mode1, mode0 := mode0 }) s = .next t

/-! ## The trunk -/

/-- The sort of a trunk frame by its estate tag (R177), and the admission of a feeder's frame (R178). The frame check of
the frame that joins the downstream buffer is computed again without the tag, which is the model's choice (log entry 9), and
so is that the length compared with 16 is the whole frame's, check included, while a feeder's frame needs 16 bytes before
its check (log entry 41, DESIGN CHOICE, unsafe). -/
def Obligations.TrunkFrameSort : Prop :=
  ∀ (s : State) (frame : Bytes), s.phase = .running →
    (frame.length < 16 ∨ frameTagType frame ≠ s.tagType ∨ frameTarget frame = 3 →
        exec (.trunkFrameArrival frame) s =
          .next { s with badTags := if s.badTags < 65535 then s.badTags + 1 else s.badTags }) ∧
      (16 ≤ frame.length → frameTagType frame = s.tagType → frameTarget frame = 0 →
        exec (.trunkFrameArrival frame) s =
          .next (if s.mgmtBuffer.length < 8 then { s with mgmtBuffer := s.mgmtBuffer ++ [frame] }
            else { s with mgmtDropped := if s.mgmtDropped < 65535 then s.mgmtDropped + 1 else s.mgmtDropped })) ∧
      ∀ (f : FeederId), 16 ≤ frame.length → frameTagType frame = s.tagType →
        frameTarget frame = (match f with | .A => 1 | .B => 2) →
        let fd := s.fd f
        let h := frameHandle frame
        let taken := checkGood 16 frame = true ∧ (fd.state = .opened ∨ fd.state = .paused) ∧
          (h = 0 ∨ (fd.record h).state = .inService ∨ (fd.record h).state = .suspect) ∧ fd.downBuffer.length < 64
        (taken →
            exec (.trunkFrameArrival frame) s =
              .next (s.setFd f { fd with
                downBuffer := fd.downBuffer ++ [{ handle := h, frame := removeTag frame }] })) ∧
          (¬ taken →
            exec (.trunkFrameArrival frame) s =
              .next (s.setFd f { fd with
                counters := { fd.counters with
                  downstreamRefused := satAdd16 fd.counters.downstreamRefused 1 } }))

/-- The arbiter at a frame boundary that does not end the PART_RESET reply: a reply first, then a notice, then an
upstream frame, and else the transmitter is idle (R183). The addresses of a notice are those of R206. The frame last
sent is the model's own field (log entry 21), the source that a later notice takes is written as a reply's transmission
begins (log entry 34), and the boundary is a row that the sender sends, for an idle transmitter too (log entry 39). -/
def Obligations.TransmitterArbitration : Prop :=
  ∀ (s : State) (x : Straps), s.phase = .running →
    (∀ r, s.transmitting = some (.reply r) → r.code ≠ 0x02#8) →
    let left : Option TrunkSent :=
      match s.transmitting with
      | some t => some { frame := t, intact := true }
      | none => s.lastSent
    exec (.trunkFrameBoundary x) s =
      .next (match s.replies, s.notices, s.upBuffer with
        | r :: replies, _, _ =>
          { s with
            lastSent := left
            transmitting := some (.reply r)
            replies := replies
            lastReplySource := some r.source }
        | [], n :: notices, _ =>
          { s with
            lastSent := left
            transmitting := some (.notice (s.lastManager.getD 0xFFFFFFFFFFFF#48) (s.lastReplySource.getD 0#48) n)
            notices := notices }
        | [], [], u :: frames => { s with lastSent := left, transmitting := some (.data u), upBuffer := frames }
        | [], [], [] => { s with lastSent := left, transmitting := none })

/-! ## Taking a management frame -/

/-- What the taking of every valid frame does before its command: PLAN_GUARD sampled (R211), the manager's address kept
(R206), the receipt count incremented from 15 to 0 (R188), and the watchdog restarted (R199). -/
def Obligations.ValidFrameOpensTaking : Prop :=
  ∀ (s : State) (t : Taking),
    s.opened t =
      { s with
        pins := { s.pins with planGuard := t.guardPin }
        lastManager := some t.source
        receipt := (s.receipt + 1) % 16
        wdArmed := s.wdArmed || (!s.holdover && decide (s.wdMode = .afterFirst))
        wdCd := if s.holdover = true ∨ s.wdMode = .off then s.wdCd else s.wdPeriod }

/-- The arguments of a command read back from the bytes that carry them, with any bytes behind the last argument left
unread; a frame too short to hold every argument reads as no command (R189 step 3; the encodings of section 11.2). -/
def Obligations.ArgumentsReadBack : Prop :=
  ∀ (c : Command), c.wellFormed = true →
    assignedCode (commandCode c) = true ∧
      (∀ extra, readCommand (commandCode c) (argBytes c ++ extra) = some c) ∧
      ∀ k, k < (argBytes c).length → readCommand (commandCode c) ((argBytes c).take k) = none

/-- A management frame that carries a command, at the head of the receive buffer: its taking is the command's row on the
state with the frame removed. The taking reads the reference, the addresses, the code and the arguments from the frame's
bytes, past a good frame check (R187; sections 11.1 and 11.2; the places of the check bytes are PRESUMED, log entry 8).
That a frame is taken by MANAGEMENT_FRAME_TAKE or by the row of its command is the model's reading (log entry 6). -/
def Obligations.FrameTakingRunsItsCommand : Prop :=
  ∀ (s : State) (t : Taking) (tagType : BitVec 16) (c : Command) (extra : Bytes) (rest : List Bytes),
    s.mayTake → c.wellFormed = true → s.mgmtBuffer = commandFrame t tagType c extra :: rest →
    exec (.managementFrameTake t.guardPin) s = exec (rowOf t c) { s with mgmtBuffer := rest }

/-- The takings that run no command: the buffer empty, the reply list full or a reset pending (R182, R204), an invalid
frame (R187), an unassigned code, a command refused in holdover, and a frame without all its arguments (R189) or with an
unassigned presence byte (R207), whose refusal the model places ahead of a command's own checks by its choice (log entry 37,
DESIGN CHOICE, unsafe). That a taking with nothing to take has no effect is the model's choice too (log entry 13), and so is
that a frame of 16 to 19 bytes has no good check (log entry 41, unsafe). -/
def Obligations.FrameTakingWithoutCommand : Prop :=
  ∀ (s : State) (guardPin : Bool), s.phase = .running →
    (s.mgmtBuffer = [] ∨ 16 ≤ s.replies.length ∨ s.resetPending = true →
        exec (.managementFrameTake guardPin) s = .next s) ∧
      ∀ (frame : Bytes) (rest : List Bytes), s.mayTake → s.mgmtBuffer = frame :: rest →
        let u : State := { s with mgmtBuffer := rest }
        let t : Taking :=
          { guardPin := guardPin
            reference := BitVec.ofNat 16 (beNat ((frame.drop 16).take 2))
            destination := BitVec.ofNat 48 (beNat (frame.take 6))
            source := BitVec.ofNat 48 (beNat ((frame.drop 6).take 6)) }
        let code := frame.getD 18 0#8
        let answer := fun reason : Reason =>
          exec (.managementFrameTake guardPin) s = .next (u.answered (u.opened t) t code (.refused reason))
        (checkGood 16 frame = false ∨ frame.length < 23 → exec (.managementFrameTake guardPin) s = .next u) ∧
          (checkGood 16 frame = true → 23 ≤ frame.length →
            (assignedCode code = false → answer .unknown) ∧
              (assignedCode code = true → s.holdover = true → servedInHoldover code = false → answer .holdover) ∧
              (assignedCode code = true → s.holdover = false ∨ servedInHoldover code = true →
                readCommand code ((frame.take (frame.length - 4)).drop 19) = none → answer .badArg))

/-- Every command row that may be taken is answered with exactly one reply, the youngest of the reply list, which
carries the frame's reference, the command code and the receipt count after its increment (R188); no command touches
the management receive buffer, the upstream buffer, the frame in transmission or the tag type. A row that may not be
taken waits, without an effect (log entry 6). The reply's destination and source are those of its own frame, fixed as it is
composed, which is the model's reading of R206 (log entry 34, unsafe). -/
def Obligations.EveryCommandIsAnsweredOnce : Prop :=
  ∀ (s : State) (t : Taking) (c : Command), s.phase = .running →
    (s.mayTake → ∃ u result,
      exec (rowOf t c) s = .next u ∧
        u.replies = s.replies ++
          [{ destination := t.source, source := t.destination, reference := t.reference, code := commandCode c
             receipt := (s.receipt + 1) % 16, result := result }] ∧
        u.receipt = (s.receipt + 1) % 16 ∧ u.mgmtBuffer = s.mgmtBuffer ∧ u.upBuffer = s.upBuffer ∧
        u.transmitting = s.transmitting ∧ u.tagType = s.tagType) ∧
      (16 ≤ s.replies.length ∨ s.resetPending = true → exec (rowOf t c) s = .next s)

/-- A refused command changes nothing: what a refused command leaves is the state its taking opened, with the reply
(R189). -/
def Obligations.RefusedCommandsChangeNothing : Prop :=
  ∀ (s u : State) (t : Taking) (c : Command) (r : Reply) (reason : Reason), s.mayTake →
    exec (rowOf t c) s = .next u → u.replies = s.replies ++ [r] → r.result = .refused reason →
    u = s.answered (s.opened t) t (commandCode c) (.refused reason)

/-- In holdover the commands that the table of section 10.3 marks as refused are refused with HOLDOVER, before any other
check (R189, R201).
The guard refuses nine commands with GUARDED, before their other checks (R76, R78, R80 to R82, R85, R86). That GUARD_SET
with an unassigned value byte is answered so too, before its BAD_ARG, is the model's choice (log entry 37, DESIGN CHOICE,
unsafe): R207 gives that refusal no place beside R82's checks. -/
def Obligations.HoldoverAndGuardRefuse : Prop :=
  ((∀ code : Byte, servedInHoldover code = true ↔
        code ∈ ([0x01#8, 0x02#8, 0x03#8, 0x04#8, 0x05#8, 0x15#8, 0x21#8, 0x31#8, 0x40#8, 0x50#8, 0x51#8, 0x60#8] : Bytes)) ∧
      ∀ (s : State) (t : Taking) (c : Command), s.mayTake → s.holdover = true →
        servedInHoldover (commandCode c) = false →
        exec (rowOf t c) s = .next (s.answered (s.opened t) t (commandCode c) (.refused .holdover))) ∧
    (∀ (s : State) (t : Taking) (c : Command), s.mayWrite → s.guardActs t →
      commandCode c ∈ ([0x20#8, 0x22#8, 0x23#8, 0x24#8, 0x25#8, 0x30#8, 0x32#8, 0x33#8, 0x34#8] : Bytes) →
      exec (rowOf t c) s = .next (s.answered (s.opened t) t (commandCode c) (.refused .guarded)))

/-! ## Device commands -/

/-- The six commands that only read: each replies DONE with its report and changes nothing else; a feeder, handle, profile
or index outside its range is refused with BAD_ARG (R8, R79, R85, R89, R190, R192, R194). The two numbers of manufacture
that IDENTIFY reports are free values (log entry 2), and where a report's layout is the model's its log entry is 10.
TERMINAL_FIND reports the one live record that holds the serial, with its feeder and handle, and is refused with
NOT_FOUND when no live record holds it (R192). -/
def Obligations.ReadCommandsReport : Prop :=
  (∀ (s : State) (t : Taking), s.mayTake →
      let o := s.opened t
      let report := fun (i : Instr) (code : Byte) (results : Bytes) => exec i s = .next (s.answered o t code (.done results))
      let bad := fun (i : Instr) (code : Byte) => exec i s = .next (s.answered o t code (.refused .badArg))
      report (.identify t) 0x01#8
          (beBytes 2 Config.vendorCode.toNat ++ [0x08#8, 0xD0#8, Config.designStep] ++ beBytes 2 s.tagType.toNat ++
            [2#8, 255#8, 0x02#8, 0x00#8, 8#8, 32#8, 16#8, 32#8]) ∧
        (∀ index : Word16,
          (index.toNat < 512 → (s.planAt index.toNat).inUse = true →
            report (.planRead t index) 0x21#8 (s.planAt index.toNat).report) ∧
          (index.toNat < 512 → (s.planAt index.toNat).inUse = false → report (.planRead t index) 0x21#8 [0x00#8]) ∧
          (512 ≤ index.toNat → bad (.planRead t index) 0x21#8)) ∧
        (∀ index : Byte,
          (∀ h : index.toNat < 8,
            report (.profileRead t index) 0x31#8 (s.profiles[index.toNat].report s.allLock)) ∧
          (8 ≤ index.toNat → bad (.profileRead t index) 0x31#8)) ∧
        (∀ feeder : Byte,
          (∀ f, feederArg feeder = some f →
            report (.arrivalsRead t feeder) 0x40#8
              (beBytes 1 (s.fd f).arrivals.length ++ ((s.fd f).arrivals.map Arrival.report).flatten) ∧
            ∀ handle : Byte,
              (handle.toNat ≠ 0 → (s.record f handle.toNat).state = .free →
                report (.terminalRead t feeder handle) 0x50#8 [handle, 0x00#8]) ∧
              (handle.toNat ≠ 0 →
                report (.terminalRead t feeder handle) 0x50#8
                  (recordReport handle.toNat (s.record f handle.toNat))) ∧
              (handle.toNat = 0 → bad (.terminalRead t feeder handle) 0x50#8)) ∧
          (feederArg feeder = none → bad (.arrivalsRead t feeder) 0x40#8 ∧
            ∀ handle, bad (.terminalRead t feeder handle) 0x50#8)) ∧
        report (.barRead t) 0x60#8
          (beBytes 2 s.barHold ++ beBytes 1 s.bars.length ++
            (s.bars.map fun b => beBytes 8 b.serial.toNat ++ beBytes 2 b.countdown).flatten)) ∧
    (∀ (s : State) (t : Taking) (serial : Serial), s.mayTake →
      let holds := fun (f : FeederId) (h : Nat) =>
        1 ≤ h ∧ h ≤ 255 ∧ (s.record f h).state ≠ .free ∧ (s.record f h).serial = some serial
      (∀ f h, holds f h → (∀ g k, holds g k → g = f ∧ k = h) →
          exec (.terminalFind t serial) s =
            .next (s.answered (s.opened t) t 0x51#8
              (.done ((match f with | .A => 0x00#8 | .B => 0x01#8) :: recordReport h (s.record f h))))) ∧
        ((∀ f h, ¬ holds f h) →
          exec (.terminalFind t serial) s = .next (s.answered (s.opened t) t 0x51#8 (.refused .notFound))))

/-- STATUS_READ and FEEDER_STATUS report the state as it stands when the command is taken, STATUS_READ with the receipt
count and the sampled PLAN_GUARD of its own frame, and with the clear option set what they read and clear to 0 (R49,
R191). An unassigned clear byte, and a feeder byte other than A or B, is refused with BAD_ARG (R189, R207). -/
def Obligations.StatusReadsAndClears : Prop :=
  ∀ (s : State) (t : Taking), s.mayTake →
    let o := s.opened t
    exec (.statusRead t 0x00#8) s = .next (s.answered o t 0x03#8 (.done o.statusReport)) ∧
      exec (.statusRead t 0x01#8) s =
        .next (s.answered
          { o with badTags := 0, mgmtDropped := 0, noticeOverrun := false, holdoverEntered := false } t 0x03#8
          (.done o.statusReport)) ∧
      (∀ clear : Byte, 2 ≤ clear.toNat →
        exec (.statusRead t clear) s = .next (s.answered o t 0x03#8 (.refused .badArg))) ∧
      (∀ (feeder : Byte) (f : FeederId), feederArg feeder = some f →
        exec (.feederStatus t feeder 0x00#8) s = .next (s.answered o t 0x15#8 (.done (s.fd f).report)) ∧
          exec (.feederStatus t feeder 0x01#8) s =
            .next (s.answered
              (o.setFd f { s.fd f with
                counters := ⟨0, 0, 0, 0, 0, 0, 0, 0, 0⟩
                latched := ⟨false, false, false, false⟩ }) t 0x15#8
              (.done (s.fd f).report))) ∧
      ∀ feeder clear : Byte, 2 ≤ feeder.toNat ∨ 2 ≤ clear.toNat →
        exec (.feederStatus t feeder clear) s = .next (s.answered o t 0x15#8 (.refused .badArg))

/-- WATCHDOG_SET writes the mode and T, which must be among their values, and the watchdog takes the new mode at once;
holdover does not refuse it and stays as it is, and no period counts until it ends (R200). That the command loads the
countdown in holdover too is the model's reading of R199 and R200 (log entry 38, unsafe).
HOLDOVER_EXIT clears holdover and restarts the watchdog in a mode other than OFF; outside holdover it changes nothing
beyond what every valid frame does. No notice is raised, and HOLDOVER_ENTERED stays as it is (R202). NOTICE_MASK_SET
replaces the mask, refused when a bit above the twenty kinds is set (R197, R208). PART_RESET leaves its reply and a
pending reset, in holdover too (R204). -/
def Obligations.WatchdogSetAndHoldoverExit : Prop :=
  (∀ (s : State) (t : Taking) (mode : Byte) (period : Word16), s.mayTake →
      let o := s.opened t
      (∀ m, (mode = 0x00#8 ∧ m = WatchdogMode.off) ∨ (mode = 0x01#8 ∧ m = .afterFirst) ∨ (mode = 0x02#8 ∧ m = .fromStart) →
          period.toNat ∈ [2048, 4096, 8192, 16384] →
          exec (.watchdogSet t mode period) s =
            .next (s.answered
              { o with
                wdMode := m
                wdPeriod := period.toNat
                wdArmed := decide (m ≠ .off)
                wdCd := if m = .off then 0 else period.toNat } t 0x04#8 (.done [])) ∧
            (s.holdover = true → ∀ u, exec (.watchdogSet t mode period) s = .next u → exec .watchdogPeriodEnd u = .next u)) ∧
        (3 ≤ mode.toNat ∨ period.toNat ∉ [2048, 4096, 8192, 16384] →
          exec (.watchdogSet t mode period) s = .next (s.answered o t 0x04#8 (.refused .badArg)))) ∧
    (∀ (s : State) (t : Taking), s.mayTake →
      let o := s.opened t
      (s.holdover = true → s.wdMode ≠ .off →
          exec (.holdoverExit t) s =
            .next (s.answered { o with holdover := false, wdArmed := true, wdCd := s.wdPeriod } t 0x05#8 (.done []))) ∧
        (s.holdover = true → s.wdMode = .off →
          exec (.holdoverExit t) s = .next (s.answered { o with holdover := false } t 0x05#8 (.done []))) ∧
        (s.holdover = false → exec (.holdoverExit t) s = .next (s.answered o t 0x05#8 (.done []))) ∧
        (∀ mask : Word32, s.holdover = false → mask.toNat < 2 ^ 20 →
          exec (.noticeMaskSet t mask) s = .next (s.answered { o with noticeMask := mask } t 0x06#8 (.done []))) ∧
        (∀ mask : Word32, s.holdover = false → 2 ^ 20 ≤ mask.toNat →
          exec (.noticeMaskSet t mask) s = .next (s.answered o t 0x06#8 (.refused .badArg))) ∧
        exec (.partReset t) s = .next (s.answered { o with resetPending := true } t 0x02#8 (.done [])))

/-! ## Feeder commands -/

/-- FEEDER_SET of the nine numeric settings of one value: clamped to the range of R32, written, and answered DONE_CLAMPED
when the value lay outside it (R34).
FEEDER_SET of the enumerated settings and of LEVEL_WINDOW: REACH on a CLOSED feeder, SPREAD and FAN by their own
numbers, POLL_ORDER, and the pair of the level window, each value clamped first (R32, R34). -/
def Obligations.FeederSetWritesSettings : Prop :=
  (∀ (v high : Word16),
      let n := v.toNat
      let clamp := fun lo hi : Nat => max lo (min hi n)
      let out := fun lo hi : Nat => decide (n < lo ∨ hi < n)
      FeederSetWrites 0x01#8 v high (fun x => { x with callInGap := clamp 1 15 }) (out 1 15) ∧
        FeederSetWrites 0x02#8 v high (fun x => { x with rootInterval := clamp 16 4096 }) (out 16 4096) ∧
        FeederSetWrites 0x06#8 v high (fun x => { x with decisionCycles := clamp 256 65535 }) (out 256 65535) ∧
        FeederSetWrites 0x07#8 v high (fun x => { x with driftTrip := clamp 1 15 }) (out 1 15) ∧
        FeederSetWrites 0x08#8 v high (fun x => { x with driftRun := clamp 1 15 }) (out 1 15) ∧
        FeederSetWrites 0x0A#8 v high (fun x => { x with levelPace := clamp 2 64 }) (out 2 64) ∧
        FeederSetWrites 0x0B#8 v high (fun x => { x with guard := clamp 4 64 }) (out 4 64) ∧
        FeederSetWrites 0x0C#8 v high (fun x => { x with darkDebounce := clamp 4 64 }) (out 4 64) ∧
        FeederSetWrites 0x0D#8 v high (fun x => { x with strayRun := clamp 2 16 }) (out 2 16)) ∧
    (∀ (high : Word16),
      (FeederSetWrites 0x00#8 0#16 high (fun x => { x with reach := .near }) false ∧
          FeederSetWrites 0x00#8 1#16 high (fun x => { x with reach := .mid }) false ∧
          FeederSetWrites 0x00#8 2#16 high (fun x => { x with reach := .far }) false ∧
          FeederSetWrites 0x00#8 3#16 high (fun x => { x with reach := .extended }) false) ∧
        (FeederSetWrites 0x03#8 8#16 high (fun x => { x with spread := .s8 }) false ∧
          FeederSetWrites 0x03#8 16#16 high (fun x => { x with spread := .s16 }) false ∧
          FeederSetWrites 0x03#8 32#16 high (fun x => { x with spread := .s32 }) false ∧
          FeederSetWrites 0x03#8 64#16 high (fun x => { x with spread := .s64 }) false) ∧
        (FeederSetWrites 0x04#8 2#16 high (fun x => { x with fan := .f2 }) false ∧
          FeederSetWrites 0x04#8 4#16 high (fun x => { x with fan := .f4 }) false ∧
          FeederSetWrites 0x04#8 8#16 high (fun x => { x with fan := .f8 }) false) ∧
        (FeederSetWrites 0x05#8 0#16 high (fun x => { x with pollOrder := .sequential }) false ∧
          FeederSetWrites 0x05#8 1#16 high (fun x => { x with pollOrder := .interleaved }) false) ∧
        ∀ low : Word16, min 63 low.toNat ≤ min 63 high.toNat →
          FeederSetWrites 0x09#8 low high
            (fun x => { x with levelLow := min 63 low.toNat, levelHigh := min 63 high.toNat })
            (decide (63 < low.toNat ∨ 63 < high.toNat)))

/-- The refusals of FEEDER_SET in the order of R34: BAD_ARG for a feeder, a setting or an enumerated value that is not
assigned, then BUSY in the open sequence, then WRONG_STATE for a REACH write to a feeder that is open, then BAD_ARG for a
level window whose low value stands above its high value.
FEEDER_OPEN, FEEDER_CLOSE, FEEDER_PAUSE, FEEDER_RESUME and STRAY_CLEAR, which name a feeder only, and WATCH_SET, ADMIT,
REFUSE, TERMINAL_EJECT and TERMINAL_RELEVEL, which name one among their arguments, refuse a feeder identifier other than A
or B with BAD_ARG, whatever else they carry (section 10.3). -/
def Obligations.FeederCommandRefusals : Prop :=
  (∀ (s : State) (t : Taking) (feeder setting : Byte) (v high : Word16), s.mayWrite →
      let answer := fun r : Reason =>
        exec (.feederSet t feeder setting v high) s = .next (s.answered (s.opened t) t 0x10#8 (.refused r))
      let badValue := (setting = 0x00#8 ∧ 4 ≤ v.toNat) ∨ (setting = 0x03#8 ∧ v.toNat ∉ [8, 16, 32, 64]) ∨
        (setting = 0x04#8 ∧ v.toNat ∉ [2, 4, 8]) ∨ (setting = 0x05#8 ∧ 2 ≤ v.toNat)
      (2 ≤ feeder.toNat ∨ 0x0E ≤ setting.toNat ∨ badValue → answer .badArg) ∧
        ∀ f, feederArg feeder = some f → setting.toNat < 0x0E → ¬ badValue →
          let st := (s.fd f).state
          (st = .quieting ∨ st = .purging → answer .busy) ∧
            (setting = 0x00#8 → st = .opened ∨ st = .paused → answer .wrongState) ∧
            (setting = 0x09#8 → min 63 high.toNat < min 63 v.toNat → st ≠ .quieting → st ≠ .purging → answer .badArg)) ∧
    (∀ (s : State) (t : Taking) (feeder : Byte), s.mayWrite → 2 ≤ feeder.toNat →
      let bad := fun (i : Instr) (code : Byte) =>
        exec i s = .next (s.answered (s.opened t) t code (.refused .badArg))
      bad (.feederOpen t feeder) 0x11#8 ∧ bad (.feederClose t feeder) 0x12#8 ∧ bad (.feederPause t feeder) 0x13#8 ∧
        bad (.feederResume t feeder) 0x14#8 ∧ bad (.strayClear t feeder) 0x17#8 ∧
        (∀ mode mask compare, bad (.watchSet t feeder mode mask compare) 0x16#8) ∧
        (∀ serial profile, bad (.admitArrival t feeder serial profile) 0x41#8) ∧
        (∀ serial bar, bad (.refuse t feeder serial bar) 0x42#8) ∧
        (∀ handle bar, bad (.terminalEject t feeder handle bar) 0x52#8) ∧
        ∀ handle, bad (.terminalRelevel t feeder handle) 0x53#8)

/-- FEEDER_OPEN of a CLOSED feeder, which starts the shared timing again when the other feeder is CLOSED too, and its
refusals (R28, R36; the table of section 2.4). That an award of the timing that stood still is dropped as it starts again is
the model's (log entry 36).
FEEDER_PAUSE of an OPEN feeder and FEEDER_RESUME of a PAUSED one move the feeder state and nothing else, so that no
countdown is reloaded; in any other state each is refused with WRONG_STATE (R41, R42; the table of section 2.4). -/
def Obligations.FeederOpenPauseResume : Prop :=
  (∀ (s : State) (t : Taking) (feeder : Byte) (f : FeederId), s.mayWrite → feederArg feeder = some f →
      let o := s.opened t
      let quieting := fun u : State => u.setFd f { s.fd f with state := .quieting, seqCount := some 64 }
      ((s.fd f).state = .closed → (s.fd f.other).state ≠ .closed →
          exec (.feederOpen t feeder) s = .next (s.answered (quieting o) t 0x11#8 (.done []))) ∧
        ((s.fd f).state = .closed → (s.fd f.other).state = .closed →
          exec (.feederOpen t feeder) s =
            .next (s.answered (quieting { o with cycle := s.cycle + 1, award := none }) t 0x11#8 (.done []))) ∧
        ((s.fd f).state = .quieting ∨ (s.fd f).state = .purging →
          exec (.feederOpen t feeder) s = .next (s.answered o t 0x11#8 (.refused .busy))) ∧
        ((s.fd f).state = .opened ∨ (s.fd f).state = .paused →
          exec (.feederOpen t feeder) s = .next (s.answered o t 0x11#8 (.refused .wrongState)))) ∧
    (∀ (s : State) (t : Taking) (feeder : Byte) (f : FeederId), s.mayWrite → feederArg feeder = some f →
      let o := s.opened t
      ((s.fd f).state = .opened →
          exec (.feederPause t feeder) s =
            .next (s.answered (o.setFd f { s.fd f with state := .paused }) t 0x13#8 (.done []))) ∧
        ((s.fd f).state ≠ .opened →
          exec (.feederPause t feeder) s = .next (s.answered o t 0x13#8 (.refused .wrongState))) ∧
        ((s.fd f).state = .paused →
          exec (.feederResume t feeder) s =
            .next (s.answered (o.setFd f { s.fd f with state := .opened }) t 0x14#8 (.done []))) ∧
        ((s.fd f).state ≠ .paused →
          exec (.feederResume t feeder) s = .next (s.answered o t 0x14#8 (.refused .wrongState))))

/-- FEEDER_CLOSE: every piece of the feeder but its settings and watch settings takes its reset value, the links of its
records are released in the plan, its window records and an award made to it go, and nothing else changes; a CLOSED
feeder is left as it is (R21, R39, R40, R60). What the feeder's line last sent is the model's own record (log entry 21). -/
def Obligations.FeederCloseEmptiesFeeder : Prop :=
  ∀ (s : State) (t : Taking) (feeder : Byte) (f : FeederId), s.mayWrite → feederArg feeder = some f →
    let o := s.opened t
    ((s.fd f).state = .closed → exec (.feederClose t feeder) s = .next (s.answered o t 0x12#8 (.done []))) ∧
      ((s.fd f).state ≠ .closed → ∃ plan : Vector PlanEntry 512,
        exec (.feederClose t feeder) s =
            .next (s.answered
              (State.setFd
                { o with
                  plan := plan
                  windows := s.windows.filter fun w => decide (w.feeder ≠ f)
                  award := s.award.map fun a => if a.winner = some f then { a with winner := none } else a } f
                { (State.reset.fd f) with
                  settings := (s.fd f).settings
                  watch := (s.fd f).watch
                  line := (s.fd f).line }) t 0x12#8 (.done [])) ∧
          ∀ (i : Nat) (hi : i < 512),
            let e := s.planAt i
            let links := (s.fd f).table.toList.countP fun r => decide (r.planLink = some i)
            plan[i] =
              match e.kind with
              | .exact => if links = 0 then e else { e with claim := none }
              | .pattern => { e with count := e.count.map fun n => n - links })

/-- WATCH_SET writes its three values in every feeder state (R173). STRAY_CLEAR clears STRAY and the stray run, releases a
target that is held and returns the hunt record to its reset values, without a notice; it changes nothing while STRAY is
clear (R46, R163, R165). -/
def Obligations.WatchSetAndStrayClear : Prop :=
  ∀ (s : State) (t : Taking) (feeder : Byte) (f : FeederId), s.mayWrite → feederArg feeder = some f →
    let o := s.opened t
    (∀ mode mask compare : Byte,
        (mode = 0x00#8 →
          exec (.watchSet t feeder mode mask compare) s =
            .next (s.answered (o.setFd f { s.fd f with watch := ⟨.event, mask, compare⟩ }) t 0x16#8 (.done []))) ∧
        (mode = 0x01#8 →
          exec (.watchSet t feeder mode mask compare) s =
            .next (s.answered (o.setFd f { s.fd f with watch := ⟨.matching, mask, compare⟩ }) t 0x16#8 (.done []))) ∧
        (2 ≤ mode.toNat →
          exec (.watchSet t feeder mode mask compare) s =
            .next (s.answered o t 0x16#8 (.refused .badArg)))) ∧
      ((s.fd f).stray = false → exec (.strayClear t feeder) s = .next (s.answered o t 0x17#8 (.done []))) ∧
      ((s.fd f).stray = true →
        let fd := s.fd f
        let released : Feeder :=
          match fd.hunt.target, fd.hunt.phase with
          | none, _ => fd
          | some _, some .releasing => fd
          | some h, _ => (fd.modRecord h fun r => r.clearOwed .hush).offerUrgent h .resume
        exec (.strayClear t feeder) s =
          .next (s.answered
            (o.setFd f { released with
              stray := false
              strayRun := 0
              hunt := ⟨.idle, none, none, 1, none, 0, 0⟩ }) t 0x17#8 (.done [])))

/-! ## The plan and the profiles -/

/-- PLAN_WRITE past its checks: the entry takes the written contents, a PATTERN entry its clamped limit and its count, an
EXACT entry its claim, as R77 says, and nothing else changes (R76, R77).
PLAN_ERASE past its checks returns the entry to the values of an entry not in use (R78). -/
def Obligations.PlanWriteAndErase : Prop :=
  (∀ (s : State) (t : Taking) (a : PlanArgs) (kind : PlanKind) (expected : Expected) (profile : Fin 8),
      s.mayWrite → ¬ s.guardActs t → a.index.toNat < 512 → planKindArg a.kind = some kind →
      expectedArg a.expected = some expected → a.profile.toNat = profile.val →
      (kind = .exact → a.flags.getLsbD 1 = false) → s.freeze.holds a.index.toNat = false →
      let i := a.index.toNat
      let old := s.planAt i
      let limit := max 1 (min 255 a.limit.toNat)
      let new : PlanEntry :=
        { inUse := true
          kind := kind
          serial := a.serial
          mask := if kind = .pattern then some a.mask else none
          dwelling := a.dwelling
          expected := expected
          profile := profile
          preAuth := a.flags.getLsbD 0
          auto := a.flags.getLsbD 1
          hold := a.flags.getLsbD 2
          limit := if kind = .pattern then some limit else none
          count := if kind = .pattern then (if old.inUse = true ∧ old.kind = .pattern then old.count else some 0) else none
          claim := if kind = .exact ∧ old.inUse = true ∧ old.kind = .exact then old.claim else none }
      (old.inUse = true → (old.kind = .exact ∧ old.claim ≠ none) ∨ (old.kind = .pattern ∧ 0 < old.count.getD 0) →
        new.kind = old.kind ∧ new.serial = old.serial ∧ new.mask = old.mask ∧ new.expected = old.expected ∧
          old.count.getD 0 ≤ new.limit.getD 255) →
      (kind = .exact → ∀ j, j < 512 → j ≠ i → (s.planAt j).inUse = true → (s.planAt j).kind = .exact →
        (s.planAt j).serial ≠ a.serial) →
      exec (.planWrite t a) s =
        .next (s.answered ((s.opened t).setPlan i new) t 0x20#8
          (if kind = .pattern ∧ (a.limit.toNat < 1 ∨ 255 < a.limit.toNat) then .clamped else .done []))) ∧
    (∀ (s : State) (t : Taking) (index : Word16), s.mayWrite → ¬ s.guardActs t → index.toNat < 512 →
      s.freeze.holds index.toNat = false →
      let old := s.planAt index.toNat
      (old.inUse = true → ¬ (old.kind = .exact ∧ old.claim ≠ none) ∧ ¬ (old.kind = .pattern ∧ 0 < old.count.getD 0)) →
      exec (.planErase t index) s =
        .next (s.answered
          ((s.opened t).setPlan index.toNat ⟨false, .exact, 0, none, 0, .any, 0, false, false, false, none, none, none⟩)
          t 0x22#8 (.done [])))

/-- The refusals of PLAN_WRITE and PLAN_ERASE behind the guard, in their order: BAD_ARG, FROZEN by the ranges of R80,
CLAIMED, DUPLICATE (R76, R78, R80).
FREEZE_SET replaces the range unless the freeze lock is set, FREEZE_LOCK sets the lock, and GUARD_SET writes the guard
enable; each is taken while the guard does not act (R80 to R82). An unassigned guard or range byte is refused with BAD_ARG
(R189, R207). -/
def Obligations.PlanRefusalsAndProtection : Prop :=
  (∀ (s : State) (t : Taking) (a : PlanArgs), s.mayWrite → ¬ s.guardActs t →
      let i := a.index.toNat
      let old := s.planAt i
      let write := fun r : Reason => exec (.planWrite t a) s = .next (s.answered (s.opened t) t 0x20#8 (.refused r))
      let erase := fun r : Reason =>
        exec (.planErase t a.index) s = .next (s.answered (s.opened t) t 0x22#8 (.refused r))
      let badArgs := 512 ≤ i ∨ 2 ≤ a.kind.toNat ∨ 3 ≤ a.expected.toNat ∨ 8 ≤ a.profile.toNat ∨
        (a.kind = 0x00#8 ∧ a.flags.getLsbD 1 = true)
      let frozen :=
        match s.freeze with
        | .none => False
        | .upper64 => 448 ≤ i
        | .upper128 => 384 ≤ i
        | .upper256 => 256 ≤ i
        | .lower64 => i ≤ 63
        | .lower128 => i ≤ 127
        | .lower256 => i ≤ 255
        | .all => True
      let held := old.inUse = true ∧
        ((old.kind = .exact ∧ old.claim ≠ none) ∨ (old.kind = .pattern ∧ 0 < old.count.getD 0))
      let changes := (a.kind = 0x00#8 ∧ old.kind = .pattern) ∨ (a.kind = 0x01#8 ∧ old.kind = .exact) ∨
        a.serial ≠ old.serial ∨ (a.kind = 0x01#8 ∧ old.mask ≠ some a.mask) ∨ expectedArg a.expected ≠ some old.expected ∨
        (a.kind = 0x01#8 ∧ max 1 (min 255 a.limit.toNat) < old.count.getD 0)
      (badArgs → write .badArg) ∧ (512 ≤ i → erase .badArg) ∧
        (¬ badArgs → frozen → write .frozen) ∧ (i < 512 → frozen → erase .frozen) ∧
        (¬ badArgs → ¬ frozen → held → changes → write .claimed) ∧ (i < 512 → ¬ frozen → held → erase .claimed) ∧
        (¬ badArgs → ¬ frozen → ¬ held → a.kind = 0x00#8 →
          (∃ j, j < 512 ∧ j ≠ i ∧ (s.planAt j).inUse = true ∧ (s.planAt j).kind = .exact ∧
            (s.planAt j).serial = a.serial) → write .duplicate)) ∧
    (∀ (s : State) (t : Taking) (b : Byte), s.mayWrite → ¬ s.guardActs t →
      let o := s.opened t
      let range : FreezeRange :=
        match b.toNat with
        | 1 => .upper64
        | 2 => .upper128
        | 3 => .upper256
        | 4 => .lower64
        | 5 => .lower128
        | 6 => .lower256
        | 7 => .all
        | _ => .none
      (8 ≤ b.toNat → exec (.freezeSet t b) s = .next (s.answered o t 0x23#8 (.refused .badArg))) ∧
        (b.toNat < 8 → s.freezeLock = true → exec (.freezeSet t b) s = .next (s.answered o t 0x23#8 (.refused .locked))) ∧
        (b.toNat < 8 → s.freezeLock = false →
          exec (.freezeSet t b) s = .next (s.answered { o with freeze := range } t 0x23#8 (.done []))) ∧
        exec (.freezeLock t) s = .next (s.answered { o with freezeLock := true } t 0x24#8 (.done [])) ∧
        (b = 0x00#8 → exec (.guardSet t b) s = .next (s.answered { o with guardEnable := false } t 0x25#8 (.done []))) ∧
        (b = 0x01#8 → exec (.guardSet t b) s = .next (s.answered { o with guardEnable := true } t 0x25#8 (.done []))) ∧
        (2 ≤ b.toNat → exec (.guardSet t b) s = .next (s.answered o t 0x25#8 (.refused .badArg))))

/-- PROFILE_WRITE writes the six values together, each numeric one clamped to its range, and keeps the lock flag; it is
refused with BAD_ARG and then with LOCKED (R83, R85).
PROFILE_LOCK, PROFILE_UNLOCK and PROFILES_LOCK_ALL with their refusals (R86). -/
def Obligations.ProfileWriteAndLocks : Prop :=
  (∀ (s : State) (t : Taking) (a : ProfileArgs), s.mayWrite → ¬ s.guardActs t →
      let o := s.opened t
      (8 ≤ a.index.toNat ∨ 4 ≤ a.policy.toNat →
          exec (.profileWrite t a) s = .next (s.answered o t 0x30#8 (.refused .badArg))) ∧
        ∀ (i : Fin 8) (policy : Policy), a.index.toNat = i.val → policyArg a.policy = some policy →
          let old := s.profiles[i]
          (old.locked = true ∨ s.allLock = true →
              exec (.profileWrite t a) s = .next (s.answered o t 0x30#8 (.refused .locked))) ∧
            (old.locked = false → s.allLock = false →
              exec (.profileWrite t a) s =
                .next (s.answered
                  { o with
                    profiles := s.profiles.set i
                      { dataLength := min 4000 a.dataLength.toNat
                        dataInterval := max 1 (min 64 a.dataInterval.toNat)
                        presence := max 16 (min 4096 a.presence.toNat)
                        missLimit := max 1 (min 15 a.missLimit.toNat)
                        grace := min 15 a.grace.toNat
                        policy := policy
                        locked := false } } t 0x30#8
                  (if 4000 < a.dataLength.toNat ∨ (a.dataInterval.toNat < 1 ∨ 64 < a.dataInterval.toNat) ∨
                      (a.presence.toNat < 16 ∨ 4096 < a.presence.toNat) ∨
                      (a.missLimit.toNat < 1 ∨ 15 < a.missLimit.toNat) ∨ 15 < a.grace.toNat then .clamped
                    else .done [])))) ∧
    (∀ (s : State) (t : Taking) (index : Byte), s.mayWrite → ¬ s.guardActs t →
      let o := s.opened t
      let bad := fun (r : Reason) =>
        exec (.profileLock t index) s = .next (s.answered o t 0x32#8 (.refused r)) ∧
          exec (.profileUnlock t index) s = .next (s.answered o t 0x33#8 (.refused r))
      (8 ≤ index.toNat → bad .badArg) ∧ (index.toNat < 8 → s.allLock = true → bad .locked) ∧
        (∀ i : Fin 8, index.toNat = i.val → s.allLock = false →
          exec (.profileLock t index) s =
              .next (s.answered { o with profiles := s.profiles.set i { s.profiles[i] with locked := true } } t 0x32#8
                (.done [])) ∧
            exec (.profileUnlock t index) s =
              .next (s.answered { o with profiles := s.profiles.set i { s.profiles[i] with locked := false } } t 0x33#8
                (.done []))) ∧
        (s.allLock = true → exec (.profilesLockAll t) s = .next (s.answered o t 0x34#8 (.refused .locked))) ∧
        (s.allLock = false →
          exec (.profilesLockAll t) s = .next (s.answered { o with allLock := true } t 0x34#8 (.done []))))

/-! ## Arrivals -/

/-- ADMIT of a HELD arrival makes it READY with source COMMAND and the given profile, in its place and with its link and
measurement, and nothing else changes; its refusals follow in their order (R96). -/
def Obligations.AdmitReadiesHeldArrival : Prop :=
  ∀ (s : State) (t : Taking) (feeder profile : Byte) (serial : Serial) (f : FeederId), s.mayWrite →
    feederArg feeder = some f →
    let o := s.opened t
    let l := (s.fd f).arrivals
    let answer := fun r : Reason =>
      exec (.admitArrival t feeder serial profile) s = .next (s.answered o t 0x41#8 (.refused r))
    let barred := ∃ b ∈ s.bars, b.serial = serial
    (8 ≤ profile.toNat → answer .badArg) ∧
      (profile.toNat < 8 → barred → answer .barred) ∧
      ∀ p : Fin 8, profile.toNat = p.val → ¬ barred →
        (∀ before a after reason n, l = before ++ a :: after → a.serial = serial → a.status = .held reason n →
            (∀ x ∈ before ++ after, x.serial ≠ serial) →
            exec (.admitArrival t feeder serial profile) s =
              .next (s.answered
                (o.setFd f { s.fd f with arrivals := before ++ { a with status := .readyCommand p } :: after }) t
                0x41#8 (.done []))) ∧
          (∀ before a after, l = before ++ a :: after → a.serial = serial → (∀ x ∈ before, x.serial ≠ serial) →
            (∀ reason n, a.status ≠ .held reason n) → answer .wrongState) ∧
          ((∀ a ∈ l, a.serial ≠ serial) →
            answer (if serial ∈ (s.fd f).expired then .tooLate else .notFound))

/-- REFUSE removes the arrival, READY or HELD, and with the bar choice adds the serial to the Bar List, which removes its
arrivals from both lists; its refusals follow in the order of R97 (R25, R97). That an unassigned bar choice, which R207
refuses with BAD_ARG, is refused ahead of BARRED, TOO_LATE and NOT_FOUND is the model's choice (log entry 37, DESIGN CHOICE,
unsafe). -/
def Obligations.RefuseRemovesArrival : Prop :=
  ∀ (s : State) (t : Taking) (feeder bar : Byte) (serial : Serial) (f : FeederId), s.mayWrite →
    feederArg feeder = some f →
    let o := s.opened t
    let answer := fun r : Reason => exec (.refuse t feeder serial bar) s = .next (s.answered o t 0x42#8 (.refused r))
    let barred := ∃ b ∈ s.bars, b.serial = serial
    let without := fun fd : Feeder => { fd with arrivals := fd.arrivals.filter fun a => decide (a.serial ≠ serial) }
    (2 ≤ bar.toNat → answer .badArg) ∧
      (bar.toNat < 2 → barred → answer .barred) ∧
      (bar.toNat < 2 → ¬ barred → (∀ a ∈ (s.fd f).arrivals, a.serial ≠ serial) →
        answer (if serial ∈ (s.fd f).expired then .tooLate else .notFound)) ∧
      (¬ barred → (∃ a ∈ (s.fd f).arrivals, a.serial = serial) →
        (bar = 0x00#8 →
          exec (.refuse t feeder serial bar) s =
            .next (s.answered (o.setFd f (without (s.fd f))) t 0x42#8 (.done []))) ∧
        (bar = 0x01#8 →
          exec (.refuse t feeder serial bar) s =
            .next (s.answered
              { o with
                bars := addBar s.bars serial s.barHold
                feederA := without s.feederA
                feederB := without s.feederB } t 0x42#8 (.done []))))

/-! ## Terminals and the Bar List -/

/-- TERMINAL_EJECT of an active record: the record becomes EJECTED with reason ORDERED, its owed message is cleared, its
ordinary messages leave the queue, and it is told by an EJECT offered to the urgent band unless it was still NAMED, when its
drain countdown starts at 4; the notice EJECTED is raised. When the record was the hunt's target, the hunt loses it and
chooses a new one at once. With the bar choice the serial is then barred (R12, R13, R18, R19, R158, R164, R193). The model's
choices here are that the EJECT is offered before the next target's HUSH (log entry 17), and that the EJECTED record of a
former target keeps its held from field (log entry 15, DEDUCED, unsafe). The refusals of TERMINAL_EJECT for its arguments, and
TERMINAL_RELEVEL: an IN_SERVICE record starts to walk with its level run 0, a LEVELLING one is left as it is, and any other
state is refused (R130, R193). -/
def Obligations.TerminalEjectAndRelevel : Prop :=
  (∀ (s : State) (t : Taking) (feeder handle bar : Byte) (f : FeederId), s.mayWrite → feederArg feeder = some f →
      handle.toNat ≠ 0 → bar.toNat < 2 →
      let o := s.opened t
      let h := handle.toNat
      let fd := s.fd f
      let r := fd.record h
      let after := exec (.terminalEject t feeder handle bar) s
      let answer := fun reason : Reason => after = .next (s.answered o t 0x52#8 (.refused reason))
      let ejected := fun drain : Option Nat =>
        { (fd.setRecord h { r with
            state := .ejected, ejectReason := some .ordered, owed := none, drain := drain }) with
          ordinary := fd.ordinary.filter fun q => decide (q.handle ≠ h) }
      let told : Feeder :=
        if r.state = .named then ejected (some 4) else Feeder.offerUrgent (ejected none) h (.eject .ordered)
      let noted := fun fd' : Feeder => (o.setFd f fd').raise .ejected
        { feeder := some f, handle := some h, serial := r.serial
          dwelling := r.planLink.map fun i => (s.planAt i).dwelling, reason := some (.eject .ordered) }
      let leaves := fun u : State =>
        (bar = 0x00#8 → after = .next (s.answered u t 0x52#8 (.done []))) ∧
          (bar = 0x01#8 → ∀ serial, r.serial = some serial →
            after = .next (s.answered (u.bar serial) t 0x52#8 (.done [])))
      (r.state = .free → answer .notFound) ∧
        (r.state = .ejected → bar = 0x00#8 → answer .wrongState) ∧
        (r.state = .ejected → ∀ serial, r.serial = some serial → bar = 0x01#8 →
          after = .next (s.answered (o.bar serial) t 0x52#8 (.done []))) ∧
        (r.state ≠ .free → r.state ≠ .ejected → fd.hunt.target ≠ some h → leaves (noted told)) ∧
        (r.state ≠ .free → r.state ≠ .ejected → fd.hunt.target = some h →
          ∃ u, HuntChooses
              (noted { told with
                hunt := { fd.hunt with target := none, phase := none, hushCycle := none, watchCd := 0 } }) f u ∧
            leaves u)) ∧
    (∀ (s : State) (t : Taking) (feeder handle bar : Byte) (f : FeederId), s.mayWrite → feederArg feeder = some f →
      let o := s.opened t
      let h := handle.toNat
      let r := s.record f h
      let answer := fun reason : Reason =>
        exec (.terminalRelevel t feeder handle) s = .next (s.answered o t 0x53#8 (.refused reason))
      (h = 0 ∨ 2 ≤ bar.toNat →
          exec (.terminalEject t feeder handle bar) s = .next (s.answered o t 0x52#8 (.refused .badArg))) ∧
        (h = 0 → answer .badArg) ∧
        (h ≠ 0 →
          (r.state = .free → answer .notFound) ∧
          (r.state = .inService →
            exec (.terminalRelevel t feeder handle) s =
              .next (s.answered (o.setFd f ((s.fd f).setRecord h { r with walking := true, levelRun := 0 })) t 0x53#8
                (.done []))) ∧
          (r.state = .levelling →
            exec (.terminalRelevel t feeder handle) s = .next (s.answered o t 0x53#8 (.done []))) ∧
          (r.state ≠ .free → r.state ≠ .inService → r.state ≠ .levelling → answer .wrongState)))

/-- BAR_ADD: refused with BAD_ARG without an argument and with CLAIMED for a serial of an active record of either feeder,
else BAR_HOLD is written when it is given, and then the serial is added when it is given (R26, R194).
Adding a serial to the Bar List (R25): a serial on the list keeps its place and is reloaded; otherwise a full list
first gives up the oldest of its entries with the smallest countdown, and the serial joins as the youngest; its arrivals
leave both lists. -/
def Obligations.BarAddHoldsAndBars : Prop :=
  (∀ (s : State) (t : Taking) (serial : Option Serial) (hold : Option Word16), s.mayWrite →
      let o := s.opened t
      let claimed := ∃ n f h, serial = some n ∧ 1 ≤ h ∧ h ≤ 255 ∧ (s.record f h).serial = some n ∧
        (s.record f h).state ≠ .free ∧ (s.record f h).state ≠ .ejected
      let newHold :=
        match hold with
        | none => s.barHold
        | some v => max 1024 (min 65535 v.toNat)
      let result : CmdResult :=
        match hold with
        | none => .done []
        | some v => if v.toNat < 1024 then .clamped else .done []
      (serial = none → hold = none →
          exec (.barAdd t serial hold) s = .next (s.answered o t 0x61#8 (.refused .badArg))) ∧
        (claimed → exec (.barAdd t serial hold) s = .next (s.answered o t 0x61#8 (.refused .claimed))) ∧
        (¬ claimed → serial ≠ none ∨ hold ≠ none →
          exec (.barAdd t serial hold) s =
            .next (s.answered
              (match serial with
                | none => { o with barHold := newHold }
                | some n => State.bar { o with barHold := newHold } n) t 0x61#8 result))) ∧
    (∀ (s : State) (serial : Serial),
      let without := fun fd : Feeder => { fd with arrivals := fd.arrivals.filter fun a => decide (a.serial ≠ serial) }
      let barred := fun l : List BarEntry =>
        s.bar serial = { s with bars := l, feederA := without s.feederA, feederB := without s.feederB }
      (∀ before b after, s.bars = before ++ b :: after → b.serial = serial →
          (∀ x ∈ before ++ after, x.serial ≠ serial) →
          barred (before ++ { serial := serial, countdown := s.barHold } :: after)) ∧
        ((∀ b ∈ s.bars, b.serial ≠ serial) → s.bars.length < 32 →
          barred (s.bars ++ [{ serial := serial, countdown := s.barHold }])) ∧
        ((∀ b ∈ s.bars, b.serial ≠ serial) → 32 ≤ s.bars.length →
          ∀ before b after, s.bars = before ++ b :: after → (∀ x ∈ before, b.countdown < x.countdown) →
            (∀ x ∈ after, b.countdown ≤ x.countdown) →
            barred (before ++ after ++ [{ serial := serial, countdown := s.barHold }])))

/-- BAR_REMOVE: refused in holdover, the entry of a serial on the list removed with the entries behind it closing up, and
NOT_FOUND for a serial that is not on the list; no record is touched (R195). -/
def Obligations.BarRemoveTakesEntry : Prop :=
  ∀ (s : State) (t : Taking) (serial : Serial), s.mayTake →
    let o := s.opened t
    (s.holdover = true → exec (.barRemove t serial) s = .next (s.answered o t 0x62#8 (.refused .holdover))) ∧
      (s.holdover = false → (∀ b ∈ s.bars, b.serial ≠ serial) →
        exec (.barRemove t serial) s = .next (s.answered o t 0x62#8 (.refused .notFound))) ∧
      (s.holdover = false → ∀ before b after, s.bars = before ++ b :: after → b.serial = serial →
        (∀ x ∈ before ++ after, x.serial ≠ serial) →
        exec (.barRemove t serial) s = .next (s.answered { o with bars := before ++ after } t 0x62#8 (.done [])))

/-! ## The common cycle and its countdowns -/

/-- CYCLE_START. While both feeders are CLOSED it does nothing; otherwise the cycle number advances by one and wraps
(R28). A feeder that has built no header starts no cycle and keeps everything (R29). A feeder that starts sends its
header, whose map becomes a held map (R132; the last two are held, log entry 14) that is evaluated when the header was
built while OPEN or PAUSED (R31), and its countdowns count: its sequence (R37, R38), gap and root (R56), decisions while
OPEN (R95), and those of every record (R17, R123, R138, R167, R168). A decision that ends takes its arrival to the
expiry list (R88) with DECISION_EXPIRED, the only notice, in the order of the list, feeder A first. A record whose drain
ends is FREE, its link released in the plan, its messages gone and FEEDER_FULL re-armed (R10, R20, R75). A feeder OPEN
or PAUSED then sends from the head of its downstream buffer what fits into 19,440 bytes less the header, each frame with
its 4 bytes of framing (R179): broadcasts and frames of IN_SERVICE and SUSPECT records go out, the rest are removed and
counted as downstream refused, and the head that stays serves but does not fit. The hold countdowns of the Bar List
count at the start of feeder A while A serves, else of B (R24). So far no recovery countdown ends, and no serial stands
twice in one list of arrivals. A start that brings the recovery countdowns of HUSHED records to 0 leaves what the start
leaves that stops these one short of it, followed by the RECOVERY_EXPIRY of each, feeder A first, in handle order
(R167), unless decisions of B end behind recoveries of A. The order within the start is the model's (log entries 5 and
22), and the line that keeps what was sent is its field (log entry 21). -/
def Obligations.CycleStartCountsDown : Prop :=
  ∀ (s : State), s.phase = .running →
    (s.feederA.state = .closed → s.feederB.state = .closed → exec .cycleStart s = .next s) ∧
      (s.feederA.state ≠ .closed ∨ s.feederB.state ≠ .closed →
        (∀ f h, (s.fd f).nextHeader ≠ none → ¬ ((s.record f h).state = .hushed ∧ (s.record f h).recCd = 1)) →
        (∀ f, ((s.fd f).arrivals.map (·.serial)).Nodup) →
        let serves := fun f : FeederId => (s.fd f).state = .opened ∨ (s.fd f).state = .paused
        let starts := fun f : FeederId => (s.fd f).nextHeader ≠ none
        let drains := fun r : Record => r.state = .ejected ∧ (r.drain = some 0 ∨ r.drain = some 1)
        let lapsing := fun f : FeederId =>
          (s.fd f).arrivals.filter fun a => match a.status with | .held _ n => decide (n ≤ 1) | _ => false
        let lapses := fun f : FeederId =>
          if (s.fd f).nextHeader ≠ none ∧ (s.fd f).state = .opened then
            (lapsing f).map fun a =>
              ({ feeder := some f, serial := some a.serial
                 dwelling := a.link.map fun l => (s.planAt l.index).dwelling } : NoticeFields)
          else []
        let noted := (lapses .A ++ lapses .B).foldl (fun u x => u.raise .decisionExpired x) { s with cycle := s.cycle + 1 }
        let freed := fun (f : FeederId) (i : Nat) =>
          if (s.fd f).nextHeader ≠ none then
            (s.fd f).table.toList.countP fun r =>
              decide (r.state = .ejected ∧ (r.drain = some 0 ∨ r.drain = some 1) ∧ r.planLink = some i)
          else 0
        ∃ t, exec .cycleStart s = .next t ∧
          t = { s with
            cycle := s.cycle + 1
            award := none
            feederA := t.feederA
            feederB := t.feederB
            bars := t.bars
            plan := t.plan
            notices := noted.notices
            noticeOverrun := noted.noticeOverrun } ∧
          ((serves .A ∧ starts .A) ∨ (¬ serves .A ∧ serves .B ∧ starts .B) →
            t.bars = (s.bars.map fun b => { b with countdown := b.countdown - 1 }).filter
              fun b => decide (b.countdown ≠ 0)) ∧
          (¬ ((serves .A ∧ starts .A) ∨ (¬ serves .A ∧ serves .B ∧ starts .B)) → t.bars = s.bars) ∧
          (∀ i, i < 512 →
            let e := s.planAt i
            let k := freed .A i + freed .B i
            (e.kind = .exact → t.planAt i = { e with claim := if k = 0 then e.claim else none }) ∧
              (e.kind = .pattern → t.planAt i = { e with count := e.count.map fun n => n - k })) ∧
          ∀ f, (¬ starts f → t.fd f = s.fd f) ∧
            ∀ hd, (s.fd f).nextHeader = some hd →
              let fd := s.fd f
              let fd' := t.fd f
              fd' = { fd with
                  state := fd'.state
                  seqCount := fd'.seqCount
                  counters := fd'.counters
                  table := fd'.table
                  arrivals := fd'.arrivals
                  expired := fd'.expired
                  fullArmed := fd'.fullArmed
                  rootCd := fd'.rootCd
                  gapCd := fd'.gapCd
                  nextHeader := none
                  heldMaps := lastTwo (fd.heldMaps ++ [
                    { cycle := hd.cycle, evaluated := decide (hd.kind = .full), window := hd.window, guard := hd.guard
                      grants := hd.grants, burstSeen := false, lightSeen := false }])
                  urgent := fd.urgent.filter fun q => decide (¬ drains (fd.record q.handle))
                  ordinary := fd.ordinary.filter fun q => decide (¬ drains (fd.record q.handle))
                  downBuffer := fd'.downBuffer
                  line := fd'.line } ∧
                (fd.state = .quieting → fd.seqCount = some 1 → fd'.state = .purging ∧ fd'.seqCount = some 8) ∧
                (fd.state = .purging → fd.seqCount = some 1 →
                  fd'.state = .opened ∧ fd'.seqCount = none ∧ fd'.rootCd = 0 ∧ fd'.gapCd = 0) ∧
                (∀ n, 2 ≤ n → fd.seqCount = some n → fd'.state = fd.state ∧ fd'.seqCount = some (n - 1)) ∧
                (serves f → fd.seqCount = none →
                  fd'.state = fd.state ∧ fd'.rootCd = fd.rootCd - 1 ∧ fd'.gapCd = fd.gapCd - 1) ∧
                (fd.state ≠ .opened → fd'.arrivals = fd.arrivals ∧ fd'.expired = fd.expired) ∧
                (fd.state = .opened →
                  (fd'.arrivals = fd.arrivals.filterMap fun a =>
                    match a.status with
                    | .held reason n => if n ≤ 1 then none else some { a with status := .held reason (n - 1) }
                    | _ => some a) ∧
                    fd'.expired = ((lapsing f).map (·.serial)).foldl
                      (fun l x =>
                        let kept := l.filter fun y => decide (y ≠ x)
                        (if kept.length < 16 then kept else kept.drop 1) ++ [x]) fd.expired) ∧
                ((∃ h, drains (fd.record h)) → fd'.fullArmed = true) ∧
                ((∀ h, ¬ drains (fd.record h)) → fd'.fullArmed = fd.fullArmed) ∧
                (¬ serves f → fd'.line = some { header := hd, sent := [] } ∧ fd'.downBuffer = fd.downBuffer ∧
                  fd'.counters = fd.counters) ∧
                (serves f → ∃ taken,
                  let goes := fun d : DownFrame =>
                    decide (d.handle = 0 ∨ (fd.record d.handle).state = .inService ∨
                      (fd.record d.handle).state = .suspect)
                  let sent := taken.filter goes
                  let used := (sent.map fun d => d.frame.length + 4).sum
                  fd.downBuffer = taken ++ fd'.downBuffer ∧ fd'.line = some { header := hd, sent := sent } ∧
                    fd'.counters = { fd.counters with
                      downstreamRefused := satAdd16 fd.counters.downstreamRefused (taken.length - sent.length) } ∧
                    used ≤ 19440 - hd.bytes.length ∧
                    ∀ d rest, fd'.downBuffer = d :: rest →
                      goes d = true ∧ 19440 - hd.bytes.length < used + (d.frame.length + 4)) ∧
                ∀ h, 1 ≤ h → h ≤ 255 →
                  let r := fd.record h
                  fd'.record h =
                    if r.state = .ejected ∧ (r.drain = some 0 ∨ r.drain = some 1) then freeRecord
                    else
                      { r with
                        pace := if r.state = .free ∨ r.state = .ejected then r.pace else r.pace - 1
                        drain := if r.state = .ejected then r.drain.map (fun n => n - 1) else r.drain
                        checkCd := if r.state = .inService then r.checkCd - 1 else r.checkCd
                        dataCd := if r.state = .inService then r.dataCd - 1 else r.dataCd
                        recCd := if r.state = .inService ∨ r.state = .hushed then r.recCd - 1 else r.recCd }) ∧
      (s.feederA.state ≠ .closed ∨ s.feederB.state ≠ .closed →
        let ends := fun r : Record => r.state = .hushed ∧ r.recCd = 1
        let due := fun f : FeederId =>
          if (s.fd f).nextHeader ≠ none then
            ((List.range' 1 255).filter fun h => decide (ends (s.record f h))).map fun h => (f, h)
          else []
        let later := fun fd : Feeder =>
          if fd.nextHeader ≠ none then
            { fd with table := fd.table.map fun r => if ends r then { r with recCd := 2 } else r }
          else fd
        (∀ f h, (f, h) ∈ due f → (s.fd f).hunt.target ≠ some h) →
        (due .A = [] ∨ s.feederB.nextHeader = none ∨ s.feederB.state ≠ .opened ∨
          ∀ a ∈ s.feederB.arrivals, ∀ reason n, a.status = .held reason n → 2 ≤ n) →
        ∃ u, exec .cycleStart { s with feederA := later s.feederA, feederB := later s.feederB } = .next u ∧
          exec .cycleStart s =
            (due .A ++ due .B).foldl
              (fun o x => match o with | .next v => exec (.recoveryExpiry x.1 x.2) v | stop => stop) (.next u))

/-- The ends of the countdowns that make something due or move a feeder in its open sequence, each as the last decrement
of its one countdown (log entry 4): QUIET_END (R37), PURGE_END (R38), GAP_COUNTDOWN_EXPIRY and ROOT_COUNTDOWN_EXPIRY (R56),
CHECK_COUNTDOWN_EXPIRY and DATA_COUNTDOWN_EXPIRY (R138), PACE_COUNTDOWN_EXPIRY (R123) and RE_HUSH_WATCH_END (R168). -/
def Obligations.CountdownEnds : Prop :=
  ∀ (s : State) (f : FeederId) (h : Nat), s.phase = .running →
    let fd := s.fd f
    let r := fd.record h
    let record := fun r' : Record => Host.Outcome.next (φ := Fault) (ρ := Refusal) (s.setFd f (fd.setRecord h r'))
    (fd.state = .quieting → fd.seqCount = some 1 →
        exec (.quietEnd f) s = .next (s.setFd f { fd with state := .purging, seqCount := some 8 })) ∧
      (fd.state ≠ .quieting ∨ (∃ n, 2 ≤ n ∧ fd.seqCount = some n) → exec (.quietEnd f) s = .next s) ∧
      (fd.state = .purging → fd.seqCount = some 1 →
        exec (.purgeEnd f) s =
          .next (s.setFd f { fd with state := .opened, seqCount := none, rootCd := 0, gapCd := 0 })) ∧
      (fd.state ≠ .purging ∨ (∃ n, 2 ≤ n ∧ fd.seqCount = some n) → exec (.purgeEnd f) s = .next s) ∧
      (fd.state = .opened ∨ fd.state = .paused → fd.gapCd = 1 →
        exec (.gapCountdownExpiry f) s = .next (s.setFd f { fd with gapCd := 0 })) ∧
      (fd.state = .opened ∨ fd.state = .paused → fd.rootCd = 1 →
        exec (.rootCountdownExpiry f) s = .next (s.setFd f { fd with rootCd := 0 })) ∧
      (r.state = .inService → r.checkCd = 1 → exec (.checkCountdownExpiry f h) s = record { r with checkCd := 0 }) ∧
      (r.state = .inService → r.dataCd = 1 → exec (.dataCountdownExpiry f h) s = record { r with dataCd := 0 }) ∧
      (r.state ≠ .free → r.state ≠ .ejected → r.pace = 1 →
        exec (.paceCountdownExpiry f h) s = record { r with pace := 0 }) ∧
      (r.state = .inService → r.recCd = 1 → exec (.reHushWatchEnd f h) s = record { r with recCd := 0 })

/-- DRAIN_EXPIRY returns an ejected record to FREE, releases its plan link, removes the messages of its handle and re-arms
FEEDER_FULL (R17, R20). BAR_HOLD_EXPIRY takes the serial's entry from the Bar List, without a notice (R24).
DECISION_EXPIRY removes the HELD arrival, puts its serial into the expiry list and raises DECISION_EXPIRED (R88, R95).
Each is the last decrement of its one countdown (log entry 4).
RECOVERY_EXPIRY of a HUSHED record decides by the recovery policy of its profile as it stands: an ejection with reason
STRAY, whose serial is barred, under OFF and under a policy of three attempts that has none left; otherwise a RESUME is
offered and an attempt counted, and the record stays HUSHED (R165, R167). The ejection is written out for a record that is not
the target of a hunt. -/
def Obligations.DrainBarDecisionRecoveryExpiries : Prop :=
  (∀ (s : State) (f : FeederId), s.phase = .running →
      (∀ h, 1 ≤ h → h ≤ 255 → ((s.fd f).record h).state = .ejected → ((s.fd f).record h).drain = some 1 →
          let fd := s.fd f
          let fd' : Feeder :=
            { (fd.setRecord h freeRecord) with
              ordinary := fd.ordinary.filter fun q => decide (q.handle ≠ h)
              urgent := fd.urgent.filter fun q => decide (q.handle ≠ h)
              fullArmed := true }
          ((fd.record h).planLink = none → exec (.drainExpiry f h) s = .next (s.setFd f fd')) ∧
            ∀ i, (fd.record h).planLink = some i → i < 512 →
              let e := s.planAt i
              (e.kind = .exact →
                exec (.drainExpiry f h) s = .next ((s.setFd f fd').setPlan i { e with claim := none })) ∧
              (e.kind = .pattern →
                exec (.drainExpiry f h) s =
                  .next ((s.setFd f fd').setPlan i { e with count := e.count.map fun n => n - 1 }))) ∧
        (∀ before b after, s.feederA.state = .opened ∨ s.feederA.state = .paused ∨ s.feederB.state = .opened ∨
            s.feederB.state = .paused → s.bars = before ++ b :: after → b.countdown = 1 →
          (∀ x ∈ before ++ after, x.serial ≠ b.serial) →
          exec (.barHoldExpiry b.serial) s = .next { s with bars := before ++ after }) ∧
        (∀ before a after reason, (s.fd f).state = .opened → (s.fd f).arrivals = before ++ a :: after →
          a.status = .held reason 1 → (∀ x ∈ before ++ after, x.serial ≠ a.serial) →
          let fd := s.fd f
          let kept := fd.expired.filter fun x => decide (x ≠ a.serial)
          exec (.decisionExpiry f a.serial) s =
            .next ((s.setFd f { fd with
                arrivals := before ++ after
                expired := (if kept.length < 16 then kept else kept.drop 1) ++ [a.serial] }).raise .decisionExpired
              { feeder := some f, serial := some a.serial
                dwelling := a.link.map fun l => (s.planAt l.index).dwelling }))) ∧
    (∀ (s : State) (f : FeederId) (h : Nat), s.phase = .running → 1 ≤ h → h ≤ 255 →
      let fd := s.fd f
      let r := fd.record h
      let policy := s.profiles[r.profile].policy
      let gives := policy = .off ∨ (policy ≠ .endless512 ∧ 3 ≤ r.recAttempts)
      r.state = .hushed → r.recCd = 1 →
      (gives → fd.hunt.target ≠ some h →
        exec (.recoveryExpiry f h) s =
          .next (State.barringEjection (s.setFd f (fd.setRecord h { r with recCd := 0 })) f h .stray)) ∧
      (gives → ∃ t, exec (.recoveryExpiry f h) s = .next t ∧
        (t.record f h).state = .ejected ∧ (t.record f h).ejectReason = some .stray ∧ (t.record f h).recCd = 0 ∧
          (t.record f h).serial = r.serial ∧ (∀ serial, r.serial = some serial → t.isBarred serial = true) ∧
          t.fd f.other = { s.fd f.other with arrivals := (t.fd f.other).arrivals }) ∧
        (¬ gives →
          exec (.recoveryExpiry f h) s =
            .next (s.setFd f
              (let cleared := if r.owed = some .hush then none else r.owed
                let offered := (fd.setRecord h { r with recCd := 0, owed := cleared }).offerUrgent h .resume
                offered.setRecord h { offered.record h with
                  recAttempts := if r.recAttempts < 255 then r.recAttempts + 1 else r.recAttempts }))))

/-- WATCHDOG_PERIOD_END decrements the watchdog countdown while the watchdog is armed and holdover is clear, and the
decrement that brings it to 0 is the expiry: holdover and HOLDOVER_ENTERED are set and HOLDOVER is raised (R199, R201).
WATCHDOG_EXPIRY is that last decrement taken as a row of its own (log entry 4).
Raising a notice of any kind: one whose bit of the notice mask is clear is lost and changes nothing; otherwise it joins the
notice queue as its youngest entry with its kind, the cycle number and its fields while the queue holds fewer than 64
entries, and a full queue loses it with NOTICE_OVERRUN set (R196). The bit of a kind is its code, which the kinds of
section 10.4 take in their order from 00h (section 11.3). -/
def Obligations.WatchdogRunsIntoHoldover : Prop :=
  (∀ (s : State), s.phase = .running →
    let expired := State.raise { s with holdover := true, wdCd := 0, holdoverEntered := true } .holdover {}
    (s.wdArmed = false ∨ s.holdover = true →
        exec .watchdogPeriodEnd s = .next s ∧ exec .watchdogExpiry s = .next s) ∧
      (s.wdArmed = true → s.holdover = false → 2 ≤ s.wdCd →
        exec .watchdogPeriodEnd s = .next { s with wdCd := s.wdCd - 1 } ∧ exec .watchdogExpiry s = .next s) ∧
      (s.wdArmed = true → s.holdover = false → s.wdCd = 1 →
        exec .watchdogPeriodEnd s = .next expired ∧ exec .watchdogExpiry s = .next expired)) ∧
    ([NoticeKind.arrivalHeld, .decisionExpired, .named, .admitted, .ejected, .rebooted, .duplicateSerial, .outOfReach,
        .feederFull, .levelEdge, .reachEdge, .dark, .lightBack, .stray, .strayFound, .strayCleared, .strayUnresolved,
        .mainsFailing, .condition, .holdover].map NoticeKind.code = List.range 20) ∧
    ∀ (s : State) (k : NoticeKind) (x : NoticeFields),
      (s.noticeMask.getLsbD k.code = false → s.raise k x = s) ∧
        (s.noticeMask.getLsbD k.code = true → s.notices.length < 64 →
          s.raise k x = { s with notices := s.notices ++ [{ kind := k, cycle := s.cycle, fields := x }] }) ∧
        (s.noticeMask.getLsbD k.code = true → 64 ≤ s.notices.length → s.raise k x = { s with noticeOverrun := true })

/-! ## The cycle build -/

/-- A build that finds no award makes the one of the next cycle by the table of R61 from the questions of both Call-In
Units, asked behind a naming that the build takes first. A feeder asks while it is OPEN or PAUSED, for a probe when a
PROBING record has no DELAY queued or owed and no probe window that has not closed (R58), and for the call-in window
that is due (R57, R59). The build leaves the Call-In Unit of the other feeder unchanged. Beside the award, the build does
what the same build does where that award stands already, of which the statements about headers speak. After a reset the
last-served feeder is B, so that A wins the first contest. That the first build of a cycle makes the award is the model's
choice (log entry 11).
The builds that compose no full header: a CLOSED feeder holds no build (R29); a second build in a cycle has no effect (log
entry 13); a quiet header and a purge header carry the next cycle's number and no grant, window or queued message (R37,
R38), here where an award stands. -/
def Obligations.AwardsAndBareBuilds : Prop :=
  ((∀ (s : State) (f : FeederId) (order : BuildOrder), s.phase = .running → (s.fd f).state ≠ .closed →
      (s.fd f).nextHeader = none → s.award = none →
      let asked : State := if order.naming = .beforeAward then s.name f else s
      let awaits := fun (g : FeederId) (h : Nat) =>
        (asked.record g h).state = .probing ∧
          (∀ q ∈ (asked.fd g).ordinary, ¬ (q.handle = h ∧ q.msg.kind = .delay)) ∧
          (∀ m, (asked.record g h).owed = some m → m.kind ≠ .delay) ∧
          ∀ w ∈ asked.windows, ¬ (w.feeder = g ∧ w.window.use = .probe h)
      let callInIsDue := fun g : FeederId =>
        let fd := asked.fd g
        fd.state = .opened ∧ fd.dark = false ∧ fd.stray = false ∧ fd.arrivals.length < 16 ∧ fd.gapCd = 0 ∧
          (fd.splitList ≠ [] ∨ fd.rootCd = 0)
      let asks := fun g : FeederId =>
        ((asked.fd g).state = .opened ∨ (asked.fd g).state = .paused) ∧ ((∃ h, awaits g h) ∨ callInIsDue g)
      ∀ winner : Option FeederId,
      (¬ asks .A → ¬ asks .B → winner = none) → (asks .A → ¬ asks .B → winner = some .A) →
      (¬ asks .A → asks .B → winner = some .B) → (asks .A → asks .B → winner = some s.lastServed.other) →
      ∃ t, exec (.cycleBuild f order) s = .next t ∧ t.award = some { cycle := s.cycle + 1, winner := winner } ∧
        t.lastServed = winner.getD s.lastServed ∧
        (∀ g, g ≠ f → (t.fd g).splitList = (s.fd g).splitList ∧ (t.fd g).splitCounter = (s.fd g).splitCounter ∧
          (t.fd g).rootCd = (s.fd g).rootCd ∧ (t.fd g).gapCd = (s.fd g).gapCd ∧
          (t.fd g).lastProbed = (s.fd g).lastProbed) ∧
        exec (.cycleBuild f order) s =
          exec (.cycleBuild f order)
            { s with
              award := some { cycle := s.cycle + 1, winner := winner }
              lastServed := winner.getD s.lastServed }) ∧
      State.reset.lastServed = .B) ∧
    (∀ (s : State) (f : FeederId) (order : BuildOrder), s.phase = .running →
      let fd := s.fd f
      let bare := fun kind : HeaderKind =>
        s.setFd f { fd with
          nextHeader := some
            { cycle := s.cycle + 1, kind := kind, window := none, guard := fd.settings.guard, grants := [], messages := [] } }
      (fd.state = .closed ∨ fd.nextHeader ≠ none → exec (.cycleBuild f order) s = .next s) ∧
        (fd.nextHeader = none → s.award ≠ none →
          (fd.state = .quieting → exec (.cycleBuild f order) s = .next (bare .quiet)) ∧
          (fd.state = .purging → exec (.cycleBuild f order) s = .next (bare .purge))))

/-- Full builds of feeders (R133), where the award stands; a build that makes it has a statement of its own.
The arrivals are named, as AdmissionSteps says, at the point that the build's order names (R99, R153; log entry 11).
Dispatch: up to four messages, those of the urgent band first, stand in the header in the order taken, each reported to its
record (a report has a statement of its own) before the next is taken, or all behind the last, as the order says (R150).
Then the owed messages are offered again in handle order (R151). Window and grants read the state that this leaves, and a
record that the dispatch moved from NAMED, PROBING, HUNT_HELD or HUSHED into a state that is granted CHECK bursts gets none
in this header; that its check wait becomes 0 is log entry 12's.
A feeder with the award places a probe window of R54 for the first record that awaits one (R58), from the last probed handle
on, or else the call-in window that is due, with the geometry of R53, which reloads the Call-In Unit (R56, R62); a window
makes its window record (the last two are kept, log entry 14). An award with nothing to place lapses (R63), and no window
is placed without one. The grants stand one after another, each with its guard, from 0 or from behind the window, up to
64 and up to offset 16,000 (R134). The due checks come first, by check wait, then by handle, each of 48 LU, up to the first
that does not fit: a placed one of an IN_SERVICE record reloads its countdown, one of a CONFIRMING record carries the confirm
mark, a deferred one only raises its wait, up to 255, and any other wait is 0 (R135, R136). When every check is placed, the
due DATA grants follow in rotation order, each of the data length rounded up to a multiple of 4, up to the first that does
not fit: a placed one reloads its countdown, the pointer moves behind the last, and the deferred ones are counted (R137).
Re-offers that fit, in a build over an empty queue that grants nothing: each band holds its own in handle order. -/
def Obligations.FullBuildPlacesWindowAndGrants : Prop :=
  (∀ (s : State) (f : FeederId) (order : BuildOrder) (use : Option WindowUse) (checks datas : List Nat) (c d : Nat),
      s.phase = .running →
      let n := s.cycle + 1
      let sends := fun (x : State × List QMsg × List Nat) (q : QMsg) =>
        let t := x.1.report f n q
        let moves := decide ((x.1.record f q.handle).state ∈ [RecState.named, .probing, .huntHeld, .hushed] ∧
          (t.record f q.handle).state ∈ [RecState.confirming, .levelling, .inService, .suspect])
        (t, x.2.1 ++ [q], if moves then x.2.2 ++ [q.handle] else x.2.2)
      let naming := fun (point : NamingPoint) (u : State) => if order.naming = point then u.name f else u
      let begun := naming .beforeDispatch (naming .beforeAward s)
      let taken : State × List QMsg × List Nat :=
        if order.reportsJoin then
          (List.range 4).foldl
            (fun x _ =>
              let fd := x.1.fd f
              match fd.urgent, fd.ordinary with
              | q :: rest, _ => sends (x.1.setFd f { fd with urgent := rest }, x.2) q
              | [], q :: rest => sends (x.1.setFd f { fd with ordinary := rest }, x.2) q
              | [], [] => x) (begun, [], [])
        else
          let fd := begun.fd f
          ((fd.urgent ++ fd.ordinary).take 4).foldl sends
            (begun.setFd f { fd with
              urgent := fd.urgent.drop 4, ordinary := fd.ordinary.drop (4 - fd.urgent.length) }, [], [])
      let messages := taken.2.1
      let moved := taken.2.2
      let dispatched := naming .afterDispatch taken.1
      let offered := (List.range' 1 255).foldl
        (fun x k =>
          match (x.record k).owed with
          | none => x
          | some m =>
            let cleared := x.setRecord k { x.record k with owed := none }
            if m.kind.urgent then cleared.offerUrgent k m else cleared.offerOrdinary k m) (dispatched.fd f)
      let found := naming .afterReoffers (dispatched.setFd f offered)
      let fd := found.fd f
      let x := fd.settings
      let guard := x.guard
      let state := fun k : Nat => (fd.record k).state
      let profile := fun k : Nat => s.profiles[(fd.record k).profile]
      let wait := fun k : Nat => fd.checkWait[k - 1]?.getD 0
      let awaits := fun k : Nat =>
        state k = .probing ∧ (∀ q ∈ fd.ordinary, ¬ (q.handle = k ∧ q.msg.kind = .delay)) ∧
          (∀ m, (fd.record k).owed = some m → m.kind ≠ .delay) ∧
          ∀ w ∈ s.windows, ¬ (w.feeder = f ∧ w.window.use = .probe k)
      let offset := match x.reach with | .near => 2000 | .mid => 4000 | .far => 6000 | .extended => 8000
      let slots := match x.spread with | .s8 => 8 | .s16 => 16 | .s32 => 32 | .s64 => 64
      let window : Option Window := use.map fun u =>
        { use := u, grantOffset := offset
          spanEnd := match u with | .callIn _ _ => offset + 16 * slots + 64 | .probe _ => offset + 64 }
      let checkIsDue := fun k : Nat =>
        state k = .confirming ∨ state k = .levelling ∨ state k = .suspect ∨
          (state k = .inService ∧ (fd.record k).checkCd = 0)
      let dataIsDue := fun k : Nat => state k = .inService ∧ 0 < (profile k).dataLength ∧ (fd.record k).dataCd = 0
      let first := match window with | none => 0 | some w => w.spanEnd + guard
      let len := fun h : Nat => ((profile h).dataLength + 3) / 4 * 4
      let checkEnd := fun j : Nat => first + j * (48 + guard)
      let dataEnd := fun j : Nat => checkEnd c + ((datas.take j).map fun h => len h + guard).sum
      ((s.fd f).state = .opened ∨ (s.fd f).state = .paused) → (s.fd f).nextHeader = none →
      (∀ h, use = some (.probe h) → s.award = some { cycle := n, winner := some f } ∧ awaits h ∧
        ((fd.lastProbed < h ∧ ∀ k, awaits k → fd.lastProbed < k → h ≤ k) ∨
          ((∀ k, awaits k → k ≤ fd.lastProbed) ∧ ∀ k, awaits k → h ≤ k))) →
      (∀ g spread, use = some (.callIn g spread) → s.award = some { cycle := n, winner := some f } ∧
        (∀ k, ¬ awaits k) ∧ spread = x.spread ∧ fd.state = .opened ∧ fd.dark = false ∧ fd.stray = false ∧
        fd.arrivals.length < 16 ∧ fd.gapCd = 0 ∧
        (fd.splitList.head? = some g ∨ (fd.splitList = [] ∧ fd.rootCd = 0 ∧ g = { value := 0, len := 0 }))) →
      (use = none → ∃ winner, s.award = some { cycle := n, winner := winner } ∧
        (winner = some f → (∀ k, ¬ awaits k) ∧ (fd.state = .paused ∨ fd.dark = true ∨ fd.stray = true ∨
          16 ≤ fd.arrivals.length ∨ fd.gapCd ≠ 0 ∨ (fd.splitList = [] ∧ fd.rootCd ≠ 0)))) →
      (∀ k, k ∈ checks ↔ checkIsDue k ∧ k ∉ moved) → (checks.Pairwise fun j k => wait k < wait j ∨ (wait j = wait k ∧ j < k)) →
      (∀ k, k ∈ datas ↔ dataIsDue k ∧ k ∉ moved) →
      (datas.Pairwise fun j k => if fd.rotation ≤ j then k < fd.rotation ∨ j < k else k < fd.rotation ∧ j < k) →
      c ≤ checks.length → c ≤ 64 → (0 < c → checkEnd c ≤ 16000) →
      (c < checks.length → c = 64 ∨ 16000 < checkEnd (c + 1)) →
      d ≤ datas.length → (0 < d → c = checks.length ∧ c + d ≤ 64 ∧ dataEnd d ≤ 16000) →
      (d < datas.length → c < checks.length ∨ c + d = 64 ∨ 16000 < dataEnd (d + 1)) →
      let checked := checks.take c
      let given := datas.take d
      let called : Feeder :=
        match use with
        | none => fd
        | some (.probe h) => { fd with lastProbed := h }
        | some (.callIn g _) => { fd with
          splitList := fd.splitList.tail
          gapCd := x.callInGap
          rootCd := if g = { value := 0, len := 0 } then x.rootInterval else fd.rootCd
          counters := { fd.counters with windows := satAdd16 fd.counters.windows 1 } }
      let windows := match window with
        | none => s.windows
        | some w => lastTwo (s.windows ++
          [{ feeder := f, cycle := n, window := w, collided := false, clean := 0, answered := false }])
      let checkGrants : List Grant := checked.zipIdx.map fun y =>
        { kind := .check, handle := y.1, offset := checkEnd y.2, length := 48
          confirm := decide (state y.1 = .confirming), answered := false, garbled := false }
      let dataGrants : List Grant := given.zipIdx.map fun y =>
        { kind := .data, handle := y.1, offset := dataEnd y.2, length := len y.1
          confirm := false, answered := false, garbled := false }
      ∃ fd',
        let placed := naming .afterPlacement (State.setFd { found with windows := windows } f fd')
        exec (.cycleBuild f order) s =
          .next (placed.setFd f { placed.fd f with
            nextHeader := some
              { cycle := n, kind := .full, window := window, guard := guard, grants := checkGrants ++ dataGrants
                messages := messages } }) ∧
        fd' = { called with
          table := fd'.table
          checkWait := fd'.checkWait
          rotation := match given.getLast? with
            | none => fd.rotation
            | some h => if h < 255 then h + 1 else 1
          counters := { called.counters with
            dataDeferrals := satAdd16 fd.counters.dataDeferrals (datas.length - d) } } ∧
        ∀ k, 1 ≤ k → k ≤ 255 →
          let r := fd.record k
          fd'.record k =
              { r with
                checkCd := if k ∈ checked ∧ r.state = .inService then (profile k).presence else r.checkCd
                dataCd := if k ∈ given then (profile k).dataInterval else r.dataCd } ∧
            fd'.checkWait[k - 1]? =
              some (if k ∈ checks.drop c then (if wait k < 255 then wait k + 1 else wait k) else 0)) ∧
    (∀ (s : State) (f : FeederId) (order : BuildOrder), s.phase = .running →
      let fd := s.fd f
      let n := s.cycle + 1
      let owed := fun urgent : Bool =>
        (List.range' 1 255).filterMap fun k =>
          (fd.record k).owed.bind fun m =>
            if m.kind.urgent = urgent then some ({ handle := k, msg := m } : QMsg) else none
      (fd.state = .opened ∨ fd.state = .paused) → fd.nextHeader = none → fd.arrivals = [] → fd.urgent = [] →
      fd.ordinary = [] →
      (∀ k, (fd.record k).state = .named ∨ (fd.record k).state = .huntHeld ∨ (fd.record k).state = .hushed ∨
        (fd.record k).state = .free ∨ (fd.record k).state = .ejected) →
      (∃ winner, s.award = some { cycle := n, winner := winner } ∧ winner ≠ some f) →
      (owed false).length ≤ 24 → (owed true).length + (owed false).length ≤ 32 →
      ∃ fd', exec (.cycleBuild f order) s = .next (s.setFd f fd') ∧
        fd' = { fd with
          table := fd'.table
          urgent := owed true
          ordinary := owed false
          checkWait := Vector.replicate 255 0
          nextHeader := some
            { cycle := n, kind := .full, window := none, guard := fd.settings.guard, grants := [], messages := [] } } ∧
        ∀ k, 1 ≤ k → k ≤ 255 → fd'.record k = { fd.record k with owed := none })

/-- What the dispatch of each kind of message does to the record of its handle (R14, R16, R108, R114, R125, R127, R159,
R162, R168), with the settle cycle that of the header. A message that finds its record in a state that does not take it
changes nothing (log entry 13 for a state that no rule names). The RESUME of a target in RELEASING makes the hunt choose
its next target at once (R158, R162). Up to four messages are taken, those of the urgent band first, and their reports run
in that order (R150), here with what the reports offer left to a later header (log entry 11). -/
def Obligations.DispatchChangesRecords : Prop :=
  ∀ (s : State) (f : FeederId) (n : CycleNumber) (h : Nat), 1 ≤ h → h ≤ 255 →
    let fd := s.fd f
    let r := fd.record h
    let p := s.profiles[r.profile]
    let serves := r.state = .levelling ∨ r.state = .inService ∨ r.state = .suspect ∨ r.state = .huntHeld ∨
      r.state = .hushed
    let takes := fun m : Msg =>
      match m with
      | .name _ _ => r.state = .named
      | .delay _ _ => r.state = .probing ∨ serves
      | .step _ => serves
      | .admission => r.state = .levelling
      | .hush => r.state = .huntHeld ∧ fd.hunt.target = some h ∧ fd.hunt.phase = some .hushOffered
      | .resume => r.state = .huntHeld ∨ r.state = .hushed
      | .eject _ => r.state = .ejected
    let becomes := fun (m : Msg) (r' : Record) => s.report f n { handle := h, msg := m } = s.setFd f (fd.setRecord h r')
    (∀ serial eqd, r.state = .named →
        becomes (.name serial eqd) { r with state := .confirming, settle := some n }) ∧
      (∀ eqd residue, r.state = .probing →
        becomes (.delay eqd (some residue))
          { r with state := .confirming, eqd := eqd, residue := residue, settle := some n, driftRun := 0 }) ∧
      (∀ eqd, serves → becomes (.delay eqd none) { r with eqd := eqd, settle := some n, driftRun := 0 }) ∧
      (serves → r.levelSetting < 7 →
        becomes (.step true)
          { r with levelSetting := r.levelSetting + 1, settle := some n, pace := fd.settings.levelPace }) ∧
      (serves → 0 < r.levelSetting →
        becomes (.step false)
          { r with levelSetting := r.levelSetting - 1, settle := some n, pace := fd.settings.levelPace }) ∧
      (r.state = .levelling →
        s.report f n { handle := h, msg := .admission } =
          (s.setFd f (fd.setRecord h { r with
            state := .inService
            grace := p.grace
            checkCd := p.presence
            dataCd := 1
            miss := 0
            suspectLeft := 0
            levelRun := 0
            walking := false })).raise .admitted
            { feeder := some f, handle := some h, serial := r.serial
              dwelling := r.planLink.map fun i => (s.planAt i).dwelling }) ∧
      (r.state = .huntHeld → fd.hunt.target = some h → fd.hunt.phase = some .hushOffered →
        s.report f n { handle := h, msg := .hush } =
          s.setFd f { fd with
            hunt := { fd.hunt with phase := some .watching, hushCycle := some n, watchCd := 4, absence := 0 } }) ∧
      (∀ held st, r.state = .huntHeld → r.heldFrom = some held →
        (held = .inService ∧ st = .inService) ∨ (held = .suspect ∧ st = .suspect) →
        let freed := s.setFd f (fd.setRecord h { r with state := st, heldFrom := none })
        let after := s.report f n { handle := h, msg := .resume }
        (¬ (fd.hunt.target = some h ∧ fd.hunt.phase = some .releasing) → after = freed) ∧
          (fd.hunt.target = some h → fd.hunt.phase = some .releasing → HuntChooses freed f after)) ∧
      (r.state = .hushed →
        becomes .resume { r with state := .inService, miss := 0, suspectLeft := 0, checkCd := 0, recCd := 16 }) ∧
      (∀ reason, r.state = .ejected → becomes (.eject reason) { r with drain := some 4 }) ∧
      (∀ m, ¬ takes m → s.report f n { handle := h, msg := m } = s) ∧
      (s.dispatch f n false).2.1 = (fd.urgent ++ fd.ordinary).take 4 ∧
      (s.dispatch f n false).1 = ((fd.urgent ++ fd.ordinary).take 4).foldl (fun u q => u.report f n q)
        (s.setFd f { fd with
          urgent := fd.urgent.drop 4, ordinary := fd.ordinary.drop (4 - fd.urgent.length) })

/-- The offers of R147 and R148 and the owed message of R149: what an ordinary and an urgent message of a record do to the
bands, the record's owed message and QUEUE_FULL_SEEN. -/
def Obligations.MessageOffersFillQueue : Prop :=
  (∀ (r : Record) (m : Msg),
    (r.owed = none → r.owe m = { r with owed := some m }) ∧
      ∀ o, r.owed = some o →
        (o.kind = m.kind → r.owe m = { r with owed := some m }) ∧
        (o.kind.urgent = false → r.owe m = { r with owed := some m }) ∧
        (o.kind.urgent = true → m.kind.urgent = false → r.owe m = r) ∧
        (o.kind.urgent = true → m.kind.urgent = true → r.owe m = { r with owed := some m })) ∧
    ∀ (fd : Feeder) (h : Nat) (m : Msg), 1 ≤ h → h ≤ 255 →
      let r := fd.record h
      let stands := fun band : List QMsg => ∃ q ∈ band, q.handle = h ∧ q.msg.kind = m.kind
      let inPlace := fun band : List QMsg =>
        band.map fun q => if q.handle = h ∧ q.msg.kind = m.kind then { handle := h, msg := m } else q
      let room := fd.ordinary.length < 24 ∧ fd.urgent.length + fd.ordinary.length < 32
      let owes := fun fd : Feeder => fd.setRecord h ((fd.record h).owe m)
      let full := fun fd : Feeder => { fd with latched := { fd.latched with queueFull := true } }
      (stands fd.ordinary → fd.offerOrdinary h m = { fd with ordinary := inPlace fd.ordinary }) ∧
        (¬ stands fd.ordinary → r.owed ≠ none → fd.offerOrdinary h m = owes fd) ∧
        (¬ stands fd.ordinary → r.owed = none → room →
          fd.offerOrdinary h m = { fd with ordinary := fd.ordinary ++ [{ handle := h, msg := m }] }) ∧
        (¬ stands fd.ordinary → r.owed = none → ¬ room → fd.offerOrdinary h m = full (owes fd)) ∧
        (stands fd.urgent → fd.offerUrgent h m = { fd with urgent := inPlace fd.urgent }) ∧
        (¬ stands fd.urgent → fd.urgent.length + fd.ordinary.length < 32 →
          fd.offerUrgent h m = { fd with urgent := fd.urgent ++ [{ handle := h, msg := m }] }) ∧
        (∀ older q, ¬ stands fd.urgent → 32 ≤ fd.urgent.length + fd.ordinary.length → fd.ordinary = older ++ [q] →
          fd.offerUrgent h m =
            full
              { (fd.setRecord q.handle ((fd.record q.handle).owe q.msg)) with
                ordinary := older
                urgent := fd.urgent ++ [{ handle := h, msg := m }] }) ∧
        (¬ stands fd.urgent → 32 ≤ fd.urgent.length + fd.ordinary.length → fd.ordinary = [] →
          fd.offerUrgent h m = full (owes fd))

/-! ## The upstream -/

/-- CLEAN_BURST_ARRIVAL of a call-in in a call-in window of an open feeder: the window counts it, and its needed delay
Q8 = 8·(A + 16·D) − M8 disposes of it (R64, R104, R105, R107): beyond reach raises OUT_OF_REACH, early counts as malformed,
and one in range goes to the Admission Unit with EqD = (Q8 + 4) / 8 and residue Q8 − 8·EqD of the clamped Q8. -/
def Obligations.CallInIsMeasured : Prop :=
  ∀ (s : State) (f : FeederId) (n : CycleNumber) (m8 level : Nat) (serial : Serial) (slot attempts firmware : Byte)
      (m : HeldMap) (w : WindowRecord) (g : Subgroup) (spread : Spread), s.phase = .running →
    (s.fd f).state = .opened ∨ (s.fd f).state = .paused → (s.fd f).mapOf n = some m → s.windowOf f n = some w →
    w.window.use = .callIn g spread → m8 < 8 * w.window.spanEnd →
    let reach := match (s.fd f).settings.reach with | .near => 2000 | .mid => 4000 | .far => 6000 | .extended => 8000
    let q : Int := 8 * ((w.window.grantOffset : Int) + 16 * slot.toNat) - m8
    let clamped : Int := max 0 (min q (8 * reach))
    let eqd : Int := (clamped + 4) / 8
    let counted : State :=
      (s.setFd f { s.fd f with
        heldMaps := (s.fd f).heldMaps.map fun x => if x.cycle = n then { x with burstSeen := true } else x }).modWindow f n
        fun x => { x with clean := x.clean + 1 }
    let after := exec (.cleanBurst f n m8 level (.callIn serial slot attempts firmware)) s
    (q < -4 → after = .next (counted.raise .outOfReach { feeder := some f, serial := some serial })) ∧
      (8 * reach + 4 < q →
        after = .next (counted.modFd f fun fd =>
          { fd with counters := { fd.counters with malformed := satAdd16 fd.counters.malformed 1 } })) ∧
      (-4 ≤ q → q ≤ 8 * reach + 4 →
        0 ≤ eqd ∧ eqd ≤ reach ∧ -4 ≤ clamped - 8 * eqd ∧ clamped - 8 * eqd ≤ 3 ∧
          after = .next (counted.admitCallIn f serial
            { eqd := eqd.toNat, residue := clamped - 8 * eqd, level := level, cycle := n, attempts := attempts
              firmware := firmware.setWidth 4 }))

/-- The steps of the Admission Unit for a call-in that is handed on (R88, R90, R91, R94): a barred serial is counted; a
live record of the feeder ignores it in EJECTED and NAMED and while its naming settles, and is ejected as REBOOTED in any
other state; a live record of the other feeder raises DUPLICATE_SERIAL; an arrival of the serial takes the new
measurement; a full list drops it; otherwise it joins the list by the outcome of the plan, which leaves the expiry list.
EJECTED is raised before REBOOTED by the model's choice (log entry 17).
The naming of a build: a feeder OPEN or PAUSED goes through its arrivals in order and passes over HELD ones (R99). A READY
one without a FREE record stops it with FEEDER_FULL, raised once while armed (R102), one without room in the ordinary band
stops it too. Any other is checked once more (R100): a live record of the serial, on either feeder, removes it with
DUPLICATE_SERIAL; one of source PLAN takes the outcome its match now has, which PlanMatching states, and may become HELD in
its place with a new decision countdown; one of source COMMAND keeps its profile, and its link while the entry still stands
for it. To be named it takes the lowest FREE record, filled as R9 says; the plan takes the link, NAME joins the ordinary
band, every arrival of the serial leaves both lists, and NAMED is raised (R101). In a build that asks for naming behind its
re-offers or its placement, and has no other work, this naming is all that happens beside the empty header. -/
def Obligations.AdmissionSteps : Prop :=
  (∀ (s : State) (f : FeederId) (serial : Serial) (x : Measurement),
      let fd := s.fd f
      let after := s.admitCallIn f serial x
      let barred := ∃ b ∈ s.bars, b.serial = serial
      let holds := fun (g : FeederId) (h : Nat) =>
        1 ≤ h ∧ h ≤ 255 ∧ (s.record g h).state ≠ .free ∧ (s.record g h).serial = some serial
      (barred →
          after = s.setFd f { fd with
            counters := { fd.counters with barredCallIns := satAdd16 fd.counters.barredCallIns 1 } }) ∧
        (∀ h, ¬ barred → holds f h → (∀ k, holds f k → k = h) →
          let r := fd.record h
          let settling := r.state = .confirming ∧ ∃ c, r.settle = some c ∧ (x.cycle + 1 = c ∨ x.cycle + 2 = c)
          (r.state = .ejected ∨ r.state = .named ∨ settling → after = s) ∧
            (r.state ≠ .ejected → r.state ≠ .named → ¬ settling →
              after = (s.eject f h .rebooted).raise .rebooted
                { feeder := some f, handle := some h, serial := some serial
                  dwelling := r.planLink.map fun i => (s.planAt i).dwelling })) ∧
        (¬ barred → (∀ h, ¬ holds f h) →
          ((∃ h, holds f.other h) → after = s.raise .duplicateSerial { feeder := some f, serial := some serial }) ∧
            ((∀ h, ¬ holds f.other h) →
              ((∃ a ∈ fd.arrivals, a.serial = serial) →
                after = s.setFd f { fd with
                  arrivals := fd.arrivals.map fun a => if a.serial = serial then { a with measured := x } else a }) ∧
              ((∀ a ∈ fd.arrivals, a.serial ≠ serial) → 16 ≤ fd.arrivals.length →
                after = s.setFd f { fd with
                  counters := { fd.counters with arrivalsOverflow := satAdd16 fd.counters.arrivalsOverflow 1 }
                  latched := { fd.latched with arrivalsFull := true } }) ∧
              ((∀ a ∈ fd.arrivals, a.serial ≠ serial) → fd.arrivals.length < 16 →
                let o := s.matchPlan f serial
                let joined := fun status : ArrivalStatus =>
                  s.setFd f { fd with
                    arrivals := fd.arrivals ++ [{ serial := serial, status := status, link := o.2, measured := x }]
                    expired := fd.expired.filter fun e => decide (e ≠ serial)
                    latched := if fd.arrivals.length = 15 then { fd.latched with arrivalsFull := true } else fd.latched }
                (∀ p, o.1 = .ready p → after = joined (.readyPlan p)) ∧
                ∀ reason, o.1 = .held reason →
                  after = (joined (.held reason fd.settings.decisionCycles)).raise .arrivalHeld
                    { feeder := some f, serial := some serial, reason := some (.held reason)
                      dwelling := o.2.map fun l => (s.planAt l.index).dwelling })))) ∧
    (∀ (s : State) (f : FeederId) (a : Arrival) (rest : List Arrival),
      let fd := s.fd f
      let noRecord := ∀ h, 1 ≤ h → h ≤ 255 → (fd.record h).state ≠ .free
      let room := fd.ordinary.length < 24 ∧ fd.urgent.length + fd.ordinary.length < 32
      let held := ∃ reason n, a.status = .held reason n
      let holds := ∃ g h, 1 ≤ h ∧ h ≤ 255 ∧ (s.record g h).state ≠ .free ∧ (s.record g h).serial = some a.serial
      let after := s.nameAll f (a :: rest)
      let named := fun (link : Option Nat) (profile : Fin 8) =>
        ∀ h, (fd.record h).state = .free → 1 ≤ h → h ≤ 255 →
          (∀ k, 1 ≤ k → k < h → (fd.record k).state ≠ .free) →
          (∀ q ∈ fd.ordinary, ¬ (q.handle = h ∧ q.msg.kind = .name)) →
          let filled : Record :=
            { freeRecord with
              state := .named
              serial := some a.serial
              planLink := link
              profile := profile
              eqd := a.measured.eqd
              residue := a.measured.residue
              lastLevel := some a.measured.level
              levelSetting := 3 }
          let taken : State := s.setFd f { (fd.setRecord h filled) with
            ordinary := fd.ordinary ++ [{ handle := h, msg := .name a.serial a.measured.eqd }] }
          let linked : State :=
            match link with
            | none => taken
            | some i =>
              let e := s.planAt i
              taken.setPlan i
                (match e.kind with
                | .exact => { e with claim := some (f, h) }
                | .pattern => { e with count := e.count.map fun n => n + 1 })
          let unlisted := fun x : Feeder => { x with arrivals := x.arrivals.filter fun b => decide (b.serial ≠ a.serial) }
          after = (State.raise { linked with feederA := unlisted linked.feederA, feederB := unlisted linked.feederB } .named
            { feeder := some f, handle := some h, serial := some a.serial
              dwelling := link.map fun i => (s.planAt i).dwelling }).nameAll f rest
      (fd.state = .opened ∨ fd.state = .paused → s.name f = s.nameAll f fd.arrivals) ∧
        (fd.state ≠ .opened → fd.state ≠ .paused → s.name f = s) ∧
        s.nameAll f [] = s ∧
        (held → after = s.nameAll f rest) ∧
        (¬ held → noRecord →
          (fd.fullArmed = true →
            after = (s.setFd f { fd with fullArmed := false }).raise .feederFull { feeder := some f }) ∧
            (fd.fullArmed = false → after = s)) ∧
        (¬ held → ¬ noRecord → ¬ room → after = s) ∧
        (¬ held → ¬ noRecord → room → holds →
          after = ((s.setFd f { fd with arrivals := fd.arrivals.filter fun b => decide (b.serial ≠ a.serial) }).raise
            .duplicateSerial { feeder := some f, serial := some a.serial }).nameAll f rest) ∧
        (∀ p, a.status = .readyCommand p → ¬ noRecord → room → ¬ holds →
          let stands := fun l : ArrivalLink =>
            let e := s.planAt l.index
            e.inUse = true ∧ e.kind = l.kind ∧
              (e.kind = .exact → e.serial = a.serial ∧ e.claim = none) ∧
              (e.kind = .pattern →
                ∃ mask n limit, e.mask = some mask ∧ a.serial &&& mask = e.serial &&& mask ∧ e.count = some n ∧
                  e.limit = some limit ∧ n < limit)
          let whole := fun l : ArrivalLink =>
            let e := s.planAt l.index
            e.kind = .pattern → e.mask ≠ none ∧ e.count ≠ none ∧ e.limit ≠ none
          (a.link = none → named none p) ∧
            ∀ l, a.link = some l → whole l → (stands l → named (some l.index) p) ∧ (¬ stands l → named none p)) ∧
        (∀ p p', a.status = .readyPlan p → ¬ noRecord → room → ¬ holds → (s.matchPlan f a.serial).1 = .ready p' →
          named ((s.matchPlan f a.serial).2.map fun l => l.index) p') ∧
        (∀ p reason, a.status = .readyPlan p → ¬ noRecord → room → ¬ holds →
          (s.matchPlan f a.serial).1 = .held reason →
          let link := (s.matchPlan f a.serial).2
          after = ((s.setFd f { fd with
              arrivals := fd.arrivals.map fun b =>
                if b.serial = a.serial then { b with status := .held reason fd.settings.decisionCycles, link := link }
                else b }).raise .arrivalHeld
            { feeder := some f, serial := some a.serial, reason := some (.held reason)
              dwelling := link.map fun l => (s.planAt l.index).dwelling }).nameAll f rest)) ∧
    (∀ (s : State) (f : FeederId) (order : BuildOrder), s.phase = .running →
      let fd := s.fd f
      let n := s.cycle + 1
      (fd.state = .opened ∨ fd.state = .paused) → fd.nextHeader = none → fd.urgent = [] → fd.ordinary = [] →
      (∀ k, (fd.record k).owed = none) →
      (∀ k, (fd.record k).state = .named ∨ (fd.record k).state = .huntHeld ∨ (fd.record k).state = .hushed ∨
        (fd.record k).state = .free ∨ (fd.record k).state = .ejected) →
      (∃ winner, s.award = some { cycle := n, winner := winner } ∧ winner ≠ some f) →
      order.naming = .afterReoffers ∨ order.naming = .afterPlacement →
      exec (.cycleBuild f order) s =
        .next ((s.name f).setFd f { (s.name f).fd f with
          checkWait := Vector.replicate 255 0
          nextHeader := some
            { cycle := n, kind := .full, window := none, guard := fd.settings.guard, grants := [], messages := [] } }))

/-- Matching a serial against the plan: an in-use EXACT entry that holds the serial decides it, otherwise the lowest in-use
PATTERN entry for the feeder whose masked bits agree, and otherwise it is UNPLANNED without a link (R92, R93). -/
def Obligations.PlanMatching : Prop :=
  ∀ (s : State) (f : FeederId) (serial : Serial),
    let admits := fun e : PlanEntry => e.expected = .any ∨ e.expected = (match f with | .A => .A | .B => .B)
    let isExact := fun i : Nat => (s.planAt i).inUse = true ∧ (s.planAt i).kind = .exact ∧ (s.planAt i).serial = serial
    let isPattern := fun i : Nat =>
      (s.planAt i).inUse = true ∧ (s.planAt i).kind = .pattern ∧ admits (s.planAt i) ∧
        ∀ mask, (s.planAt i).mask = some mask → serial &&& mask = (s.planAt i).serial &&& mask
    (∀ i, i < 512 → isExact i → (∀ j, j < i → ¬ isExact j) →
        let e := s.planAt i
        s.matchPlan f serial =
          (if ¬ admits e then .held .wrongFeeder else if e.hold = true then .held .planHold
            else if s.holdover = true ∧ e.preAuth = false then .held .holdover else .ready e.profile,
            some { index := i, kind := .exact })) ∧
      (∀ i mask, i < 512 → (∀ j, j < 512 → ¬ isExact j) → (s.planAt i).mask = some mask → isPattern i →
        (∀ j, j < i → (s.planAt j).inUse = true → (s.planAt j).kind = .pattern → ∃ m, (s.planAt j).mask = some m) →
        (∀ j, j < i → ¬ isPattern j) →
        let e := s.planAt i
        s.matchPlan f serial =
          (if e.count = e.limit then .held .patternFull
            else if e.hold = true ∨ e.auto = false then .held .planHold
            else if s.holdover = true ∧ e.preAuth = false then .held .holdover else .ready e.profile,
            some { index := i, kind := .pattern })) ∧
      ((∀ j, j < 512 → ¬ isExact j) →
        (∀ j, j < 512 → (s.planAt j).inUse = true → (s.planAt j).kind = .pattern →
          ∃ m, (s.planAt j).mask = some m ∧ ¬ isPattern j) →
        s.matchPlan f serial = (.held .unplanned, none))

/-- CLEAN_BURST_ARRIVAL of a probe, the first of its window's handle (R65, R112). A record that is not PROBING is left as
it is. A probe that carries another serial fails. Any other writes the record's last level, and its needed delay, sorted as
R104 says, decides: beyond reach, the record is ejected with OUT_OF_REACH, whose notice follows EJECTED by the model's choice
(log entry 17); early, which takes a grant offset above the feeder's reach, the probe fails; in range, a DELAY with the new
EqD of R105 and its companion residue is offered. A failed probe counts an attempt, and the fourth ejects the record with
NO_CONFIRM, which bars its serial (R113). A record that is ejected here is none that the hunt holds as its target. -/
def Obligations.ProbeOffersDelay : Prop :=
  ∀ (s : State) (f : FeederId) (n : CycleNumber) (m8 level : Nat) (handle : Byte) (serial : Serial) (m : HeldMap)
      (w : WindowRecord), s.phase = .running →
    (s.fd f).state = .opened ∨ (s.fd f).state = .paused → (s.fd f).mapOf n = some m → s.windowOf f n = some w →
    w.window.use = .probe handle.toNat → m8 < 8 * w.window.spanEnd → w.answered = false → handle.toNat ≠ 0 →
    let h := handle.toNat
    let r := (s.fd f).record h
    let reach := match (s.fd f).settings.reach with | .near => 2000 | .mid => 4000 | .far => 6000 | .extended => 8000
    let q : Int := 8 * (w.window.grantOffset : Int) - m8
    let clamped : Int := max 0 (min q (8 * reach))
    let eqd : Int := (clamped + 4) / 8
    let marked : State :=
      (s.setFd f { s.fd f with
        heldMaps := (s.fd f).heldMaps.map fun x => if x.cycle = n then { x with burstSeen := true } else x }).modWindow f n
        fun x => { x with answered := true }
    let after := exec (.cleanBurst f n m8 level (.probe handle serial)) s
    let sets := fun r' : Record => marked.modFd f fun fd => fd.setRecord h r'
    let heard := { r with lastLevel := some level }
    let fails := fun r' : Record =>
      (r.eqAttempts < 3 → after = .next (sets { r' with eqAttempts := r.eqAttempts + 1 })) ∧
        (3 ≤ r.eqAttempts → (s.fd f).hunt.target ≠ some h →
          after = .next (State.barringEjection (sets { r' with eqAttempts := r.eqAttempts + 1 }) f h .noConfirm))
    (r.state ≠ .probing → after = .next marked) ∧
      (r.state = .probing → r.serial ≠ some serial → fails r) ∧
      (r.state = .probing → r.serial = some serial →
        (q < -4 → (s.fd f).hunt.target ≠ some h →
          after = .next ((State.ejection (sets heard) f h .outOfReach).raise .outOfReach
            { feeder := some f, handle := some h, serial := r.serial
              dwelling := r.planLink.map fun i => (s.planAt i).dwelling })) ∧
        (8 * reach + 4 < q → fails heard) ∧
        (-4 ≤ q → q ≤ 8 * reach + 4 →
          after = .next ((sets heard).modFd f fun fd =>
            fd.offerOrdinary h (.delay eqd.toNat (some (clamped - 8 * eqd))))))

/-- CLEAN_BURST_ARRIVAL of a CHECK burst, the first for its grant, and what each block does with it (R109, R115, R116,
R122, R124, R126, R128, R129, R140, R171, R172, R174). Blocks are taken in the model's order: timing, level, condition word,
answer (log entry 16).
A settle burst only answers. A CONFIRMING record's burst within 16 eighths makes it LEVELLING and goes on to its level and
its condition word; any other enters PROBING and is counted when it is misplaced, more than 512 eighths off. A burst of a
LEVELLING, IN_SERVICE or SUSPECT record is misplaced, which moves the misplaced run and at 3 enters PROBING, or makes that
run 0 and goes to the drift watch, whose effect DriftRunFollowsBursts states. Then, unless this has ejected the record, its
level code is taken: the last level is written; a LEVELLING record without an ADMIT, or an IN_SERVICE one that walks, takes
the walk step, and an IN_SERVICE one that does not moves its level run, which at 4 starts a walk; the walk steps, waits, or
ends inside or at the edge, where LEVEL_EDGE is set and noticed once; at an end the unsent STEP is removed before a LEVELLING
record's ADMIT is offered by the model's choice (log entry 40). Then the condition word is taken: MAINS_FAILING as bit
0 rises, and a word taken twice becomes confirmed, with CONDITION as the watch decides. Then the check is answered, which
returns a SUSPECT record to IN_SERVICE. The first clauses write out what that leaves in plain cases. A record about to enter
PROBING is none that the hunt holds as its target. -/
def Obligations.CheckBurstIsJudged : Prop :=
  (∀ (s : State) (f : FeederId) (n : CycleNumber) (m8 level : Nat) (handle w : Byte) (m : HeldMap) (g : Grant),
      s.phase = .running → (s.fd f).state = .opened ∨ (s.fd f).state = .paused → (s.fd f).mapOf n = some m →
      m.grant .check handle.toNat = some g → g.answered = false → handle.toNat ≠ 0 →
      let fd := s.fd f
      let h := handle.toNat
      let r := fd.record h
      let x := fd.settings
      let d8 : Int := (m8 : Int) - 8 * g.offset
      let run := driftRunAfter x.driftTrip r.driftRun d8
      let answeredMaps := fd.heldMaps.map fun y => if y.cycle = n then { y with
        burstSeen := true
        grants := y.grants.map fun k => if k.kind = .check ∧ k.handle = h then { k with answered := true } else k } else y
      let answered := s.setFd f { fd with heldMaps := answeredMaps }
      let after := exec (.cleanBurst f n m8 level (.check handle w)) s
      let leaves := fun r' : Record => after = .next (s.setFd f { (fd.setRecord h r') with heldMaps := answeredMaps })
      let word := fun r' : Record => { r' with
        mainsFailing := w.getLsbD 0
        candidate := if w = r.confirmed ∨ r.candidate = some w then none else some w
        confirmed := if w ≠ r.confirmed ∧ r.candidate = some w then w else r.confirmed }
      let quiet := (w.getLsbD 0 = true → r.mainsFailing = true) ∧
        (w = r.confirmed ∨ r.candidate ≠ some w ∨ fd.watch = ⟨.event, 0x00#8, 0x00#8⟩)
      (r.settle = some n → r.state = .inService → leaves { r with miss := 0, grace := r.grace - 1 }) ∧
        (r.settle ≠ some n → r.state = .inService → d8.natAbs ≤ 512 → run.natAbs < x.driftRun → r.walking = false →
          level ≤ x.levelHigh + 2 → x.levelLow ≤ level + 2 → quiet →
          leaves (word { r with
            misplacedRun := 0
            driftRun := run
            lastLevel := some level
            levelRun := 0
            miss := 0
            grace := r.grace - 1 })) ∧
        (r.settle ≠ some n → r.state = .suspect → d8.natAbs ≤ 512 → run.natAbs < x.driftRun → quiet →
          leaves (word { r with
            misplacedRun := 0
            driftRun := run
            lastLevel := some level
            state := .inService
            miss := 0
            suspectLeft := 0
            checkCd := s.profiles[r.profile].presence })) ∧
        (r.settle ≠ some n → r.state = .confirming → 16 < d8.natAbs → d8.natAbs ≤ 512 → r.eqAttempts < 3 →
          after = .next (s.setFd f
            { (fd.setRecord h { r with
                state := .probing
                eqAttempts := r.eqAttempts + 1
                driftRun := 0
                misplacedRun := 0
                levelRun := 0
                walking := false
                owed := r.owed.filter fun msg => msg.kind.urgent }) with
              heldMaps := answeredMaps
              ordinary := fd.ordinary.filter fun q => decide (q.handle ≠ h) })) ∧
        (r.settle = some n → after = .next (answered.answerCheck f h)) ∧
        (r.settle ≠ some n → r.state = .confirming → d8.natAbs ≤ 16 →
          after = .next (State.takeCondition ((answered.judgeConfirm f h d8).takeLevel f h .confirming level) f h w)) ∧
        (r.settle ≠ some n → r.state = .confirming → 16 < d8.natAbs → after = .next (answered.judgeConfirm f h d8)) ∧
        (r.settle ≠ some n → r.state = .levelling ∨ r.state = .inService ∨ r.state = .suspect →
          ∀ timed, (512 < d8.natAbs ∧ timed = answered.misplace f h) ∨ (d8.natAbs ≤ 512 ∧
              timed = State.watchDrift (answered.setFd f
                ((answered.fd f).setRecord h { r with misplacedRun := 0 })) f h d8) →
            ((timed.record f h).state = .ejected → after = .next timed) ∧
            ((timed.record f h).state ≠ .ejected →
              after = .next (State.answerCheck
                ((timed.takeLevel f h r.state level).takeCondition f h w) f h))) ∧
        (r.state = .named ∨ r.state = .huntHeld ∨ r.state = .hushed ∨ r.state = .ejected ∨ r.state = .probing ∨
            r.state = .free → r.settle ≠ some n → leaves r)) ∧
    ∀ (s : State) (f : FeederId) (h : Nat), 1 ≤ h → h ≤ 255 →
      let fd := s.fd f
      let r := fd.record h
      let x := fd.settings
      let sets := fun r' : Record => s.setFd f (fd.setRecord h r')
      let dwelling := r.planLink.map fun i => (s.planAt i).dwelling
      let misplacedCount := { fd.counters with misplaced := satAdd16 fd.counters.misplaced 1 }
      (∀ d8 : Int, r.state = .confirming →
        (d8.natAbs ≤ 16 → s.judgeConfirm f h d8 = sets { r with state := .levelling, driftRun := 0, misplacedRun := 0 }) ∧
        (16 < d8.natAbs → d8.natAbs ≤ 512 → fd.hunt.target ≠ some h → ProbingEntry s f h (s.judgeConfirm f h d8)) ∧
        (512 < d8.natAbs → fd.hunt.target ≠ some h →
          ProbingEntry (s.setFd f { fd with counters := misplacedCount }) f h (s.judgeConfirm f h d8))) ∧
      (r.state = .levelling ∨ r.state = .inService ∨ r.state = .suspect →
        let counted := fun k => s.setFd f { (fd.setRecord h { r with misplacedRun := k }) with counters := misplacedCount }
        (r.misplacedRun < 2 → s.misplace f h = counted (r.misplacedRun + 1)) ∧
        (2 ≤ r.misplacedRun → r.misplacedRun ≤ 3 → fd.hunt.target ≠ some h →
          ProbingEntry (counted 3) f h (s.misplace f h))) ∧
      ((r.state = .levelling → s.answerCheck f h = sets { r with miss := 0 }) ∧
        (r.state = .inService → s.answerCheck f h = sets { r with miss := 0, grace := r.grace - 1 }) ∧
        (r.state = .suspect → s.answerCheck f h = sets { r with
          state := .inService, miss := 0, suspectLeft := 0, checkCd := s.profiles[r.profile].presence }) ∧
        (r.state ≠ .levelling → r.state ≠ .inService → r.state ≠ .suspect → s.answerCheck f h = s)) ∧
      (∀ c : Nat,
        let noted := sets { r with lastLevel := some c }
        let admits := (∃ q ∈ fd.ordinary, q.handle = h ∧ q.msg = .admission) ∨ r.owed = some .admission
        (∀ before, r.state = .levelling →
          (admits → s.takeLevel f h before c = noted) ∧ (¬ admits → s.takeLevel f h before c = noted.walk f h c)) ∧
        (∀ before, before ≠ .suspect → r.state = .inService →
          (r.walking = true → s.takeLevel f h before c = noted.walk f h c) ∧
          (r.walking = false → s.takeLevel f h before c = noted.watchLevel f h c)) ∧
        (∀ before, r.state = .suspect ∨ r.state = .probing → s.takeLevel f h before c = noted) ∧
        (let outside := x.levelHigh + 2 < c ∨ c + 2 < x.levelLow
         (¬ outside → s.watchLevel f h c = sets { r with levelRun := 0 }) ∧
          (outside → r.levelRun < 3 → s.watchLevel f h c = sets { r with levelRun := r.levelRun + 1 }) ∧
          (outside → 3 ≤ r.levelRun →
            s.watchLevel f h c = State.walk (sets { r with walking := true, levelRun := 0 }) f h c)) ∧
        (let above := x.levelHigh < c
         let below := c ≤ x.levelHigh ∧ c < x.levelLow
         let edge := (above ∧ 7 ≤ r.levelSetting) ∨ (below ∧ r.levelSetting = 0)
         let possible := (above ∧ r.levelSetting < 7) ∨ (below ∧ 0 < r.levelSetting)
         let ended := fun r' : Record =>
          let r' := { r' with owed := r'.owed.filter fun msg => decide (msg.kind ≠ MsgKind.step) }
          let unsent := { fd with
            ordinary := fd.ordinary.filter fun q => !(decide (q.handle = h) && decide (q.msg.kind = MsgKind.step)) }
          if r.state = .levelling then (unsent.setRecord h r').offerOrdinary h .admission
          else unsent.setRecord h { r' with walking := false, levelRun := 0 }
         let atEdge := s.setFd f (ended { r with levelEdge := true })
         (possible → 0 < r.pace → s.walk f h c = s) ∧
          (above → possible → r.pace = 0 → s.walk f h c = s.setFd f (fd.offerOrdinary h (.step true))) ∧
          (below → possible → r.pace = 0 → s.walk f h c = s.setFd f (fd.offerOrdinary h (.step false))) ∧
          (¬ above → ¬ below → s.walk f h c = s.setFd f (ended r)) ∧
          (edge → r.levelEdge = true → s.walk f h c = atEdge) ∧
          (edge → r.levelEdge = false →
            s.walk f h c = atEdge.raise .levelEdge
              { feeder := some f, handle := some h, serial := r.serial, level := r.lastLevel, dwelling := dwelling }))) ∧
      ∀ w : Byte,
        let r := { r with mainsFailing := w.getLsbD 0 }
        let heard := fun r' : Record =>
          if w.getLsbD 0 = true ∧ (fd.record h).mainsFailing = false then
            (sets r').raise .mainsFailing
              { feeder := some f, handle := some h, serial := r.serial, dwelling := dwelling }
          else sets r'
        let watch := fd.watch
        let raises :=
          match watch.mode with
          | .event => (r.confirmed ^^^ w) &&& watch.mask ≠ 0#8
          | .matching => w &&& watch.mask = watch.compare &&& watch.mask ∧
            r.confirmed &&& watch.mask ≠ watch.compare &&& watch.mask
        (w = r.confirmed → s.takeCondition f h w = heard { r with candidate := none }) ∧
          (w ≠ r.confirmed → r.candidate ≠ some w → s.takeCondition f h w = heard { r with candidate := some w }) ∧
          (w ≠ r.confirmed → r.candidate = some w →
            (¬ raises → s.takeCondition f h w = heard { r with confirmed := w, candidate := none }) ∧
            (raises → s.takeCondition f h w = (heard { r with confirmed := w, candidate := none }).raise .condition
              { feeder := some f, handle := some h, serial := r.serial, dwelling := dwelling
                words := some (r.confirmed, w) }))

/-- The drift watch: a burst that leans late or early moves the run by its sign, up to 15 either way, one within the trip
makes it 0, and a run that has reached DRIFT_RUN computes a correction from this burst (R117). The new EqD is offered as a
DELAY without a companion, or the run becomes 0 when the EqD does not change (R118). A clamp of the new EqD sets REACH_EDGE,
with its notice when the flag was clear (R119). -/
def Obligations.DriftRunFollowsBursts : Prop :=
  ∀ (s : State) (f : FeederId) (h : Nat) (d8 : Int), 1 ≤ h → h ≤ 255 →
    let x := (s.fd f).settings
    let r := s.record f h
    let late := 8 * (x.driftTrip : Int) < d8
    let early := d8 < -(8 * (x.driftTrip : Int))
    let run : Int :=
      if late then (if r.driftRun < 0 then 0 else if r.driftRun < 15 then r.driftRun + 1 else 15)
      else if early then (if 0 < r.driftRun then 0 else if -15 < r.driftRun then r.driftRun - 1 else -15)
      else 0
    let moved := s.setFd f ((s.fd f).setRecord h { r with driftRun := run })
    (run = 0 ∨ run.natAbs < x.driftRun → s.watchDrift f h d8 = moved) ∧
      (run ≠ 0 → x.driftRun ≤ run.natAbs →
        let corr : Int := if 0 ≤ d8 then min 8 ((d8 + 4) / 8) else -(min 8 ((-d8 + 4) / 8))
        let raw : Int := (r.eqd : Int) - corr
        let reach : Int := match x.reach with | .near => 2000 | .mid => 4000 | .far => 6000 | .extended => 8000
        let new : Int := max 0 (min raw reach)
        let flagged := s.setFd f ((s.fd f).setRecord h { r with driftRun := run, reachEdge := true })
        let edged : State :=
          if new = raw then moved
          else if r.reachEdge then flagged
          else
            flagged.raise .reachEdge
              { feeder := some f, handle := some h, serial := r.serial
                dwelling := r.planLink.map fun i => (s.planAt i).dwelling }
        (new ≠ (r.eqd : Int) →
          s.watchDrift f h d8 = edged.modFd f fun fd => fd.offerOrdinary h (.delay new.toNat none)) ∧
        (new = (r.eqd : Int) →
          s.watchDrift f h d8 = edged.modFd f fun fd => fd.setRecord h { fd.record h with driftRun := 0 }))

/-- CLEAN_BURST_ARRIVAL of a DATA burst (R115, R139, R180, R181). A burst without an unanswered DATA grant drops and counts
its frames. The first burst of its grant answers it. When its record is LEVELLING, IN_SERVICE or SUSPECT and it is no settle
burst, it is judged for timing: one more than 512 eighths off goes to the misplaced watch, whose effect CheckBurstIsJudged
states, and its frames are dropped and counted; any other makes the misplaced run 0 and goes to the drift watch, whose
effect DriftRunFollowsBursts states. A burst of an IN_SERVICE or SUSPECT record that is not misplaced has its frames
forwarded with the tag of its feeder and handle: those whose own check is good, in order, while the upstream buffer has room
for them; the rest are dropped and counted. The frames of a record in any other state are dropped and counted. That a frame
with fewer than 12 bytes before its last four bytes has no good check is the model's choice (log entry 42, unsafe). -/
def Obligations.DataBurstForwardsFrames : Prop :=
  ∀ (s : State) (f : FeederId) (n : CycleNumber) (m8 level : Nat) (handle : Byte) (frames : List Bytes) (m : HeldMap),
    s.phase = .running → (s.fd f).state = .opened ∨ (s.fd f).state = .paused → (s.fd f).mapOf n = some m →
    let fd := s.fd f
    let h := handle.toNat
    let r := fd.record h
    let marked := fun c : Grant → Grant =>
      s.setFd f { fd with
        heldMaps := fd.heldMaps.map fun y => if y.cycle = n then { y with
          burstSeen := true
          grants := y.grants.map fun k => if k.kind = .data ∧ k.handle = h then c k else k } else y }
    let dropping := fun (k : Nat) (u : State) =>
      let x := u.fd f
      u.setFd f { x with counters := { x.counters with upstreamDropped := satAdd16 x.counters.upstreamDropped k } }
    let forwarded := (frames.filter fun frame => checkGood 12 frame).take (128 - s.upBuffer.length)
    let forwarding := fun u : State =>
      { dropping (frames.length - forwarded.length) u with
        upBuffer := s.upBuffer ++ forwarded.map fun frame =>
          { tagType := s.tagType, feeder := f, handle := h, frame := frame } }
    let after := exec (.cleanBurst f n m8 level (.data handle frames)) s
    (m.grant .data h = none ∨ (∃ g, m.grant .data h = some g ∧ g.answered = true) →
        after = .next (dropping frames.length (marked id))) ∧
      ∀ g, m.grant .data h = some g → g.answered = false →
        let answered := marked fun k => { k with answered := true }
        let d8 : Int := (m8 : Int) - 8 * g.offset
        let carries := r.state = .inService ∨ r.state = .suspect
        let judged := (r.state = .levelling ∨ carries) ∧ r.settle ≠ some n
        let timed := State.watchDrift
          (answered.setFd f ((answered.fd f).setRecord h { r with misplacedRun := 0 })) f h d8
        (¬ judged → carries → after = .next (forwarding answered)) ∧
          (¬ judged → ¬ carries → after = .next (dropping frames.length answered)) ∧
          (judged → 512 < d8.natAbs → after = .next (dropping frames.length (answered.misplace f h))) ∧
          (judged → d8.natAbs ≤ 512 → carries → after = .next (forwarding timed)) ∧
          (judged → d8.natAbs ≤ 512 → r.state = .levelling → after = .next (dropping frames.length timed))

/-- The reports of the front end that no data or measurement is taken from (R31, R45, R64, R65, R110, R139, R210). A
feeder that is not OPEN or PAUSED, or that holds no map of the cycle, discards every burst and all light; for a cycle that an
OPEN or PAUSED feeder never held that is the model's choice (log entry 13).
A garbled burst counts as received. Within a call-in window's span it marks the window collided, within a probe window's it
does nothing more, and elsewhere it marks the grant whose span and guard hold it; on a confirm grant that fails the confirm of
a CONFIRMING record, which enters PROBING. Without a position it concerns no window and no grant (log entry 20).
A clean burst of an unknown type, a call-in outside every call-in window's span, a probe that is not the first of its
window's handle in a probe window's span, and a CHECK burst without an unanswered grant of its handle are discarded, and
count as received. Contents that break their layout stand among the unknown types (log entry 24).
Light outside every grant, window and guard counts for the stray run; without a position it counts too (log entry 19). A
record that enters PROBING here is none that the hunt holds as its target. -/
def Obligations.GarbledBurstsAndLight : Prop :=
  (∀ (s : State) (f : FeederId) (n : CycleNumber), s.phase = .running →
    ((s.fd f).state ≠ .opened ∧ (s.fd f).state ≠ .paused) ∨ (s.fd f).mapOf n = none →
    ∀ m8 p level content, exec (.garbledBurst f n p) s = .next s ∧ exec (.unassignedLight f n p) s = .next s ∧
      exec (.cleanBurst f n m8 level content) s = .next s) ∧
  ∀ (s : State) (f : FeederId) (n : CycleNumber) (m : HeldMap), s.phase = .running →
    (s.fd f).state = .opened ∨ (s.fd f).state = .paused → (s.fd f).mapOf n = some m →
    let fd := s.fd f
    let mapped := fun c : HeldMap → HeldMap =>
      s.setFd f { fd with heldMaps := fd.heldMaps.map fun x => if x.cycle = n then c x else x }
    let burst := mapped fun x => { x with burstSeen := true }
    let spanned := fun (p : WindowUse → Prop) (m8 : Nat) =>
      ∃ w, s.windowOf f n = some w ∧ p w.window.use ∧ m8 < 8 * w.window.spanEnd
    exec (.garbledBurst f n none) s = .next burst ∧
      (∀ m8 w, s.windowOf f n = some w → m8 < 8 * w.window.spanEnd →
        exec (.garbledBurst f n (some m8)) s =
          .next (match w.window.use with
            | .callIn _ _ => burst.modWindow f n fun x => { x with collided := true }
            | .probe _ => burst)) ∧
      (∀ m8, ¬ spanned (fun _ => True) m8 →
        (∀ g, m.grants.find? (fun k => k.holds m.guard m8) = some g →
          let garbled := mapped fun x => { x with
            burstSeen := true
            grants := x.grants.map fun k =>
              if k.kind = g.kind ∧ k.handle = g.handle then { k with garbled := true } else k }
          (g.kind = .data ∨ g.confirm = false ∨ (fd.record g.handle).state ≠ .confirming →
            exec (.garbledBurst f n (some m8)) s = .next garbled) ∧
          (g.kind = .check → g.confirm = true → (fd.record g.handle).state = .confirming →
            (fd.record g.handle).eqAttempts < 3 ∨ fd.hunt.target ≠ some g.handle →
            ∃ t, ProbingEntry garbled f g.handle t ∧ exec (.garbledBurst f n (some m8)) s = .next t)) ∧
        ((∀ g ∈ m.grants, g.holds m.guard m8 = false) → exec (.garbledBurst f n (some m8)) s = .next burst)) ∧
      (∀ m8 level,
        let discards := fun content : BurstContent => exec (.cleanBurst f n m8 level content) s = .next burst
        (∀ bytes, discards (.unknown bytes)) ∧
          (¬ spanned (fun u => ∃ g spread, u = .callIn g spread) m8 →
            ∀ serial slot attempts firmware, discards (.callIn serial slot attempts firmware)) ∧
          (∀ handle serial,
            ¬ spanned (fun u => u = .probe handle.toNat) m8 ∨ (∃ w, s.windowOf f n = some w ∧ w.answered = true) →
            discards (.probe handle serial)) ∧
          ∀ handle word,
            m.grant .check handle.toNat = none ∨ (∃ g, m.grant .check handle.toNat = some g ∧ g.answered = true) →
            discards (.check handle word)) ∧
      exec (.unassignedLight f n none) s = .next (mapped fun x => { x with lightSeen := true }) ∧
      ∀ m8,
        let owned := (∃ w, m.window = some w ∧ m8 < 8 * (w.spanEnd + m.guard)) ∨
          ∃ g ∈ m.grants, 8 * g.offset ≤ m8 ∧ m8 < 8 * (g.offset + g.length + m.guard)
        (owned → exec (.unassignedLight f n (some m8)) s = .next s) ∧
          (¬ owned →
            exec (.unassignedLight f n (some m8)) s = .next (mapped fun x => { x with lightSeen := true }))

/-- CHECK_SPAN_END (R110, R111, R141 to R144): an answered grant, a garbled one and one of a DARK feeder count nothing; an
unanswered check of an IN_SERVICE record uses grace or counts a miss, which at the miss limit makes it SUSPECT; one of
a SUSPECT record uses a suspect check, and the last ejects it, as MAINS_LOST when its mains are failing and else as
SILENT. One of a LEVELLING record counts a miss, and at the miss limit ends the walk, unless an ADMIT is queued or owed: an
unsent STEP is removed and then ADMIT is offered (R126, R143; the order is the model's choice, log entry 40). An unanswered confirm enters PROBING, DARK or not, or ejects
the record at its fourth attempt. The clauses that write out an entry into PROBING or an ejection are about a record that the
hunt does not hold as its target. -/
def Obligations.UnansweredCheckIsJudged : Prop :=
  ∀ (s : State) (f : FeederId) (n : CycleNumber) (h : Nat) (m : HeldMap) (g : Grant), s.phase = .running → 1 ≤ h →
    h ≤ 255 → (s.fd f).mapOf n = some m → m.grant .check h = some g →
    let fd := s.fd f
    let r := fd.record h
    let p := s.profiles[r.profile]
    let miss := if r.miss < 15 then r.miss + 1 else r.miss
    let after := exec (.checkSpanEnd f n h) s
    let leaves := fun r' : Record => after = .next (s.setFd f (fd.setRecord h r'))
    (g.answered = true ∨ g.garbled = true ∨ (g.confirm = false ∧ fd.dark = true) → after = .next s) ∧
      (g.answered = false → g.garbled = false → g.confirm = false → fd.dark = false →
        (r.state = .inService → 0 < r.grace → leaves { r with grace := r.grace - 1, checkCd := 0 }) ∧
        (r.state = .inService → r.grace = 0 → miss < p.missLimit → leaves { r with miss := miss, checkCd := 0 }) ∧
        (r.state = .inService → r.grace = 0 → p.missLimit ≤ miss →
          leaves { r with miss := miss, checkCd := 0, state := .suspect, suspectLeft := 8, recCd := 0 }) ∧
        (r.state = .suspect → 2 ≤ r.suspectLeft → leaves { r with suspectLeft := r.suspectLeft - 1 }) ∧
        (r.state = .suspect → r.suspectLeft = 1 → ∃ t, after = .next t ∧ (t.record f h).state = .ejected ∧
          (t.record f h).ejectReason = some (if r.mainsFailing then .mainsLost else .silent) ∧
          (t.record f h).suspectLeft = 0 ∧ t.bars = s.bars ∧ t.fd f.other = s.fd f.other) ∧
        (r.state = .suspect → r.suspectLeft = 1 → fd.hunt.target ≠ some h →
          after = .next (State.ejection (s.setFd f (fd.setRecord h { r with suspectLeft := 0 })) f h
            (if r.mainsFailing then .mainsLost else .silent))) ∧
        (let admits := (∃ q ∈ fd.ordinary, q.handle = h ∧ q.msg = .admission) ∨ r.owed = some .admission
         (r.state = .levelling → miss < p.missLimit ∨ admits → leaves { r with miss := miss }) ∧
          (r.state = .levelling → p.missLimit ≤ miss → ¬ admits →
            after = .next (s.setFd f (Feeder.offerOrdinary
              { (fd.setRecord h { r with
                  miss := miss, owed := r.owed.filter fun msg => decide (msg.kind ≠ MsgKind.step) }) with
                ordinary := fd.ordinary.filter fun q =>
                  !(decide (q.handle = h) && decide (q.msg.kind = MsgKind.step)) } h .admission)))) ∧
        (r.state ≠ .levelling → r.state ≠ .inService → r.state ≠ .suspect → after = .next s)) ∧
      (g.answered = false → g.garbled = false → g.confirm = true →
        (r.state ≠ .confirming → after = .next s) ∧
        (r.state = .confirming → r.eqAttempts < 3 ∨ fd.hunt.target ≠ some h →
          ∃ t, ProbingEntry s f h t ∧ after = .next t))

/-- CALLIN_WINDOW_END reports one outcome and removes the window record: a collided subgroup is counted and split into
the children of R69, pushed so that the first of the poll order of R70 stands on top, or pushed back or dropped as R71
says; a clean or silent one is done (R66). PROBE_WINDOW_END removes the record of the window, and one that was not
answered fails the probe, which counts an attempt of a PROBING record, whose fourth ejects it with NO_CONFIRM and bars its
serial (R25, R67, R113; here for a record that is not the hunt's target). That the end of a window of the other kind has no
effect is the model's choice (log entry 13). -/
def Obligations.WindowEndsReportOutcome : Prop :=
  ∀ (s : State) (f : FeederId) (n : CycleNumber) (w : WindowRecord), s.phase = .running → s.windowOf f n = some w →
    let fd := s.fd f
    let closed : State := { s with windows := s.windows.filter fun x => !(decide (x.feeder = f) && decide (x.cycle = n)) }
    let counted := { fd with counters := { fd.counters with collisions := satAdd16 fd.counters.collisions 1 } }
    (∀ g spread, w.window.use = .callIn g spread →
        let b := match fd.settings.fan with | .f2 => 1 | .f4 => 2 | .f8 => 3
        let start := fd.splitCounter % 2 ^ b
        let order : List Nat := (List.range (2 ^ b)).map fun i =>
          match fd.settings.pollOrder with
          | .sequential => (start + i) % 2 ^ b
          | .interleaved => start ^^^ i
        let splits := g.len + b ≤ 24 ∧ fd.splitList.length + 2 ^ b ≤ 24
        let after := exec (.callInWindowEnd f n) s
        (w.collided = false → after = .next closed) ∧
          (w.collided = true → splits →
            after = .next (closed.setFd f { counted with
              splitList := (order.map fun k => { value := g.value + k * 2 ^ g.len, len := g.len + b }) ++ fd.splitList
              splitCounter := if fd.splitCounter < 65535 then fd.splitCounter + 1 else fd.splitCounter })) ∧
          (w.collided = true → ¬ splits → fd.splitList.length < 24 →
            after = .next (closed.setFd f { counted with splitList := g :: fd.splitList })) ∧
          (w.collided = true → ¬ splits → 24 ≤ fd.splitList.length → after = .next (closed.setFd f counted)) ∧
          exec (.probeWindowEnd f n) s = .next s) ∧
      ∀ h, w.window.use = .probe h → 1 ≤ h → h ≤ 255 →
        let r := fd.record h
        let after := exec (.probeWindowEnd f n) s
        (w.answered = true ∨ r.state ≠ .probing → after = .next closed) ∧
          (w.answered = false → r.state = .probing → r.eqAttempts < 3 →
            after = .next (closed.setFd f (fd.setRecord h { r with eqAttempts := r.eqAttempts + 1 }))) ∧
          (w.answered = false → r.state = .probing → 3 ≤ r.eqAttempts → fd.hunt.target ≠ some h →
            after = .next (State.barringEjection
              (closed.setFd f (fd.setRecord h { r with eqAttempts := r.eqAttempts + 1 })) f h .noConfirm)) ∧
          exec (.callInWindowEnd f n) s = .next s

/-- UPSTREAM_CYCLE_END removes the cycle's held map, and of an evaluated cycle it moves the runs (R31, R43 to R45).
The dark run counts a granted cycle without a burst up to DARK_DEBOUNCE, when DARK is set with its notice and its flag;
while DARK is set the light run counts lit cycles, and the second clears DARK. The stray run counts a cycle with stray
light and becomes 0 without.
While STRAY is clear, a lit stray cycle that reaches STRAY_RUN hushes the record of the largest re-hush watch again and
makes the stray run 0 (R169), and without such a record sets STRAY with its notice and its flag and starts a hunt, which
chooses its target (R158, R163). While STRAY is set the cycle is a stray report for a hunt that is HUNTING. A hushed report
is the WATCHING target's: the second dark one in a row makes it the culprit, HUSHED, with STRAY_FOUND, STRAY cleared, the
hunt at its reset values and the decision of R166; it counts the watch down, and a lit one at its end releases the target
with a RESUME (R160, R165). On any other report the second dark cycle clears STRAY with STRAY_CLEARED, and a target that is
still held is released (R161). A re-hushed record is none that the hunt holds as its target. The order of the notices of
one cycle end is the model's (log entry 17), and so are the order of cycle numbers that wrap (log entry 18) and the first
report of a hunt (log entry 29). -/
def Obligations.CycleEndWatchesLight : Prop :=
  ∀ (s : State) (f : FeederId) (n : CycleNumber) (m : HeldMap), s.phase = .running → (s.fd f).mapOf n = some m →
    let fd := s.fd f
    let ended := { fd with heldMaps := fd.heldMaps.filter fun x => decide (x.cycle ≠ n) }
    let after := exec (.upstreamCycleEnd f n) s
    let notice : NoticeFields := { feeder := some f }
    let dark := if m.burstSeen then 0 else if m.grants = [] then fd.darkRun
      else if fd.darkRun < 64 then fd.darkRun + 1 else fd.darkRun
    let watched : State :=
      if fd.dark = true then
        if m.burstSeen = false then s.setFd f { ended with lightRun := 0 }
        else if fd.lightRun = 0 then s.setFd f { ended with lightRun := 1 }
        else (s.setFd f { ended with dark := false, darkRun := 0, lightRun := 0 }).raise .lightBack notice
      else if m.burstSeen = false ∧ m.grants ≠ [] ∧ fd.settings.darkDebounce ≤ dark then
        (s.setFd f { ended with
          darkRun := dark, dark := true, latched := { fd.latched with wentDark := true } }).raise .dark notice
      else s.setFd f { ended with darkRun := dark }
    let run := if m.lightSeen = false then 0 else if fd.strayRun < 16 then fd.strayRun + 1 else fd.strayRun
    let now := { watched.fd f with strayRun := run }
    let base := watched.setFd f now
    let hunt := fd.hunt
    let idle : Hunt := ⟨.idle, none, none, 1, none, 0, 0⟩
    let absence := if m.lightSeen then 0 else hunt.absence + 1
    let watching := fun h =>
      (fd.record h).state = .inService ∧ 0 < (fd.record h).recCd
    let hushedReport := fun h =>
      hunt.target = some h ∧ hunt.phase = some .watching ∧ ∃ c, hunt.hushCycle = some c ∧ (n - c).toNat < 32768
    let resumed := fun h =>
      let r := fd.record h
      Feeder.offerUrgent (now.setRecord h { r with owed := if r.owed = some .hush then none else r.owed }) h .resume
    (m.evaluated = false → after = .next (s.setFd f ended)) ∧
      (m.evaluated = true → fd.stray = false →
        (m.lightSeen = false ∨ run < fd.settings.strayRun → after = .next base) ∧
        (m.lightSeen = true → fd.settings.strayRun ≤ run →
          (∀ h, watching h → (∀ k, watching k → (fd.record k).recCd ≤ (fd.record h).recCd) →
            (∀ k, k < h → watching k → (fd.record k).recCd < (fd.record h).recCd) → hunt.target ≠ some h →
            let r := fd.record h
            let hushed := Feeder.offerUrgent
              (now.setRecord h { r with
                state := .hushed, recCd := 0, owed := if r.owed = some .resume then none else r.owed }) h .hush
            ∃ t, HushDecides (base.setFd f hushed) f h t ∧ after = .next (t.setFd f { t.fd f with strayRun := 0 })) ∧
          ((∀ h, ¬ watching h) →
            ∃ t, HuntChooses
                ((base.setFd f { now with
                  stray := true
                  latched := { now.latched with straySeen := true }
                  hunt := { idle with state := .hunting } }).raise .stray notice) f t ∧
              after = .next t))) ∧
      (m.evaluated = true → fd.stray = true →
        (hunt.state ≠ .hunting → after = .next base) ∧
        (∀ h, hunt.state = .hunting → hushedReport h →
          let r := fd.record h
          (2 ≤ absence → 1 ≤ h → h ≤ 255 →
            ∃ t, HushDecides
                ((base.setFd f { (now.setRecord h { r with state := .hushed, heldFrom := none }) with
                  stray := false, strayRun := 0, hunt := idle }).raise .strayFound
                  { feeder := some f, handle := some h, serial := r.serial
                    dwelling := r.planLink.map fun i => (s.planAt i).dwelling }) f h t ∧
              after = .next t) ∧
          (absence < 2 → 2 ≤ hunt.watchCd ∨ absence = 1 →
            after = .next (base.setFd f { now with
              hunt := { hunt with absence := absence, watchCd := hunt.watchCd - 1 } })) ∧
          (absence = 0 → hunt.watchCd ≤ 1 →
            after = .next (base.setFd f { resumed h with
              hunt := { hunt with absence := 0, watchCd := 0, phase := some .releasing, hushCycle := none } }))) ∧
        (hunt.state = .hunting → (∀ h, ¬ hushedReport h) →
          (absence < 2 → after = .next (base.setFd f { now with hunt := { hunt with absence := absence } })) ∧
          (2 ≤ absence →
            let released : Feeder :=
              match hunt.target, hunt.phase with
              | none, _ => now
              | some _, some .releasing => now
              | some h, _ => resumed h
            after = .next ((base.setFd f { released with stray := false, strayRun := 0, hunt := idle }).raise .strayCleared
              notice))))

/-! ## Over all commands -/

/-- A row that is an event of one feeder leaves the other feeder alone, but for arrivals that it takes away, and changes
nothing of the device's protection, profiles, management or trunk but what the feeders share: it may raise notices and set
NOTICE_OVERRUN (R196), and put frames into the shared upstream buffer (R176, R181). Left free with these are the Delay
Meter's award, last-served feeder and window records, the plan's claims and counts, and the Bar List. Every plan entry keeps
its contents and whether it is in use. -/
def Obligations.FeederEventsLeaveTheRest : Prop :=
  ∀ (i : Instr) (f : FeederId) (s t : State), feederOf i = some f → exec i s = .next t →
    (t.fd f.other).arrivals.Sublist (s.fd f.other).arrivals ∧
      t.fd f.other = { s.fd f.other with arrivals := (t.fd f.other).arrivals } ∧
      t = { s with
        feederA := t.feederA
        feederB := t.feederB
        lastServed := t.lastServed
        award := t.award
        windows := t.windows
        plan := t.plan
        bars := t.bars
        upBuffer := t.upBuffer
        notices := t.notices
        noticeOverrun := t.noticeOverrun } ∧
      ∀ i, (t.planAt i).inUse = (s.planAt i).inUse ∧ (t.planAt i).contents = (s.planAt i).contents

/-- The contents of a plan entry in the freeze range change only through a power-on, pin or part reset, whatever command
is run (R80). -/
def Obligations.FrozenContentsChangeOnlyByReset : Prop :=
  ∀ (c : Instr) (s t : State) (i : Nat), i < 512 → s.freeze.holds i = true → ¬ resetsPart c s → exec c s = .next t →
    (s.planAt i).inUse = (t.planAt i).inUse ∧ (t.planAt i).contents = (s.planAt i).contents

/-! ## What every step keeps -/

/-- What the steps keep holds after reset: the capacities, the sound Bar List, the sound hunt records, the emptied
CLOSED feeders, the record ranges, the sound identities, the delay law and the grant map law. -/
def Obligations.SoundStatesAtReset : Prop :=
  State.reset.Bounded ∧ State.reset.BarsSound ∧ State.reset.HuntsSound ∧ State.reset.ClosedSound ∧
    State.reset.RecordsInRange ∧ State.reset.IdentitiesSound ∧ State.reset.DelaysSound ∧ State.reset.MapsLawful

/-- Every step keeps every collection of the part within its capacity (R22, R60, R68, R87, R88, R132, R134, R146, R176,
R196). -/
def Obligations.CapacitiesKept : Prop :=
  ∀ (s t : State), s.Bounded → step s = .next t → t.Bounded

/-- Every step keeps the Bar List sound: no serial twice, countdowns of 1 to 65,535, BAR_HOLD in its range (R22, R23). -/
def Obligations.BarListKeptSound : Prop :=
  ∀ (s t : State), s.BarsSound → step s = .next t → t.BarsSound

/-- Every step keeps the hunt records in agreement with STRAY and with themselves (R155). -/
def Obligations.HuntRecordsKeptSound : Prop :=
  ∀ (s t : State), s.HuntsSound → step s = .next t → t.HuntsSound

/-- Every step keeps a CLOSED feeder at its reset values, but for its settings and the counters that have risen since the
close, and without a window record (R27, R39, R40, R60). -/
def Obligations.ClosedFeedersKeptEmpty : Prop :=
  ∀ (s t : State), s.ClosedSound → step s = .next t → t.ClosedSound

/-- Every step keeps, in every record, the residue within −4..+3, the equalisation attempts within 4 and below 4 while the
record is active, the drift run within 15, the misplaced run within 3, the level setting within 7, the level run within 4,
the miss count within 15, the suspect checks left within 8 and the recovery attempts within 255 (R4 to R6, R105, R111,
R125). It keeps with them what they rest on: the residues of arrivals and of the DELAYs queued or owed, and that the hunt's
target is an active record (R155, R164). -/
def Obligations.RecordRangesKept : Prop :=
  ∀ (s t : State), s.RecordsInRange → step s = .next t → t.RecordsInRange

/-- Every step keeps the identities of terminals sound: across both feeders at most one live record holds a serial (R2); no
barred serial is held by a record in a state other than EJECTED (R22); no arrivals list holds a serial twice, a barred one
or one of a live record (R87); a record's plan link and the claim of an EXACT entry always name each other, and the admit
count of a PATTERN entry in use is the number of records linked to it and within its limit (R75). It keeps with them what
they rest on: a FREE record holds no serial and no link (R8), a record linked to an EXACT entry holds its serial, and the
hunt's target is an active record (R155, R164). -/
def Obligations.IdentitiesKeptSound : Prop :=
  ∀ (s t : State), s.IdentitiesSound → step s = .next t → t.IdentitiesSound

/-- The delay law: every step keeps the EqD of every record, arrival and message of a feeder within 0..(Z − 40) of its reach
class, in states whose CLOSED feeders are empty (R106). -/
def Obligations.DelaysKeptWithinReach : Prop :=
  ∀ (s t : State), s.DelaysSound → step s = .next t → t.DelaysSound

/-- The grant map law: every step keeps, in every header composed and every map held, at most 64 grants that overlap
neither each other nor the measurement window, guards included, and end by offset 16,000 (R134). -/
def Obligations.GrantMapsKeptLawful : Prop :=
  ∀ (s t : State), s.MapsLawful → step s = .next t → t.MapsLawful
end

