-- ==== Sys2Proof/Laws/State.lean ====
section
/-! SUPPORT. One lemma for each field and each update of the state, so that no proof unfolds an update. -/
namespace Sys2Proof.Machine

open Sys2Proof

/-! ## The two feeders -/

theorem FeederId.other_ne (f : FeederId) : f.other ≠ f := by cases f <;> decide

@[simp] theorem State.fd_setFd (s : State) (f : FeederId) (x : Feeder) : (s.setFd f x).fd f = x := by
  cases f <;> rfl

theorem State.fd_setFd_of_ne (s : State) (f g : FeederId) (x : Feeder) (h : g ≠ f) : (s.setFd f x).fd g = s.fd g := by
  cases f <;> cases g <;> first | rfl | exact absurd rfl h

@[simp] theorem State.fd_setFd_other (s : State) (f : FeederId) (x : Feeder) :
    (s.setFd f x).fd f.other = s.fd f.other := by
  cases f <;> rfl

@[simp] theorem State.fd_modFd (s : State) (f : FeederId) (g : Feeder → Feeder) : (s.modFd f g).fd f = g (s.fd f) :=
  State.fd_setFd s f _

theorem State.fd_modFd_of_ne (s : State) (f k : FeederId) (g : Feeder → Feeder) (h : k ≠ f) :
    (s.modFd f g).fd k = s.fd k :=
  State.fd_setFd_of_ne s f k _ h

@[simp] theorem State.fd_modFd_other (s : State) (f : FeederId) (g : Feeder → Feeder) :
    (s.modFd f g).fd f.other = s.fd f.other :=
  State.fd_setFd_other s f _

@[simp] theorem State.setFd_setFd (s : State) (f : FeederId) (x y : Feeder) :
    (s.setFd f x).setFd f y = s.setFd f y := by
  cases f <;> rfl

@[simp] theorem State.setFd_fd (s : State) (f : FeederId) : s.setFd f (s.fd f) = s := by
  cases f <;> rfl

@[simp] theorem State.modFd_modFd (s : State) (f : FeederId) (g k : Feeder → Feeder) :
    (s.modFd f g).modFd f k = s.modFd f fun fd => k (g fd) := by
  simp [State.modFd]

@[simp] theorem State.setFd_pending (s : State) (f : FeederId) (x : Feeder) : (s.setFd f x).pending = s.pending := by
  cases f <;> rfl

@[simp] theorem State.modFd_pending (s : State) (f : FeederId) (g : Feeder → Feeder) : (s.modFd f g).pending = s.pending :=
  State.setFd_pending s f _

@[simp] theorem State.setFd_phase (s : State) (f : FeederId) (x : Feeder) : (s.setFd f x).phase = s.phase := by
  cases f <;> rfl

@[simp] theorem State.modFd_phase (s : State) (f : FeederId) (g : Feeder → Feeder) : (s.modFd f g).phase = s.phase :=
  State.setFd_phase s f _

@[simp] theorem State.setFd_pins (s : State) (f : FeederId) (x : Feeder) : (s.setFd f x).pins = s.pins := by
  cases f <;> rfl

@[simp] theorem State.modFd_pins (s : State) (f : FeederId) (g : Feeder → Feeder) : (s.modFd f g).pins = s.pins :=
  State.setFd_pins s f _

@[simp] theorem State.setFd_cycle (s : State) (f : FeederId) (x : Feeder) : (s.setFd f x).cycle = s.cycle := by
  cases f <;> rfl

@[simp] theorem State.modFd_cycle (s : State) (f : FeederId) (g : Feeder → Feeder) : (s.modFd f g).cycle = s.cycle :=
  State.setFd_cycle s f _

@[simp] theorem State.setFd_lastServed (s : State) (f : FeederId) (x : Feeder) : (s.setFd f x).lastServed = s.lastServed := by
  cases f <;> rfl

@[simp] theorem State.modFd_lastServed (s : State) (f : FeederId) (g : Feeder → Feeder) : (s.modFd f g).lastServed = s.lastServed :=
  State.setFd_lastServed s f _

@[simp] theorem State.setFd_award (s : State) (f : FeederId) (x : Feeder) : (s.setFd f x).award = s.award := by
  cases f <;> rfl

@[simp] theorem State.modFd_award (s : State) (f : FeederId) (g : Feeder → Feeder) : (s.modFd f g).award = s.award :=
  State.setFd_award s f _

@[simp] theorem State.setFd_windows (s : State) (f : FeederId) (x : Feeder) : (s.setFd f x).windows = s.windows := by
  cases f <;> rfl

@[simp] theorem State.modFd_windows (s : State) (f : FeederId) (g : Feeder → Feeder) : (s.modFd f g).windows = s.windows :=
  State.setFd_windows s f _

@[simp] theorem State.setFd_plan (s : State) (f : FeederId) (x : Feeder) : (s.setFd f x).plan = s.plan := by
  cases f <;> rfl

@[simp] theorem State.modFd_plan (s : State) (f : FeederId) (g : Feeder → Feeder) : (s.modFd f g).plan = s.plan :=
  State.setFd_plan s f _

@[simp] theorem State.setFd_freeze (s : State) (f : FeederId) (x : Feeder) : (s.setFd f x).freeze = s.freeze := by
  cases f <;> rfl

@[simp] theorem State.modFd_freeze (s : State) (f : FeederId) (g : Feeder → Feeder) : (s.modFd f g).freeze = s.freeze :=
  State.setFd_freeze s f _

@[simp] theorem State.setFd_freezeLock (s : State) (f : FeederId) (x : Feeder) : (s.setFd f x).freezeLock = s.freezeLock := by
  cases f <;> rfl

@[simp] theorem State.modFd_freezeLock (s : State) (f : FeederId) (g : Feeder → Feeder) : (s.modFd f g).freezeLock = s.freezeLock :=
  State.setFd_freezeLock s f _

@[simp] theorem State.setFd_guardEnable (s : State) (f : FeederId) (x : Feeder) : (s.setFd f x).guardEnable = s.guardEnable := by
  cases f <;> rfl

@[simp] theorem State.modFd_guardEnable (s : State) (f : FeederId) (g : Feeder → Feeder) : (s.modFd f g).guardEnable = s.guardEnable :=
  State.setFd_guardEnable s f _

@[simp] theorem State.setFd_profiles (s : State) (f : FeederId) (x : Feeder) : (s.setFd f x).profiles = s.profiles := by
  cases f <;> rfl

@[simp] theorem State.modFd_profiles (s : State) (f : FeederId) (g : Feeder → Feeder) : (s.modFd f g).profiles = s.profiles :=
  State.setFd_profiles s f _

@[simp] theorem State.setFd_allLock (s : State) (f : FeederId) (x : Feeder) : (s.setFd f x).allLock = s.allLock := by
  cases f <;> rfl

@[simp] theorem State.modFd_allLock (s : State) (f : FeederId) (g : Feeder → Feeder) : (s.modFd f g).allLock = s.allLock :=
  State.setFd_allLock s f _

@[simp] theorem State.setFd_bars (s : State) (f : FeederId) (x : Feeder) : (s.setFd f x).bars = s.bars := by
  cases f <;> rfl

@[simp] theorem State.modFd_bars (s : State) (f : FeederId) (g : Feeder → Feeder) : (s.modFd f g).bars = s.bars :=
  State.setFd_bars s f _

@[simp] theorem State.setFd_barHold (s : State) (f : FeederId) (x : Feeder) : (s.setFd f x).barHold = s.barHold := by
  cases f <;> rfl

@[simp] theorem State.modFd_barHold (s : State) (f : FeederId) (g : Feeder → Feeder) : (s.modFd f g).barHold = s.barHold :=
  State.setFd_barHold s f _

@[simp] theorem State.setFd_upBuffer (s : State) (f : FeederId) (x : Feeder) : (s.setFd f x).upBuffer = s.upBuffer := by
  cases f <;> rfl

@[simp] theorem State.modFd_upBuffer (s : State) (f : FeederId) (g : Feeder → Feeder) : (s.modFd f g).upBuffer = s.upBuffer :=
  State.setFd_upBuffer s f _

@[simp] theorem State.setFd_mgmtBuffer (s : State) (f : FeederId) (x : Feeder) : (s.setFd f x).mgmtBuffer = s.mgmtBuffer := by
  cases f <;> rfl

@[simp] theorem State.modFd_mgmtBuffer (s : State) (f : FeederId) (g : Feeder → Feeder) : (s.modFd f g).mgmtBuffer = s.mgmtBuffer :=
  State.setFd_mgmtBuffer s f _

@[simp] theorem State.setFd_replies (s : State) (f : FeederId) (x : Feeder) : (s.setFd f x).replies = s.replies := by
  cases f <;> rfl

@[simp] theorem State.modFd_replies (s : State) (f : FeederId) (g : Feeder → Feeder) : (s.modFd f g).replies = s.replies :=
  State.setFd_replies s f _

@[simp] theorem State.setFd_badTags (s : State) (f : FeederId) (x : Feeder) : (s.setFd f x).badTags = s.badTags := by
  cases f <;> rfl

@[simp] theorem State.modFd_badTags (s : State) (f : FeederId) (g : Feeder → Feeder) : (s.modFd f g).badTags = s.badTags :=
  State.setFd_badTags s f _

@[simp] theorem State.setFd_mgmtDropped (s : State) (f : FeederId) (x : Feeder) : (s.setFd f x).mgmtDropped = s.mgmtDropped := by
  cases f <;> rfl

@[simp] theorem State.modFd_mgmtDropped (s : State) (f : FeederId) (g : Feeder → Feeder) : (s.modFd f g).mgmtDropped = s.mgmtDropped :=
  State.setFd_mgmtDropped s f _

@[simp] theorem State.setFd_tagType (s : State) (f : FeederId) (x : Feeder) : (s.setFd f x).tagType = s.tagType := by
  cases f <;> rfl

@[simp] theorem State.modFd_tagType (s : State) (f : FeederId) (g : Feeder → Feeder) : (s.modFd f g).tagType = s.tagType :=
  State.setFd_tagType s f _

@[simp] theorem State.setFd_transmitting (s : State) (f : FeederId) (x : Feeder) : (s.setFd f x).transmitting = s.transmitting := by
  cases f <;> rfl

@[simp] theorem State.modFd_transmitting (s : State) (f : FeederId) (g : Feeder → Feeder) : (s.modFd f g).transmitting = s.transmitting :=
  State.setFd_transmitting s f _

@[simp] theorem State.setFd_lastSent (s : State) (f : FeederId) (x : Feeder) : (s.setFd f x).lastSent = s.lastSent := by
  cases f <;> rfl

@[simp] theorem State.modFd_lastSent (s : State) (f : FeederId) (g : Feeder → Feeder) : (s.modFd f g).lastSent = s.lastSent :=
  State.setFd_lastSent s f _

@[simp] theorem State.setFd_receipt (s : State) (f : FeederId) (x : Feeder) : (s.setFd f x).receipt = s.receipt := by
  cases f <;> rfl

@[simp] theorem State.modFd_receipt (s : State) (f : FeederId) (g : Feeder → Feeder) : (s.modFd f g).receipt = s.receipt :=
  State.setFd_receipt s f _

@[simp] theorem State.setFd_holdover (s : State) (f : FeederId) (x : Feeder) : (s.setFd f x).holdover = s.holdover := by
  cases f <;> rfl

@[simp] theorem State.modFd_holdover (s : State) (f : FeederId) (g : Feeder → Feeder) : (s.modFd f g).holdover = s.holdover :=
  State.setFd_holdover s f _

@[simp] theorem State.setFd_wdMode (s : State) (f : FeederId) (x : Feeder) : (s.setFd f x).wdMode = s.wdMode := by
  cases f <;> rfl

@[simp] theorem State.modFd_wdMode (s : State) (f : FeederId) (g : Feeder → Feeder) : (s.modFd f g).wdMode = s.wdMode :=
  State.setFd_wdMode s f _

@[simp] theorem State.setFd_wdPeriod (s : State) (f : FeederId) (x : Feeder) : (s.setFd f x).wdPeriod = s.wdPeriod := by
  cases f <;> rfl

@[simp] theorem State.modFd_wdPeriod (s : State) (f : FeederId) (g : Feeder → Feeder) : (s.modFd f g).wdPeriod = s.wdPeriod :=
  State.setFd_wdPeriod s f _

@[simp] theorem State.setFd_wdArmed (s : State) (f : FeederId) (x : Feeder) : (s.setFd f x).wdArmed = s.wdArmed := by
  cases f <;> rfl

@[simp] theorem State.modFd_wdArmed (s : State) (f : FeederId) (g : Feeder → Feeder) : (s.modFd f g).wdArmed = s.wdArmed :=
  State.setFd_wdArmed s f _

@[simp] theorem State.setFd_wdCd (s : State) (f : FeederId) (x : Feeder) : (s.setFd f x).wdCd = s.wdCd := by
  cases f <;> rfl

@[simp] theorem State.modFd_wdCd (s : State) (f : FeederId) (g : Feeder → Feeder) : (s.modFd f g).wdCd = s.wdCd :=
  State.setFd_wdCd s f _

@[simp] theorem State.setFd_noticeMask (s : State) (f : FeederId) (x : Feeder) : (s.setFd f x).noticeMask = s.noticeMask := by
  cases f <;> rfl

@[simp] theorem State.modFd_noticeMask (s : State) (f : FeederId) (g : Feeder → Feeder) : (s.modFd f g).noticeMask = s.noticeMask :=
  State.setFd_noticeMask s f _

@[simp] theorem State.setFd_notices (s : State) (f : FeederId) (x : Feeder) : (s.setFd f x).notices = s.notices := by
  cases f <;> rfl

@[simp] theorem State.modFd_notices (s : State) (f : FeederId) (g : Feeder → Feeder) : (s.modFd f g).notices = s.notices :=
  State.setFd_notices s f _

@[simp] theorem State.setFd_noticeOverrun (s : State) (f : FeederId) (x : Feeder) : (s.setFd f x).noticeOverrun = s.noticeOverrun := by
  cases f <;> rfl

@[simp] theorem State.modFd_noticeOverrun (s : State) (f : FeederId) (g : Feeder → Feeder) : (s.modFd f g).noticeOverrun = s.noticeOverrun :=
  State.setFd_noticeOverrun s f _

@[simp] theorem State.setFd_holdoverEntered (s : State) (f : FeederId) (x : Feeder) : (s.setFd f x).holdoverEntered = s.holdoverEntered := by
  cases f <;> rfl

@[simp] theorem State.modFd_holdoverEntered (s : State) (f : FeederId) (g : Feeder → Feeder) : (s.modFd f g).holdoverEntered = s.holdoverEntered :=
  State.setFd_holdoverEntered s f _

@[simp] theorem State.setFd_resetPending (s : State) (f : FeederId) (x : Feeder) : (s.setFd f x).resetPending = s.resetPending := by
  cases f <;> rfl

@[simp] theorem State.modFd_resetPending (s : State) (f : FeederId) (g : Feeder → Feeder) : (s.modFd f g).resetPending = s.resetPending :=
  State.setFd_resetPending s f _

@[simp] theorem State.setFd_lastManager (s : State) (f : FeederId) (x : Feeder) : (s.setFd f x).lastManager = s.lastManager := by
  cases f <;> rfl

@[simp] theorem State.modFd_lastManager (s : State) (f : FeederId) (g : Feeder → Feeder) : (s.modFd f g).lastManager = s.lastManager :=
  State.setFd_lastManager s f _

@[simp] theorem State.setFd_lastReplySource (s : State) (f : FeederId) (x : Feeder) : (s.setFd f x).lastReplySource = s.lastReplySource := by
  cases f <;> rfl

@[simp] theorem State.modFd_lastReplySource (s : State) (f : FeederId) (g : Feeder → Feeder) : (s.modFd f g).lastReplySource = s.lastReplySource :=
  State.setFd_lastReplySource s f _

/-! ## Plan entries -/

@[simp] theorem State.setPlan_pending (s : State) (i : Nat) (e : PlanEntry) : (s.setPlan i e).pending = s.pending := rfl

@[simp] theorem State.setPlan_phase (s : State) (i : Nat) (e : PlanEntry) : (s.setPlan i e).phase = s.phase := rfl

@[simp] theorem State.setPlan_pins (s : State) (i : Nat) (e : PlanEntry) : (s.setPlan i e).pins = s.pins := rfl

@[simp] theorem State.setPlan_feederA (s : State) (i : Nat) (e : PlanEntry) : (s.setPlan i e).feederA = s.feederA := rfl

@[simp] theorem State.setPlan_feederB (s : State) (i : Nat) (e : PlanEntry) : (s.setPlan i e).feederB = s.feederB := rfl

@[simp] theorem State.setPlan_cycle (s : State) (i : Nat) (e : PlanEntry) : (s.setPlan i e).cycle = s.cycle := rfl

@[simp] theorem State.setPlan_lastServed (s : State) (i : Nat) (e : PlanEntry) : (s.setPlan i e).lastServed = s.lastServed := rfl

@[simp] theorem State.setPlan_award (s : State) (i : Nat) (e : PlanEntry) : (s.setPlan i e).award = s.award := rfl

@[simp] theorem State.setPlan_windows (s : State) (i : Nat) (e : PlanEntry) : (s.setPlan i e).windows = s.windows := rfl

@[simp] theorem State.setPlan_freeze (s : State) (i : Nat) (e : PlanEntry) : (s.setPlan i e).freeze = s.freeze := rfl

@[simp] theorem State.setPlan_freezeLock (s : State) (i : Nat) (e : PlanEntry) : (s.setPlan i e).freezeLock = s.freezeLock := rfl

@[simp] theorem State.setPlan_guardEnable (s : State) (i : Nat) (e : PlanEntry) : (s.setPlan i e).guardEnable = s.guardEnable := rfl

@[simp] theorem State.setPlan_profiles (s : State) (i : Nat) (e : PlanEntry) : (s.setPlan i e).profiles = s.profiles := rfl

@[simp] theorem State.setPlan_allLock (s : State) (i : Nat) (e : PlanEntry) : (s.setPlan i e).allLock = s.allLock := rfl

@[simp] theorem State.setPlan_bars (s : State) (i : Nat) (e : PlanEntry) : (s.setPlan i e).bars = s.bars := rfl

@[simp] theorem State.setPlan_barHold (s : State) (i : Nat) (e : PlanEntry) : (s.setPlan i e).barHold = s.barHold := rfl

@[simp] theorem State.setPlan_upBuffer (s : State) (i : Nat) (e : PlanEntry) : (s.setPlan i e).upBuffer = s.upBuffer := rfl

@[simp] theorem State.setPlan_mgmtBuffer (s : State) (i : Nat) (e : PlanEntry) : (s.setPlan i e).mgmtBuffer = s.mgmtBuffer := rfl

@[simp] theorem State.setPlan_replies (s : State) (i : Nat) (e : PlanEntry) : (s.setPlan i e).replies = s.replies := rfl

@[simp] theorem State.setPlan_badTags (s : State) (i : Nat) (e : PlanEntry) : (s.setPlan i e).badTags = s.badTags := rfl

@[simp] theorem State.setPlan_mgmtDropped (s : State) (i : Nat) (e : PlanEntry) : (s.setPlan i e).mgmtDropped = s.mgmtDropped := rfl

@[simp] theorem State.setPlan_tagType (s : State) (i : Nat) (e : PlanEntry) : (s.setPlan i e).tagType = s.tagType := rfl

@[simp] theorem State.setPlan_transmitting (s : State) (i : Nat) (e : PlanEntry) : (s.setPlan i e).transmitting = s.transmitting := rfl

@[simp] theorem State.setPlan_lastSent (s : State) (i : Nat) (e : PlanEntry) : (s.setPlan i e).lastSent = s.lastSent := rfl

@[simp] theorem State.setPlan_receipt (s : State) (i : Nat) (e : PlanEntry) : (s.setPlan i e).receipt = s.receipt := rfl

@[simp] theorem State.setPlan_holdover (s : State) (i : Nat) (e : PlanEntry) : (s.setPlan i e).holdover = s.holdover := rfl

@[simp] theorem State.setPlan_wdMode (s : State) (i : Nat) (e : PlanEntry) : (s.setPlan i e).wdMode = s.wdMode := rfl

@[simp] theorem State.setPlan_wdPeriod (s : State) (i : Nat) (e : PlanEntry) : (s.setPlan i e).wdPeriod = s.wdPeriod := rfl

@[simp] theorem State.setPlan_wdArmed (s : State) (i : Nat) (e : PlanEntry) : (s.setPlan i e).wdArmed = s.wdArmed := rfl

@[simp] theorem State.setPlan_wdCd (s : State) (i : Nat) (e : PlanEntry) : (s.setPlan i e).wdCd = s.wdCd := rfl

@[simp] theorem State.setPlan_noticeMask (s : State) (i : Nat) (e : PlanEntry) : (s.setPlan i e).noticeMask = s.noticeMask := rfl

@[simp] theorem State.setPlan_notices (s : State) (i : Nat) (e : PlanEntry) : (s.setPlan i e).notices = s.notices := rfl

@[simp] theorem State.setPlan_noticeOverrun (s : State) (i : Nat) (e : PlanEntry) : (s.setPlan i e).noticeOverrun = s.noticeOverrun := rfl

@[simp] theorem State.setPlan_holdoverEntered (s : State) (i : Nat) (e : PlanEntry) : (s.setPlan i e).holdoverEntered = s.holdoverEntered := rfl

@[simp] theorem State.setPlan_resetPending (s : State) (i : Nat) (e : PlanEntry) : (s.setPlan i e).resetPending = s.resetPending := rfl

@[simp] theorem State.setPlan_lastManager (s : State) (i : Nat) (e : PlanEntry) : (s.setPlan i e).lastManager = s.lastManager := rfl

@[simp] theorem State.setPlan_lastReplySource (s : State) (i : Nat) (e : PlanEntry) : (s.setPlan i e).lastReplySource = s.lastReplySource := rfl

@[simp] theorem State.fd_setPlan (s : State) (i : Nat) (e : PlanEntry) (f : FeederId) :
    (s.setPlan i e).fd f = s.fd f := by
  cases f <;> rfl

theorem State.planAt_setPlan (s : State) (i j : Nat) (e : PlanEntry) :
    (s.setPlan i e).planAt j = if i = j ∧ j < 512 then e else s.planAt j := by
  unfold State.planAt State.setPlan
  by_cases h : j < 512
  · by_cases hij : i = j
    · subst hij; simp [h]
    · simp [h, hij]
  · simp [h]

/-! ## Notices -/

@[simp] theorem State.raise_pending (s : State) (k : NoticeKind) (n : NoticeFields) : (s.raise k n).pending = s.pending := by
  unfold State.raise; split <;> [rfl; (split <;> rfl)]

@[simp] theorem State.raise_phase (s : State) (k : NoticeKind) (n : NoticeFields) : (s.raise k n).phase = s.phase := by
  unfold State.raise; split <;> [rfl; (split <;> rfl)]

@[simp] theorem State.raise_pins (s : State) (k : NoticeKind) (n : NoticeFields) : (s.raise k n).pins = s.pins := by
  unfold State.raise; split <;> [rfl; (split <;> rfl)]

@[simp] theorem State.raise_feederA (s : State) (k : NoticeKind) (n : NoticeFields) : (s.raise k n).feederA = s.feederA := by
  unfold State.raise; split <;> [rfl; (split <;> rfl)]

@[simp] theorem State.raise_feederB (s : State) (k : NoticeKind) (n : NoticeFields) : (s.raise k n).feederB = s.feederB := by
  unfold State.raise; split <;> [rfl; (split <;> rfl)]

@[simp] theorem State.raise_cycle (s : State) (k : NoticeKind) (n : NoticeFields) : (s.raise k n).cycle = s.cycle := by
  unfold State.raise; split <;> [rfl; (split <;> rfl)]

@[simp] theorem State.raise_lastServed (s : State) (k : NoticeKind) (n : NoticeFields) : (s.raise k n).lastServed = s.lastServed := by
  unfold State.raise; split <;> [rfl; (split <;> rfl)]

@[simp] theorem State.raise_award (s : State) (k : NoticeKind) (n : NoticeFields) : (s.raise k n).award = s.award := by
  unfold State.raise; split <;> [rfl; (split <;> rfl)]

@[simp] theorem State.raise_windows (s : State) (k : NoticeKind) (n : NoticeFields) : (s.raise k n).windows = s.windows := by
  unfold State.raise; split <;> [rfl; (split <;> rfl)]

@[simp] theorem State.raise_plan (s : State) (k : NoticeKind) (n : NoticeFields) : (s.raise k n).plan = s.plan := by
  unfold State.raise; split <;> [rfl; (split <;> rfl)]

@[simp] theorem State.raise_freeze (s : State) (k : NoticeKind) (n : NoticeFields) : (s.raise k n).freeze = s.freeze := by
  unfold State.raise; split <;> [rfl; (split <;> rfl)]

@[simp] theorem State.raise_freezeLock (s : State) (k : NoticeKind) (n : NoticeFields) : (s.raise k n).freezeLock = s.freezeLock := by
  unfold State.raise; split <;> [rfl; (split <;> rfl)]

@[simp] theorem State.raise_guardEnable (s : State) (k : NoticeKind) (n : NoticeFields) : (s.raise k n).guardEnable = s.guardEnable := by
  unfold State.raise; split <;> [rfl; (split <;> rfl)]

@[simp] theorem State.raise_profiles (s : State) (k : NoticeKind) (n : NoticeFields) : (s.raise k n).profiles = s.profiles := by
  unfold State.raise; split <;> [rfl; (split <;> rfl)]

@[simp] theorem State.raise_allLock (s : State) (k : NoticeKind) (n : NoticeFields) : (s.raise k n).allLock = s.allLock := by
  unfold State.raise; split <;> [rfl; (split <;> rfl)]

@[simp] theorem State.raise_bars (s : State) (k : NoticeKind) (n : NoticeFields) : (s.raise k n).bars = s.bars := by
  unfold State.raise; split <;> [rfl; (split <;> rfl)]

@[simp] theorem State.raise_barHold (s : State) (k : NoticeKind) (n : NoticeFields) : (s.raise k n).barHold = s.barHold := by
  unfold State.raise; split <;> [rfl; (split <;> rfl)]

@[simp] theorem State.raise_upBuffer (s : State) (k : NoticeKind) (n : NoticeFields) : (s.raise k n).upBuffer = s.upBuffer := by
  unfold State.raise; split <;> [rfl; (split <;> rfl)]

@[simp] theorem State.raise_mgmtBuffer (s : State) (k : NoticeKind) (n : NoticeFields) : (s.raise k n).mgmtBuffer = s.mgmtBuffer := by
  unfold State.raise; split <;> [rfl; (split <;> rfl)]

@[simp] theorem State.raise_replies (s : State) (k : NoticeKind) (n : NoticeFields) : (s.raise k n).replies = s.replies := by
  unfold State.raise; split <;> [rfl; (split <;> rfl)]

@[simp] theorem State.raise_badTags (s : State) (k : NoticeKind) (n : NoticeFields) : (s.raise k n).badTags = s.badTags := by
  unfold State.raise; split <;> [rfl; (split <;> rfl)]

@[simp] theorem State.raise_mgmtDropped (s : State) (k : NoticeKind) (n : NoticeFields) : (s.raise k n).mgmtDropped = s.mgmtDropped := by
  unfold State.raise; split <;> [rfl; (split <;> rfl)]

@[simp] theorem State.raise_tagType (s : State) (k : NoticeKind) (n : NoticeFields) : (s.raise k n).tagType = s.tagType := by
  unfold State.raise; split <;> [rfl; (split <;> rfl)]

@[simp] theorem State.raise_transmitting (s : State) (k : NoticeKind) (n : NoticeFields) : (s.raise k n).transmitting = s.transmitting := by
  unfold State.raise; split <;> [rfl; (split <;> rfl)]

@[simp] theorem State.raise_lastSent (s : State) (k : NoticeKind) (n : NoticeFields) : (s.raise k n).lastSent = s.lastSent := by
  unfold State.raise; split <;> [rfl; (split <;> rfl)]

@[simp] theorem State.raise_receipt (s : State) (k : NoticeKind) (n : NoticeFields) : (s.raise k n).receipt = s.receipt := by
  unfold State.raise; split <;> [rfl; (split <;> rfl)]

@[simp] theorem State.raise_holdover (s : State) (k : NoticeKind) (n : NoticeFields) : (s.raise k n).holdover = s.holdover := by
  unfold State.raise; split <;> [rfl; (split <;> rfl)]

@[simp] theorem State.raise_wdMode (s : State) (k : NoticeKind) (n : NoticeFields) : (s.raise k n).wdMode = s.wdMode := by
  unfold State.raise; split <;> [rfl; (split <;> rfl)]

@[simp] theorem State.raise_wdPeriod (s : State) (k : NoticeKind) (n : NoticeFields) : (s.raise k n).wdPeriod = s.wdPeriod := by
  unfold State.raise; split <;> [rfl; (split <;> rfl)]

@[simp] theorem State.raise_wdArmed (s : State) (k : NoticeKind) (n : NoticeFields) : (s.raise k n).wdArmed = s.wdArmed := by
  unfold State.raise; split <;> [rfl; (split <;> rfl)]

@[simp] theorem State.raise_wdCd (s : State) (k : NoticeKind) (n : NoticeFields) : (s.raise k n).wdCd = s.wdCd := by
  unfold State.raise; split <;> [rfl; (split <;> rfl)]

@[simp] theorem State.raise_noticeMask (s : State) (k : NoticeKind) (n : NoticeFields) : (s.raise k n).noticeMask = s.noticeMask := by
  unfold State.raise; split <;> [rfl; (split <;> rfl)]

@[simp] theorem State.raise_holdoverEntered (s : State) (k : NoticeKind) (n : NoticeFields) : (s.raise k n).holdoverEntered = s.holdoverEntered := by
  unfold State.raise; split <;> [rfl; (split <;> rfl)]

@[simp] theorem State.raise_resetPending (s : State) (k : NoticeKind) (n : NoticeFields) : (s.raise k n).resetPending = s.resetPending := by
  unfold State.raise; split <;> [rfl; (split <;> rfl)]

@[simp] theorem State.raise_lastManager (s : State) (k : NoticeKind) (n : NoticeFields) : (s.raise k n).lastManager = s.lastManager := by
  unfold State.raise; split <;> [rfl; (split <;> rfl)]

@[simp] theorem State.raise_lastReplySource (s : State) (k : NoticeKind) (n : NoticeFields) : (s.raise k n).lastReplySource = s.lastReplySource := by
  unfold State.raise; split <;> [rfl; (split <;> rfl)]

@[simp] theorem State.fd_raise (s : State) (k : NoticeKind) (n : NoticeFields) (f : FeederId) :
    (s.raise k n).fd f = s.fd f := by
  cases f <;> simp [State.fd]

/-! ## Records in a table -/

@[simp] theorem Feeder.setRecord_state (fd : Feeder) (h : Nat) (r : Record) : (fd.setRecord h r).state = fd.state := by
  unfold Feeder.setRecord; split <;> rfl

@[simp] theorem Feeder.modRecord_state (fd : Feeder) (h : Nat) (g : Record → Record) :
    (fd.modRecord h g).state = fd.state :=
  Feeder.setRecord_state fd h _

@[simp] theorem Feeder.setRecord_seqCount (fd : Feeder) (h : Nat) (r : Record) : (fd.setRecord h r).seqCount = fd.seqCount := by
  unfold Feeder.setRecord; split <;> rfl

@[simp] theorem Feeder.modRecord_seqCount (fd : Feeder) (h : Nat) (g : Record → Record) :
    (fd.modRecord h g).seqCount = fd.seqCount :=
  Feeder.setRecord_seqCount fd h _

@[simp] theorem Feeder.setRecord_dark (fd : Feeder) (h : Nat) (r : Record) : (fd.setRecord h r).dark = fd.dark := by
  unfold Feeder.setRecord; split <;> rfl

@[simp] theorem Feeder.modRecord_dark (fd : Feeder) (h : Nat) (g : Record → Record) :
    (fd.modRecord h g).dark = fd.dark :=
  Feeder.setRecord_dark fd h _

@[simp] theorem Feeder.setRecord_darkRun (fd : Feeder) (h : Nat) (r : Record) : (fd.setRecord h r).darkRun = fd.darkRun := by
  unfold Feeder.setRecord; split <;> rfl

@[simp] theorem Feeder.modRecord_darkRun (fd : Feeder) (h : Nat) (g : Record → Record) :
    (fd.modRecord h g).darkRun = fd.darkRun :=
  Feeder.setRecord_darkRun fd h _

@[simp] theorem Feeder.setRecord_lightRun (fd : Feeder) (h : Nat) (r : Record) : (fd.setRecord h r).lightRun = fd.lightRun := by
  unfold Feeder.setRecord; split <;> rfl

@[simp] theorem Feeder.modRecord_lightRun (fd : Feeder) (h : Nat) (g : Record → Record) :
    (fd.modRecord h g).lightRun = fd.lightRun :=
  Feeder.setRecord_lightRun fd h _

@[simp] theorem Feeder.setRecord_stray (fd : Feeder) (h : Nat) (r : Record) : (fd.setRecord h r).stray = fd.stray := by
  unfold Feeder.setRecord; split <;> rfl

@[simp] theorem Feeder.modRecord_stray (fd : Feeder) (h : Nat) (g : Record → Record) :
    (fd.modRecord h g).stray = fd.stray :=
  Feeder.setRecord_stray fd h _

@[simp] theorem Feeder.setRecord_strayRun (fd : Feeder) (h : Nat) (r : Record) : (fd.setRecord h r).strayRun = fd.strayRun := by
  unfold Feeder.setRecord; split <;> rfl

@[simp] theorem Feeder.modRecord_strayRun (fd : Feeder) (h : Nat) (g : Record → Record) :
    (fd.modRecord h g).strayRun = fd.strayRun :=
  Feeder.setRecord_strayRun fd h _

@[simp] theorem Feeder.setRecord_settings (fd : Feeder) (h : Nat) (r : Record) : (fd.setRecord h r).settings = fd.settings := by
  unfold Feeder.setRecord; split <;> rfl

@[simp] theorem Feeder.modRecord_settings (fd : Feeder) (h : Nat) (g : Record → Record) :
    (fd.modRecord h g).settings = fd.settings :=
  Feeder.setRecord_settings fd h _

@[simp] theorem Feeder.setRecord_counters (fd : Feeder) (h : Nat) (r : Record) : (fd.setRecord h r).counters = fd.counters := by
  unfold Feeder.setRecord; split <;> rfl

@[simp] theorem Feeder.modRecord_counters (fd : Feeder) (h : Nat) (g : Record → Record) :
    (fd.modRecord h g).counters = fd.counters :=
  Feeder.setRecord_counters fd h _

@[simp] theorem Feeder.setRecord_latched (fd : Feeder) (h : Nat) (r : Record) : (fd.setRecord h r).latched = fd.latched := by
  unfold Feeder.setRecord; split <;> rfl

@[simp] theorem Feeder.modRecord_latched (fd : Feeder) (h : Nat) (g : Record → Record) :
    (fd.modRecord h g).latched = fd.latched :=
  Feeder.setRecord_latched fd h _

@[simp] theorem Feeder.setRecord_arrivals (fd : Feeder) (h : Nat) (r : Record) : (fd.setRecord h r).arrivals = fd.arrivals := by
  unfold Feeder.setRecord; split <;> rfl

@[simp] theorem Feeder.modRecord_arrivals (fd : Feeder) (h : Nat) (g : Record → Record) :
    (fd.modRecord h g).arrivals = fd.arrivals :=
  Feeder.setRecord_arrivals fd h _

@[simp] theorem Feeder.setRecord_expired (fd : Feeder) (h : Nat) (r : Record) : (fd.setRecord h r).expired = fd.expired := by
  unfold Feeder.setRecord; split <;> rfl

@[simp] theorem Feeder.modRecord_expired (fd : Feeder) (h : Nat) (g : Record → Record) :
    (fd.modRecord h g).expired = fd.expired :=
  Feeder.setRecord_expired fd h _

@[simp] theorem Feeder.setRecord_fullArmed (fd : Feeder) (h : Nat) (r : Record) : (fd.setRecord h r).fullArmed = fd.fullArmed := by
  unfold Feeder.setRecord; split <;> rfl

@[simp] theorem Feeder.modRecord_fullArmed (fd : Feeder) (h : Nat) (g : Record → Record) :
    (fd.modRecord h g).fullArmed = fd.fullArmed :=
  Feeder.setRecord_fullArmed fd h _

@[simp] theorem Feeder.setRecord_splitList (fd : Feeder) (h : Nat) (r : Record) : (fd.setRecord h r).splitList = fd.splitList := by
  unfold Feeder.setRecord; split <;> rfl

@[simp] theorem Feeder.modRecord_splitList (fd : Feeder) (h : Nat) (g : Record → Record) :
    (fd.modRecord h g).splitList = fd.splitList :=
  Feeder.setRecord_splitList fd h _

@[simp] theorem Feeder.setRecord_splitCounter (fd : Feeder) (h : Nat) (r : Record) : (fd.setRecord h r).splitCounter = fd.splitCounter := by
  unfold Feeder.setRecord; split <;> rfl

@[simp] theorem Feeder.modRecord_splitCounter (fd : Feeder) (h : Nat) (g : Record → Record) :
    (fd.modRecord h g).splitCounter = fd.splitCounter :=
  Feeder.setRecord_splitCounter fd h _

@[simp] theorem Feeder.setRecord_rootCd (fd : Feeder) (h : Nat) (r : Record) : (fd.setRecord h r).rootCd = fd.rootCd := by
  unfold Feeder.setRecord; split <;> rfl

@[simp] theorem Feeder.modRecord_rootCd (fd : Feeder) (h : Nat) (g : Record → Record) :
    (fd.modRecord h g).rootCd = fd.rootCd :=
  Feeder.setRecord_rootCd fd h _

@[simp] theorem Feeder.setRecord_gapCd (fd : Feeder) (h : Nat) (r : Record) : (fd.setRecord h r).gapCd = fd.gapCd := by
  unfold Feeder.setRecord; split <;> rfl

@[simp] theorem Feeder.modRecord_gapCd (fd : Feeder) (h : Nat) (g : Record → Record) :
    (fd.modRecord h g).gapCd = fd.gapCd :=
  Feeder.setRecord_gapCd fd h _

@[simp] theorem Feeder.setRecord_lastProbed (fd : Feeder) (h : Nat) (r : Record) : (fd.setRecord h r).lastProbed = fd.lastProbed := by
  unfold Feeder.setRecord; split <;> rfl

@[simp] theorem Feeder.modRecord_lastProbed (fd : Feeder) (h : Nat) (g : Record → Record) :
    (fd.modRecord h g).lastProbed = fd.lastProbed :=
  Feeder.setRecord_lastProbed fd h _

@[simp] theorem Feeder.setRecord_nextHeader (fd : Feeder) (h : Nat) (r : Record) : (fd.setRecord h r).nextHeader = fd.nextHeader := by
  unfold Feeder.setRecord; split <;> rfl

@[simp] theorem Feeder.modRecord_nextHeader (fd : Feeder) (h : Nat) (g : Record → Record) :
    (fd.modRecord h g).nextHeader = fd.nextHeader :=
  Feeder.setRecord_nextHeader fd h _

@[simp] theorem Feeder.setRecord_heldMaps (fd : Feeder) (h : Nat) (r : Record) : (fd.setRecord h r).heldMaps = fd.heldMaps := by
  unfold Feeder.setRecord; split <;> rfl

@[simp] theorem Feeder.modRecord_heldMaps (fd : Feeder) (h : Nat) (g : Record → Record) :
    (fd.modRecord h g).heldMaps = fd.heldMaps :=
  Feeder.setRecord_heldMaps fd h _

@[simp] theorem Feeder.setRecord_rotation (fd : Feeder) (h : Nat) (r : Record) : (fd.setRecord h r).rotation = fd.rotation := by
  unfold Feeder.setRecord; split <;> rfl

@[simp] theorem Feeder.modRecord_rotation (fd : Feeder) (h : Nat) (g : Record → Record) :
    (fd.modRecord h g).rotation = fd.rotation :=
  Feeder.setRecord_rotation fd h _

@[simp] theorem Feeder.setRecord_checkWait (fd : Feeder) (h : Nat) (r : Record) : (fd.setRecord h r).checkWait = fd.checkWait := by
  unfold Feeder.setRecord; split <;> rfl

@[simp] theorem Feeder.modRecord_checkWait (fd : Feeder) (h : Nat) (g : Record → Record) :
    (fd.modRecord h g).checkWait = fd.checkWait :=
  Feeder.setRecord_checkWait fd h _

@[simp] theorem Feeder.setRecord_urgent (fd : Feeder) (h : Nat) (r : Record) : (fd.setRecord h r).urgent = fd.urgent := by
  unfold Feeder.setRecord; split <;> rfl

@[simp] theorem Feeder.modRecord_urgent (fd : Feeder) (h : Nat) (g : Record → Record) :
    (fd.modRecord h g).urgent = fd.urgent :=
  Feeder.setRecord_urgent fd h _

@[simp] theorem Feeder.setRecord_ordinary (fd : Feeder) (h : Nat) (r : Record) : (fd.setRecord h r).ordinary = fd.ordinary := by
  unfold Feeder.setRecord; split <;> rfl

@[simp] theorem Feeder.modRecord_ordinary (fd : Feeder) (h : Nat) (g : Record → Record) :
    (fd.modRecord h g).ordinary = fd.ordinary :=
  Feeder.setRecord_ordinary fd h _

@[simp] theorem Feeder.setRecord_hunt (fd : Feeder) (h : Nat) (r : Record) : (fd.setRecord h r).hunt = fd.hunt := by
  unfold Feeder.setRecord; split <;> rfl

@[simp] theorem Feeder.modRecord_hunt (fd : Feeder) (h : Nat) (g : Record → Record) :
    (fd.modRecord h g).hunt = fd.hunt :=
  Feeder.setRecord_hunt fd h _

@[simp] theorem Feeder.setRecord_watch (fd : Feeder) (h : Nat) (r : Record) : (fd.setRecord h r).watch = fd.watch := by
  unfold Feeder.setRecord; split <;> rfl

@[simp] theorem Feeder.modRecord_watch (fd : Feeder) (h : Nat) (g : Record → Record) :
    (fd.modRecord h g).watch = fd.watch :=
  Feeder.setRecord_watch fd h _

@[simp] theorem Feeder.setRecord_downBuffer (fd : Feeder) (h : Nat) (r : Record) : (fd.setRecord h r).downBuffer = fd.downBuffer := by
  unfold Feeder.setRecord; split <;> rfl

@[simp] theorem Feeder.modRecord_downBuffer (fd : Feeder) (h : Nat) (g : Record → Record) :
    (fd.modRecord h g).downBuffer = fd.downBuffer :=
  Feeder.setRecord_downBuffer fd h _

@[simp] theorem Feeder.setRecord_line (fd : Feeder) (h : Nat) (r : Record) : (fd.setRecord h r).line = fd.line := by
  unfold Feeder.setRecord; split <;> rfl

@[simp] theorem Feeder.modRecord_line (fd : Feeder) (h : Nat) (g : Record → Record) :
    (fd.modRecord h g).line = fd.line :=
  Feeder.setRecord_line fd h _

theorem Feeder.record_setRecord (fd : Feeder) (h k : Nat) (r : Record) :
    (fd.setRecord h r).record k = if h = k ∧ 1 ≤ h ∧ h ≤ 255 then r else fd.record k := by
  unfold Feeder.record Feeder.setRecord
  by_cases hk : k = 0
  · subst hk
    by_cases hh : h = 0 <;> simp [hh]
  · by_cases hh : h = 0
    · subst hh; simp
    · by_cases hkb : k - 1 < 255
      · by_cases e : h = k
        · subst e; simp [hk, hkb]; omega
        · have : h - 1 ≠ k - 1 := by omega
          simp [hk, hh, hkb, e, this]
      · have : ¬ (h = k ∧ 1 ≤ h ∧ h ≤ 255) := by omega
        simp only [hk, hh, if_false, this]
        simp [hkb]

@[simp] theorem Feeder.record_setRecord_self (fd : Feeder) (h : Nat) (r : Record) (h1 : 1 ≤ h) (h2 : h ≤ 255) :
    (fd.setRecord h r).record h = r := by
  simp [Feeder.record_setRecord, h1, h2]

theorem Feeder.record_setRecord_of_ne (fd : Feeder) (h k : Nat) (r : Record) (e : k ≠ h) :
    (fd.setRecord h r).record k = fd.record k := by
  simp [Feeder.record_setRecord, Ne.symm e]

@[simp] theorem Feeder.record_modRecord_self (fd : Feeder) (h : Nat) (g : Record → Record) (h1 : 1 ≤ h)
    (h2 : h ≤ 255) : (fd.modRecord h g).record h = g (fd.record h) :=
  Feeder.record_setRecord_self fd h _ h1 h2

theorem Feeder.record_modRecord_of_ne (fd : Feeder) (h k : Nat) (g : Record → Record) (e : k ≠ h) :
    (fd.modRecord h g).record k = fd.record k :=
  Feeder.record_setRecord_of_ne fd h k _ e

/-- A handle without a record reads as FREE, whatever the table holds (R1). -/
theorem Feeder.record_of_out (fd : Feeder) (h : Nat) (e : h = 0 ∨ 255 < h) : fd.record h = freeRecord := by
  unfold Feeder.record
  split
  · rfl
  · have hb : ¬ h - 1 < 255 := by omega
    simp [hb]

/-! ## Counters and latched flags -/

@[simp] theorem Feeder.count_state (fd : Feeder) (n : CounterName) (k : Nat) : (fd.count n k).state = fd.state := rfl

@[simp] theorem Feeder.count_seqCount (fd : Feeder) (n : CounterName) (k : Nat) : (fd.count n k).seqCount = fd.seqCount := rfl

@[simp] theorem Feeder.count_dark (fd : Feeder) (n : CounterName) (k : Nat) : (fd.count n k).dark = fd.dark := rfl

@[simp] theorem Feeder.count_darkRun (fd : Feeder) (n : CounterName) (k : Nat) : (fd.count n k).darkRun = fd.darkRun := rfl

@[simp] theorem Feeder.count_lightRun (fd : Feeder) (n : CounterName) (k : Nat) : (fd.count n k).lightRun = fd.lightRun := rfl

@[simp] theorem Feeder.count_stray (fd : Feeder) (n : CounterName) (k : Nat) : (fd.count n k).stray = fd.stray := rfl

@[simp] theorem Feeder.count_strayRun (fd : Feeder) (n : CounterName) (k : Nat) : (fd.count n k).strayRun = fd.strayRun := rfl

@[simp] theorem Feeder.count_settings (fd : Feeder) (n : CounterName) (k : Nat) : (fd.count n k).settings = fd.settings := rfl

@[simp] theorem Feeder.count_latched (fd : Feeder) (n : CounterName) (k : Nat) : (fd.count n k).latched = fd.latched := rfl

@[simp] theorem Feeder.count_table (fd : Feeder) (n : CounterName) (k : Nat) : (fd.count n k).table = fd.table := rfl

@[simp] theorem Feeder.count_arrivals (fd : Feeder) (n : CounterName) (k : Nat) : (fd.count n k).arrivals = fd.arrivals := rfl

@[simp] theorem Feeder.count_expired (fd : Feeder) (n : CounterName) (k : Nat) : (fd.count n k).expired = fd.expired := rfl

@[simp] theorem Feeder.count_fullArmed (fd : Feeder) (n : CounterName) (k : Nat) : (fd.count n k).fullArmed = fd.fullArmed := rfl

@[simp] theorem Feeder.count_splitList (fd : Feeder) (n : CounterName) (k : Nat) : (fd.count n k).splitList = fd.splitList := rfl

@[simp] theorem Feeder.count_splitCounter (fd : Feeder) (n : CounterName) (k : Nat) : (fd.count n k).splitCounter = fd.splitCounter := rfl

@[simp] theorem Feeder.count_rootCd (fd : Feeder) (n : CounterName) (k : Nat) : (fd.count n k).rootCd = fd.rootCd := rfl

@[simp] theorem Feeder.count_gapCd (fd : Feeder) (n : CounterName) (k : Nat) : (fd.count n k).gapCd = fd.gapCd := rfl

@[simp] theorem Feeder.count_lastProbed (fd : Feeder) (n : CounterName) (k : Nat) : (fd.count n k).lastProbed = fd.lastProbed := rfl

@[simp] theorem Feeder.count_nextHeader (fd : Feeder) (n : CounterName) (k : Nat) : (fd.count n k).nextHeader = fd.nextHeader := rfl

@[simp] theorem Feeder.count_heldMaps (fd : Feeder) (n : CounterName) (k : Nat) : (fd.count n k).heldMaps = fd.heldMaps := rfl

@[simp] theorem Feeder.count_rotation (fd : Feeder) (n : CounterName) (k : Nat) : (fd.count n k).rotation = fd.rotation := rfl

@[simp] theorem Feeder.count_checkWait (fd : Feeder) (n : CounterName) (k : Nat) : (fd.count n k).checkWait = fd.checkWait := rfl

@[simp] theorem Feeder.count_urgent (fd : Feeder) (n : CounterName) (k : Nat) : (fd.count n k).urgent = fd.urgent := rfl

@[simp] theorem Feeder.count_ordinary (fd : Feeder) (n : CounterName) (k : Nat) : (fd.count n k).ordinary = fd.ordinary := rfl

@[simp] theorem Feeder.count_hunt (fd : Feeder) (n : CounterName) (k : Nat) : (fd.count n k).hunt = fd.hunt := rfl

@[simp] theorem Feeder.count_watch (fd : Feeder) (n : CounterName) (k : Nat) : (fd.count n k).watch = fd.watch := rfl

@[simp] theorem Feeder.count_downBuffer (fd : Feeder) (n : CounterName) (k : Nat) : (fd.count n k).downBuffer = fd.downBuffer := rfl

@[simp] theorem Feeder.count_line (fd : Feeder) (n : CounterName) (k : Nat) : (fd.count n k).line = fd.line := rfl

@[simp] theorem Feeder.latchQueueFull_state (fd : Feeder) : (fd.latchQueueFull).state = fd.state := rfl

@[simp] theorem Feeder.latchQueueFull_seqCount (fd : Feeder) : (fd.latchQueueFull).seqCount = fd.seqCount := rfl

@[simp] theorem Feeder.latchQueueFull_dark (fd : Feeder) : (fd.latchQueueFull).dark = fd.dark := rfl

@[simp] theorem Feeder.latchQueueFull_darkRun (fd : Feeder) : (fd.latchQueueFull).darkRun = fd.darkRun := rfl

@[simp] theorem Feeder.latchQueueFull_lightRun (fd : Feeder) : (fd.latchQueueFull).lightRun = fd.lightRun := rfl

@[simp] theorem Feeder.latchQueueFull_stray (fd : Feeder) : (fd.latchQueueFull).stray = fd.stray := rfl

@[simp] theorem Feeder.latchQueueFull_strayRun (fd : Feeder) : (fd.latchQueueFull).strayRun = fd.strayRun := rfl

@[simp] theorem Feeder.latchQueueFull_settings (fd : Feeder) : (fd.latchQueueFull).settings = fd.settings := rfl

@[simp] theorem Feeder.latchQueueFull_counters (fd : Feeder) : (fd.latchQueueFull).counters = fd.counters := rfl

@[simp] theorem Feeder.latchQueueFull_table (fd : Feeder) : (fd.latchQueueFull).table = fd.table := rfl

@[simp] theorem Feeder.latchQueueFull_arrivals (fd : Feeder) : (fd.latchQueueFull).arrivals = fd.arrivals := rfl

@[simp] theorem Feeder.latchQueueFull_expired (fd : Feeder) : (fd.latchQueueFull).expired = fd.expired := rfl

@[simp] theorem Feeder.latchQueueFull_fullArmed (fd : Feeder) : (fd.latchQueueFull).fullArmed = fd.fullArmed := rfl

@[simp] theorem Feeder.latchQueueFull_splitList (fd : Feeder) : (fd.latchQueueFull).splitList = fd.splitList := rfl

@[simp] theorem Feeder.latchQueueFull_splitCounter (fd : Feeder) : (fd.latchQueueFull).splitCounter = fd.splitCounter := rfl

@[simp] theorem Feeder.latchQueueFull_rootCd (fd : Feeder) : (fd.latchQueueFull).rootCd = fd.rootCd := rfl

@[simp] theorem Feeder.latchQueueFull_gapCd (fd : Feeder) : (fd.latchQueueFull).gapCd = fd.gapCd := rfl

@[simp] theorem Feeder.latchQueueFull_lastProbed (fd : Feeder) : (fd.latchQueueFull).lastProbed = fd.lastProbed := rfl

@[simp] theorem Feeder.latchQueueFull_nextHeader (fd : Feeder) : (fd.latchQueueFull).nextHeader = fd.nextHeader := rfl

@[simp] theorem Feeder.latchQueueFull_heldMaps (fd : Feeder) : (fd.latchQueueFull).heldMaps = fd.heldMaps := rfl

@[simp] theorem Feeder.latchQueueFull_rotation (fd : Feeder) : (fd.latchQueueFull).rotation = fd.rotation := rfl

@[simp] theorem Feeder.latchQueueFull_checkWait (fd : Feeder) : (fd.latchQueueFull).checkWait = fd.checkWait := rfl

@[simp] theorem Feeder.latchQueueFull_urgent (fd : Feeder) : (fd.latchQueueFull).urgent = fd.urgent := rfl

@[simp] theorem Feeder.latchQueueFull_ordinary (fd : Feeder) : (fd.latchQueueFull).ordinary = fd.ordinary := rfl

@[simp] theorem Feeder.latchQueueFull_hunt (fd : Feeder) : (fd.latchQueueFull).hunt = fd.hunt := rfl

@[simp] theorem Feeder.latchQueueFull_watch (fd : Feeder) : (fd.latchQueueFull).watch = fd.watch := rfl

@[simp] theorem Feeder.latchQueueFull_downBuffer (fd : Feeder) : (fd.latchQueueFull).downBuffer = fd.downBuffer := rfl

@[simp] theorem Feeder.latchQueueFull_line (fd : Feeder) : (fd.latchQueueFull).line = fd.line := rfl

@[simp] theorem Feeder.latchArrivalsFull_state (fd : Feeder) : (fd.latchArrivalsFull).state = fd.state := rfl

@[simp] theorem Feeder.latchArrivalsFull_seqCount (fd : Feeder) : (fd.latchArrivalsFull).seqCount = fd.seqCount := rfl

@[simp] theorem Feeder.latchArrivalsFull_dark (fd : Feeder) : (fd.latchArrivalsFull).dark = fd.dark := rfl

@[simp] theorem Feeder.latchArrivalsFull_darkRun (fd : Feeder) : (fd.latchArrivalsFull).darkRun = fd.darkRun := rfl

@[simp] theorem Feeder.latchArrivalsFull_lightRun (fd : Feeder) : (fd.latchArrivalsFull).lightRun = fd.lightRun := rfl

@[simp] theorem Feeder.latchArrivalsFull_stray (fd : Feeder) : (fd.latchArrivalsFull).stray = fd.stray := rfl

@[simp] theorem Feeder.latchArrivalsFull_strayRun (fd : Feeder) : (fd.latchArrivalsFull).strayRun = fd.strayRun := rfl

@[simp] theorem Feeder.latchArrivalsFull_settings (fd : Feeder) : (fd.latchArrivalsFull).settings = fd.settings := rfl

@[simp] theorem Feeder.latchArrivalsFull_counters (fd : Feeder) : (fd.latchArrivalsFull).counters = fd.counters := rfl

@[simp] theorem Feeder.latchArrivalsFull_table (fd : Feeder) : (fd.latchArrivalsFull).table = fd.table := rfl

@[simp] theorem Feeder.latchArrivalsFull_arrivals (fd : Feeder) : (fd.latchArrivalsFull).arrivals = fd.arrivals := rfl

@[simp] theorem Feeder.latchArrivalsFull_expired (fd : Feeder) : (fd.latchArrivalsFull).expired = fd.expired := rfl

@[simp] theorem Feeder.latchArrivalsFull_fullArmed (fd : Feeder) : (fd.latchArrivalsFull).fullArmed = fd.fullArmed := rfl

@[simp] theorem Feeder.latchArrivalsFull_splitList (fd : Feeder) : (fd.latchArrivalsFull).splitList = fd.splitList := rfl

@[simp] theorem Feeder.latchArrivalsFull_splitCounter (fd : Feeder) : (fd.latchArrivalsFull).splitCounter = fd.splitCounter := rfl

@[simp] theorem Feeder.latchArrivalsFull_rootCd (fd : Feeder) : (fd.latchArrivalsFull).rootCd = fd.rootCd := rfl

@[simp] theorem Feeder.latchArrivalsFull_gapCd (fd : Feeder) : (fd.latchArrivalsFull).gapCd = fd.gapCd := rfl

@[simp] theorem Feeder.latchArrivalsFull_lastProbed (fd : Feeder) : (fd.latchArrivalsFull).lastProbed = fd.lastProbed := rfl

@[simp] theorem Feeder.latchArrivalsFull_nextHeader (fd : Feeder) : (fd.latchArrivalsFull).nextHeader = fd.nextHeader := rfl

@[simp] theorem Feeder.latchArrivalsFull_heldMaps (fd : Feeder) : (fd.latchArrivalsFull).heldMaps = fd.heldMaps := rfl

@[simp] theorem Feeder.latchArrivalsFull_rotation (fd : Feeder) : (fd.latchArrivalsFull).rotation = fd.rotation := rfl

@[simp] theorem Feeder.latchArrivalsFull_checkWait (fd : Feeder) : (fd.latchArrivalsFull).checkWait = fd.checkWait := rfl

@[simp] theorem Feeder.latchArrivalsFull_urgent (fd : Feeder) : (fd.latchArrivalsFull).urgent = fd.urgent := rfl

@[simp] theorem Feeder.latchArrivalsFull_ordinary (fd : Feeder) : (fd.latchArrivalsFull).ordinary = fd.ordinary := rfl

@[simp] theorem Feeder.latchArrivalsFull_hunt (fd : Feeder) : (fd.latchArrivalsFull).hunt = fd.hunt := rfl

@[simp] theorem Feeder.latchArrivalsFull_watch (fd : Feeder) : (fd.latchArrivalsFull).watch = fd.watch := rfl

@[simp] theorem Feeder.latchArrivalsFull_downBuffer (fd : Feeder) : (fd.latchArrivalsFull).downBuffer = fd.downBuffer := rfl

@[simp] theorem Feeder.latchArrivalsFull_line (fd : Feeder) : (fd.latchArrivalsFull).line = fd.line := rfl

@[simp] theorem Feeder.latchDark_state (fd : Feeder) : (fd.latchDark).state = fd.state := rfl

@[simp] theorem Feeder.latchDark_seqCount (fd : Feeder) : (fd.latchDark).seqCount = fd.seqCount := rfl

@[simp] theorem Feeder.latchDark_dark (fd : Feeder) : (fd.latchDark).dark = fd.dark := rfl

@[simp] theorem Feeder.latchDark_darkRun (fd : Feeder) : (fd.latchDark).darkRun = fd.darkRun := rfl

@[simp] theorem Feeder.latchDark_lightRun (fd : Feeder) : (fd.latchDark).lightRun = fd.lightRun := rfl

@[simp] theorem Feeder.latchDark_stray (fd : Feeder) : (fd.latchDark).stray = fd.stray := rfl

@[simp] theorem Feeder.latchDark_strayRun (fd : Feeder) : (fd.latchDark).strayRun = fd.strayRun := rfl

@[simp] theorem Feeder.latchDark_settings (fd : Feeder) : (fd.latchDark).settings = fd.settings := rfl

@[simp] theorem Feeder.latchDark_counters (fd : Feeder) : (fd.latchDark).counters = fd.counters := rfl

@[simp] theorem Feeder.latchDark_table (fd : Feeder) : (fd.latchDark).table = fd.table := rfl

@[simp] theorem Feeder.latchDark_arrivals (fd : Feeder) : (fd.latchDark).arrivals = fd.arrivals := rfl

@[simp] theorem Feeder.latchDark_expired (fd : Feeder) : (fd.latchDark).expired = fd.expired := rfl

@[simp] theorem Feeder.latchDark_fullArmed (fd : Feeder) : (fd.latchDark).fullArmed = fd.fullArmed := rfl

@[simp] theorem Feeder.latchDark_splitList (fd : Feeder) : (fd.latchDark).splitList = fd.splitList := rfl

@[simp] theorem Feeder.latchDark_splitCounter (fd : Feeder) : (fd.latchDark).splitCounter = fd.splitCounter := rfl

@[simp] theorem Feeder.latchDark_rootCd (fd : Feeder) : (fd.latchDark).rootCd = fd.rootCd := rfl

@[simp] theorem Feeder.latchDark_gapCd (fd : Feeder) : (fd.latchDark).gapCd = fd.gapCd := rfl

@[simp] theorem Feeder.latchDark_lastProbed (fd : Feeder) : (fd.latchDark).lastProbed = fd.lastProbed := rfl

@[simp] theorem Feeder.latchDark_nextHeader (fd : Feeder) : (fd.latchDark).nextHeader = fd.nextHeader := rfl

@[simp] theorem Feeder.latchDark_heldMaps (fd : Feeder) : (fd.latchDark).heldMaps = fd.heldMaps := rfl

@[simp] theorem Feeder.latchDark_rotation (fd : Feeder) : (fd.latchDark).rotation = fd.rotation := rfl

@[simp] theorem Feeder.latchDark_checkWait (fd : Feeder) : (fd.latchDark).checkWait = fd.checkWait := rfl

@[simp] theorem Feeder.latchDark_urgent (fd : Feeder) : (fd.latchDark).urgent = fd.urgent := rfl

@[simp] theorem Feeder.latchDark_ordinary (fd : Feeder) : (fd.latchDark).ordinary = fd.ordinary := rfl

@[simp] theorem Feeder.latchDark_hunt (fd : Feeder) : (fd.latchDark).hunt = fd.hunt := rfl

@[simp] theorem Feeder.latchDark_watch (fd : Feeder) : (fd.latchDark).watch = fd.watch := rfl

@[simp] theorem Feeder.latchDark_downBuffer (fd : Feeder) : (fd.latchDark).downBuffer = fd.downBuffer := rfl

@[simp] theorem Feeder.latchDark_line (fd : Feeder) : (fd.latchDark).line = fd.line := rfl

@[simp] theorem Feeder.latchStray_state (fd : Feeder) : (fd.latchStray).state = fd.state := rfl

@[simp] theorem Feeder.latchStray_seqCount (fd : Feeder) : (fd.latchStray).seqCount = fd.seqCount := rfl

@[simp] theorem Feeder.latchStray_dark (fd : Feeder) : (fd.latchStray).dark = fd.dark := rfl

@[simp] theorem Feeder.latchStray_darkRun (fd : Feeder) : (fd.latchStray).darkRun = fd.darkRun := rfl

@[simp] theorem Feeder.latchStray_lightRun (fd : Feeder) : (fd.latchStray).lightRun = fd.lightRun := rfl

@[simp] theorem Feeder.latchStray_stray (fd : Feeder) : (fd.latchStray).stray = fd.stray := rfl

@[simp] theorem Feeder.latchStray_strayRun (fd : Feeder) : (fd.latchStray).strayRun = fd.strayRun := rfl

@[simp] theorem Feeder.latchStray_settings (fd : Feeder) : (fd.latchStray).settings = fd.settings := rfl

@[simp] theorem Feeder.latchStray_counters (fd : Feeder) : (fd.latchStray).counters = fd.counters := rfl

@[simp] theorem Feeder.latchStray_table (fd : Feeder) : (fd.latchStray).table = fd.table := rfl

@[simp] theorem Feeder.latchStray_arrivals (fd : Feeder) : (fd.latchStray).arrivals = fd.arrivals := rfl

@[simp] theorem Feeder.latchStray_expired (fd : Feeder) : (fd.latchStray).expired = fd.expired := rfl

@[simp] theorem Feeder.latchStray_fullArmed (fd : Feeder) : (fd.latchStray).fullArmed = fd.fullArmed := rfl

@[simp] theorem Feeder.latchStray_splitList (fd : Feeder) : (fd.latchStray).splitList = fd.splitList := rfl

@[simp] theorem Feeder.latchStray_splitCounter (fd : Feeder) : (fd.latchStray).splitCounter = fd.splitCounter := rfl

@[simp] theorem Feeder.latchStray_rootCd (fd : Feeder) : (fd.latchStray).rootCd = fd.rootCd := rfl

@[simp] theorem Feeder.latchStray_gapCd (fd : Feeder) : (fd.latchStray).gapCd = fd.gapCd := rfl

@[simp] theorem Feeder.latchStray_lastProbed (fd : Feeder) : (fd.latchStray).lastProbed = fd.lastProbed := rfl

@[simp] theorem Feeder.latchStray_nextHeader (fd : Feeder) : (fd.latchStray).nextHeader = fd.nextHeader := rfl

@[simp] theorem Feeder.latchStray_heldMaps (fd : Feeder) : (fd.latchStray).heldMaps = fd.heldMaps := rfl

@[simp] theorem Feeder.latchStray_rotation (fd : Feeder) : (fd.latchStray).rotation = fd.rotation := rfl

@[simp] theorem Feeder.latchStray_checkWait (fd : Feeder) : (fd.latchStray).checkWait = fd.checkWait := rfl

@[simp] theorem Feeder.latchStray_urgent (fd : Feeder) : (fd.latchStray).urgent = fd.urgent := rfl

@[simp] theorem Feeder.latchStray_ordinary (fd : Feeder) : (fd.latchStray).ordinary = fd.ordinary := rfl

@[simp] theorem Feeder.latchStray_hunt (fd : Feeder) : (fd.latchStray).hunt = fd.hunt := rfl

@[simp] theorem Feeder.latchStray_watch (fd : Feeder) : (fd.latchStray).watch = fd.watch := rfl

@[simp] theorem Feeder.latchStray_downBuffer (fd : Feeder) : (fd.latchStray).downBuffer = fd.downBuffer := rfl

@[simp] theorem Feeder.latchStray_line (fd : Feeder) : (fd.latchStray).line = fd.line := rfl

end Sys2Proof.Machine
end

