-- ==== Sys2Proof/Laws/Records.lean ====
section
/-! SUPPORT. Records read and written through the state, and how the raising of a notice passes an update by. -/
namespace Sys2Proof.Machine

open Sys2Proof

/-! ## Records of a feeder -/

@[simp] theorem Feeder.setRecord_setRecord (fd : Feeder) (h : Nat) (r q : Record) :
    (fd.setRecord h r).setRecord h q = fd.setRecord h q := by
  unfold Feeder.setRecord
  split
  · rfl
  · congr 1
    ext i hi
    simp only [Vector.getElem_setIfInBounds]
    split <;> rfl

@[simp] theorem Feeder.setRecord_record (fd : Feeder) (h : Nat) : fd.setRecord h (fd.record h) = fd := by
  unfold Feeder.setRecord Feeder.record
  by_cases h0 : h = 0
  · simp [h0]
  · simp only [h0, if_false]
    have : fd.table.setIfInBounds (h - 1) (fd.table[h - 1]?.getD freeRecord) = fd.table := by
      ext i hi
      simp only [Vector.getElem_setIfInBounds]
      split
      · subst_vars; simp [hi]
      · rfl
    rw [this]

theorem Feeder.modRecord_eq (fd : Feeder) (h : Nat) (g : Record → Record) :
    fd.modRecord h g = fd.setRecord h (g (fd.record h)) := rfl

/-! ## Records of the state -/

theorem State.modRecord_eq (s : State) (f : FeederId) (h : Nat) (g : Record → Record) :
    s.modRecord f h g = s.setFd f ((s.fd f).setRecord h (g (s.record f h))) := rfl

@[simp] theorem State.fd_modRecord (s : State) (f : FeederId) (h : Nat) (g : Record → Record) :
    (s.modRecord f h g).fd f = (s.fd f).modRecord h g := by
  simp [State.modRecord]

@[simp] theorem State.record_modRecord_self (s : State) (f : FeederId) (h : Nat) (g : Record → Record) (h1 : 1 ≤ h)
    (h2 : h ≤ 255) : (s.modRecord f h g).record f h = g (s.record f h) := by
  simp [State.record, h1, h2]

theorem State.record_modRecord_of_ne (s : State) (f : FeederId) (h k : Nat) (g : Record → Record) (e : k ≠ h) :
    (s.modRecord f h g).record f k = s.record f k := by
  simp [State.record, Feeder.record_modRecord_of_ne _ _ _ _ e]

@[simp] theorem State.record_raise (s : State) (k : NoticeKind) (n : NoticeFields) (f : FeederId) (h : Nat) :
    (s.raise k n).record f h = s.record f h := by
  simp [State.record]

theorem State.record_of_out (s : State) (f : FeederId) (h : Nat) (e : h = 0 ∨ 255 < h) : s.record f h = freeRecord :=
  Feeder.record_of_out (s.fd f) h e

/-! ## Notices and the plan -/

/-- A notice and a feeder's update pass each other: the queue does not look at the feeders. -/
theorem State.raise_setFd (s : State) (f : FeederId) (x : Feeder) (k : NoticeKind) (n : NoticeFields) :
    (s.setFd f x).raise k n = (s.raise k n).setFd f x := by
  unfold State.raise
  simp only [State.setFd_noticeMask, State.setFd_notices, State.setFd_cycle]
  split
  · rfl
  · split <;> cases f <;> rfl

@[simp] theorem State.planAt_setFd (s : State) (f : FeederId) (x : Feeder) (i : Nat) :
    (s.setFd f x).planAt i = s.planAt i := by
  simp [State.planAt]

@[simp] theorem State.planAt_raise (s : State) (k : NoticeKind) (n : NoticeFields) (i : Nat) :
    (s.raise k n).planAt i = s.planAt i := by
  simp [State.planAt]

@[simp] theorem State.dwellingOf_setFd (s : State) (f : FeederId) (x : Feeder) (link : Option Nat) :
    (s.setFd f x).dwellingOf link = s.dwellingOf link := by
  simp [State.dwellingOf]

@[simp] theorem State.dwellingOf_raise (s : State) (k : NoticeKind) (n : NoticeFields) (link : Option Nat) :
    (s.raise k n).dwellingOf link = s.dwellingOf link := by
  simp [State.dwellingOf]

@[simp] theorem State.profileOf_setFd (s : State) (f : FeederId) (x : Feeder) (r : Record) :
    (s.setFd f x).profileOf r = s.profileOf r := by
  simp [State.profileOf]

end Sys2Proof.Machine
end

