-- ==== Sys2Proof/Laws/Ops.lean ====
section
/-! SUPPORT. What each shared operation of Machine/Ops.lean and Machine/Flags.lean can do, said once. -/
namespace Sys2Proof.Machine

open Sys2Proof

/-! ## Raising a notice (R196) -/

/-- Raising a notice loses it to its mask, queues it, or loses it to a full queue with NOTICE_OVERRUN set. -/
theorem State.raise_cases (s : State) (k : NoticeKind) (n : NoticeFields) :
    (s.noticeMask.getLsbD k.code = false ∧ s.raise k n = s) ∨
      (s.noticeMask.getLsbD k.code = true ∧ s.notices.length < 64 ∧
        s.raise k n = { s with notices := s.notices ++ [{ kind := k, cycle := s.cycle, fields := n }] }) ∨
      (s.noticeMask.getLsbD k.code = true ∧ 64 ≤ s.notices.length ∧ s.raise k n = { s with noticeOverrun := true }) := by
  unfold State.raise Config.noticeCapacity
  cases s.noticeMask.getLsbD k.code
  · exact .inl ⟨rfl, rfl⟩
  · by_cases h : s.notices.length < 64
    · exact .inr (.inl ⟨rfl, h, by simp [h]⟩)
    · exact .inr (.inr ⟨rfl, by omega, by simp [h]⟩)

/-! ## An operation of one feeder -/

/-- `t` differs from `s` in the feeder `f` and in the notices at most. -/
def State.Within (f : FeederId) (s t : State) : Prop :=
  t.fd f.other = s.fd f.other ∧
    t = { s with feederA := t.feederA, feederB := t.feederB, notices := t.notices, noticeOverrun := t.noticeOverrun }

theorem State.Within.refl (f : FeederId) (s : State) : s.Within f s := ⟨rfl, rfl⟩

theorem State.Within.trans {f : FeederId} {s t u : State} (h : s.Within f t) (k : t.Within f u) : s.Within f u := by
  obtain ⟨h1, h2⟩ := h
  obtain ⟨k1, k2⟩ := k
  refine ⟨k1.trans h1, ?_⟩
  rw [k2, h2]

theorem State.within_setFd (f : FeederId) (s : State) (x : Feeder) : s.Within f (s.setFd f x) := by
  cases f <;> exact ⟨rfl, rfl⟩

theorem State.within_modFd (f : FeederId) (s : State) (g : Feeder → Feeder) : s.Within f (s.modFd f g) :=
  State.within_setFd f s _

theorem State.within_modRecord (f : FeederId) (s : State) (h : Nat) (g : Record → Record) :
    s.Within f (s.modRecord f h g) :=
  State.within_setFd f s _

theorem State.within_raise (f : FeederId) (s : State) (k : NoticeKind) (n : NoticeFields) : s.Within f (s.raise k n) := by
  refine ⟨by simp, ?_⟩
  rcases s.raise_cases k n with ⟨-, h⟩ | ⟨-, -, h⟩ | ⟨-, -, h⟩ <;> rw [h]

/-! ## Searching a table (R1) -/

theorem Feeder.record_eq_getElem (fd : Feeder) (h : Nat) (h1 : 1 ≤ h) (h2 : h ≤ 255) :
    fd.record h = fd.table[h - 1]'(by omega) := by
  unfold Feeder.record
  rw [if_neg (by omega)]
  have : h - 1 < 255 := by omega
  simp [this]

/-- A handle is found where its record satisfies the test. -/
theorem Feeder.mem_handlesWhere (fd : Feeder) (p : Nat → Record → Bool) (h : Nat) :
    h ∈ fd.handlesWhere p ↔ 1 ≤ h ∧ h ≤ 255 ∧ p h (fd.record h) = true := by
  unfold Feeder.handlesWhere
  simp only [List.mem_map, List.mem_filter, Prod.exists, List.mk_mem_zipIdx_iff_le_and_getElem?_sub]
  constructor
  · rintro ⟨r, k, ⟨⟨hk, he⟩, hp⟩, rfl⟩
    have hlt : k - 1 < 255 := by
      by_contra hc
      have : fd.table.toList.length ≤ k - 1 := by simp; omega
      rw [List.getElem?_eq_none this] at he
      exact absurd he (by simp)
    refine ⟨hk, by omega, ?_⟩
    rw [Feeder.record_eq_getElem fd k hk (by omega)]
    simp only [Vector.getElem?_toList] at he
    rw [Vector.getElem?_eq_getElem hlt] at he
    rw [Option.some.inj he]
    exact hp
  · rintro ⟨h1, h2, hp⟩
    refine ⟨fd.record h, h, ⟨⟨h1, ?_⟩, hp⟩, rfl⟩
    rw [Feeder.record_eq_getElem fd h h1 h2, Vector.getElem?_toList, Vector.getElem?_eq_getElem (by omega)]

/-- The search from a handle on finds none exactly when no record there satisfies the test. -/
theorem Feeder.firstFrom_eq_none (fd : Feeder) (start : Nat) (p : Record → Bool) (hs : 1 ≤ start) :
    fd.firstFrom start p = none ↔ ∀ h, start ≤ h → h ≤ 255 → p (fd.record h) = false := by
  unfold Feeder.firstFrom
  simp only [Option.map_eq_none_iff, List.findIdx?_eq_none_iff]
  constructor
  · intro a h h1 h2
    rw [Feeder.record_eq_getElem fd h (by omega) h2]
    have := a (fd.table[h - 1]'(by omega)) (by
      rw [List.mem_iff_getElem?]
      refine ⟨h - start, ?_⟩
      rw [List.getElem?_drop, Vector.getElem?_toList, show start - 1 + (h - start) = h - 1 by omega]
      exact Vector.getElem?_eq_getElem (by omega))
    simpa using this
  · intro a r hr
    obtain ⟨i, hi⟩ := List.mem_iff_getElem?.mp hr
    rw [List.getElem?_drop, Vector.getElem?_toList] at hi
    have hlt : start - 1 + i < 255 := by
      by_contra hc
      rw [Vector.getElem?_eq_none (by omega)] at hi
      exact absurd hi (by simp)
    have := a (start + i) (by omega) (by omega)
    rw [Feeder.record_eq_getElem fd _ (by omega) (by omega)] at this
    rw [Vector.getElem?_eq_getElem hlt] at hi
    have he : start + i - 1 = start - 1 + i := by omega
    simp only [he] at this
    rw [← Option.some.inj hi, this]

/-- The handle that the search finds: the lowest one, from the start on, whose record satisfies the test. -/
theorem Feeder.firstFrom_eq_some (fd : Feeder) (start : Nat) (p : Record → Bool) (h : Nat) (hs : 1 ≤ start)
    (e : fd.firstFrom start p = some h) :
    start ≤ h ∧ h ≤ 255 ∧ p (fd.record h) = true ∧ ∀ k, start ≤ k → k < h → p (fd.record k) = false := by
  unfold Feeder.firstFrom at e
  obtain ⟨i, hi, rfl⟩ := Option.map_eq_some_iff.mp e
  obtain ⟨hlt, hp, hmin⟩ := List.findIdx?_eq_some_iff_getElem.mp hi
  have hm : max start 1 = start := by omega
  have hb : start - 1 + i < 255 := by simp at hlt; omega
  have key : ∀ j (hj : j < (fd.table.toList.drop (start - 1)).length),
      (fd.table.toList.drop (start - 1))[j] = fd.record (start + j) := by
    intro j hj
    have hj' : start - 1 + j < 255 := by simp at hj; omega
    rw [Feeder.record_eq_getElem fd _ (by omega) (by omega), List.getElem_drop]
    simp only [Vector.getElem_toList]
    congr 1
    omega
  rw [hm]
  refine ⟨by omega, by omega, ?_, ?_⟩
  · rw [Nat.add_comm, ← key i hlt]; exact hp
  · intro k h1 h2
    have := hmin (k - start) (by omega)
    rw [key] at this
    rw [show start + (k - start) = k by omega] at this
    simpa using this

/-! ## Offers (R147 to R149) -/

/-- An owed message leaves every other field of its record as it stands. -/
theorem Record.owe_eq (r : Record) (m : Msg) : ∃ o, r.owe m = { r with owed := o } := by
  unfold Record.owe
  split
  · exact ⟨some m, rfl⟩
  · split
    · exact ⟨r.owed, rfl⟩
    · exact ⟨some m, rfl⟩

/-- `fd'` differs from `fd` in the bands, in records' owed messages and in the latched flags at most. -/
structure Feeder.Talked (fd fd' : Feeder) : Prop where
  rest : fd' = { fd with
    table := fd'.table, urgent := fd'.urgent, ordinary := fd'.ordinary, latched := fd'.latched }
  owed : ∀ k, ∃ o, fd'.record k = { fd.record k with owed := o }

theorem Feeder.Talked.refl (fd : Feeder) : fd.Talked fd := ⟨rfl, fun k => ⟨(fd.record k).owed, rfl⟩⟩

theorem Feeder.Talked.trans {a b c : Feeder} (h : a.Talked b) (k : b.Talked c) : a.Talked c := by
  refine ⟨?_, ?_⟩
  · rw [k.rest, h.rest]
  · intro i
    obtain ⟨o, e⟩ := h.owed i
    obtain ⟨p, q⟩ := k.owed i
    exact ⟨p, by rw [q, e]⟩

/-- A record's owed message written, with the bands and the latched flags of the feeder. -/
theorem Feeder.talked_owe (fd fd' : Feeder) (h : Nat) (m : Msg)
    (e : fd' = { (fd.modRecord h (·.owe m)) with
      urgent := fd'.urgent, ordinary := fd'.ordinary, latched := fd'.latched }) : fd.Talked fd' := by
  refine ⟨?_, ?_⟩
  · rw [e]
    unfold Feeder.modRecord Feeder.setRecord
    split <;> rfl
  · intro k
    have hk : fd'.record k = (fd.modRecord h (·.owe m)).record k := by rw [e]; rfl
    rw [hk, Feeder.modRecord_eq, Feeder.record_setRecord]
    split
    · rename_i hh
      obtain ⟨o, ho⟩ := (fd.record h).owe_eq m
      exact ⟨o, by rw [ho, hh.1]⟩
    · exact ⟨(fd.record k).owed, rfl⟩

theorem Feeder.talked_offerOrdinary (fd : Feeder) (h : Nat) (m : Msg) : fd.Talked (fd.offerOrdinary h m) := by
  unfold Feeder.offerOrdinary
  split
  · exact ⟨rfl, fun k => ⟨(fd.record k).owed, rfl⟩⟩
  · split
    · exact Feeder.talked_owe fd _ h m rfl
    · split
      · exact ⟨rfl, fun k => ⟨(fd.record k).owed, rfl⟩⟩
      · exact Feeder.talked_owe fd _ h m rfl

theorem Feeder.talked_offerUrgent (fd : Feeder) (h : Nat) (m : Msg) : fd.Talked (fd.offerUrgent h m) := by
  unfold Feeder.offerUrgent
  split
  · exact ⟨rfl, fun k => ⟨(fd.record k).owed, rfl⟩⟩
  · split
    · exact ⟨rfl, fun k => ⟨(fd.record k).owed, rfl⟩⟩
    · split
      · rename_i q _
        refine Feeder.talked_owe fd _ q.handle q.msg ?_
        unfold Feeder.modRecord Feeder.setRecord
        split <;> rfl
      · exact Feeder.talked_owe fd _ h m rfl

/-- An offer reaches the bands, the owed messages and the latched flags, and nothing else. -/
theorem Feeder.talked_offer (fd : Feeder) (h : Nat) (m : Msg) : fd.Talked (fd.offer h m) := by
  unfold Feeder.offer
  split
  · exact fd.talked_offerUrgent h m
  · exact fd.talked_offerOrdinary h m

/-! ## The Bar List (R22 to R25) -/

/-- The serial added is on the list. -/
theorem mem_addBar (bars : List BarEntry) (serial : Serial) (hold : Nat) :
    ∃ b ∈ addBar bars serial hold, b.serial = serial := by
  unfold addBar
  split
  · rename_i h
    obtain ⟨b, hb, e⟩ := List.any_eq_true.mp h
    refine ⟨{ b with countdown := hold }, List.mem_map.mpr ⟨b, hb, ?_⟩, by simpa using e⟩
    simp [of_decide_eq_true e]
  · exact ⟨_, List.mem_append_right _ (List.mem_singleton.mpr rfl), rfl⟩

/-- Every entry behind an addition stood on the list or carries the hold loaded by it. -/
theorem addBar_entries (bars : List BarEntry) (serial : Serial) (hold : Nat) :
    ∀ b ∈ addBar bars serial hold, b ∈ bars ∨ (b.serial = serial ∧ b.countdown = hold) := by
  intro b hb
  unfold addBar at hb
  split at hb
  · obtain ⟨c, hc, rfl⟩ := List.mem_map.mp hb
    split
    · exact .inr ⟨by assumption, rfl⟩
    · exact .inl hc
  · rcases List.mem_append.mp hb with hb | hb
    · split at hb
      · exact .inl hb
      · exact .inl (List.mem_of_mem_eraseIdx hb)
    · rw [List.mem_singleton.mp hb]
      exact .inr ⟨rfl, rfl⟩

/-- A list that is not empty holds an entry of the smallest countdown. -/
theorem exists_smallest (bars : List BarEntry) (h : bars ≠ []) :
    ∃ b ∈ bars, (bars.all fun c => decide (b.countdown ≤ c.countdown)) = true := by
  simp only [List.all_eq_true, decide_eq_true_eq]
  induction bars with
  | nil => exact absurd rfl h
  | cons b l ih =>
    by_cases hl : l = []
    · subst hl; exact ⟨b, by simp⟩
    · obtain ⟨c, hc, hm⟩ := ih hl
      by_cases e : b.countdown ≤ c.countdown
      · refine ⟨b, by simp, ?_⟩
        intro d hd
        rcases List.mem_cons.mp hd with rfl | hd
        · exact le_refl _
        · exact e.trans (hm d hd)
      · refine ⟨c, by simp [hc], ?_⟩
        intro d hd
        rcases List.mem_cons.mp hd with rfl | hd
        · omega
        · exact hm d hd

/-- The places of a full list suffice for an addition (R22). -/
theorem length_addBar (bars : List BarEntry) (serial : Serial) (hold : Nat) (h : bars.length ≤ 32) :
    (addBar bars serial hold).length ≤ 32 := by
  unfold addBar Config.barCapacity
  split
  · simpa using h
  · split
    · simp; omega
    · rename_i hn
      have hv : barVictim bars < bars.length := by
        unfold barVictim
        rw [List.findIdx_lt_length]
        exact exists_smallest bars (List.ne_nil_of_length_pos (by omega))
      rw [List.length_append, List.length_eraseIdx_of_lt hv]
      simp
      omega

/-- The Bar List takes the serial, and both lists of arrivals lose it; nothing else changes (R25). -/
theorem State.bar_eq (s : State) (serial : Serial) :
    s.bar serial = { s with
      bars := addBar s.bars serial s.barHold
      feederA := s.feederA.dropArrival serial
      feederB := s.feederB.dropArrival serial } := rfl

/-! ## The hunt's target, ejection and teardown -/

theorem State.within_chooseTarget (f : FeederId) (s : State) : s.Within f (s.chooseTarget f) := by
  unfold State.chooseTarget
  simp only
  split
  · exact State.within_setFd f s _
  · exact (State.within_setFd f s _).trans (State.within_raise f _ _ _)

/-- A new target is chosen when the record was the target, and nothing happens otherwise (R164). -/
theorem State.huntEjected_of_ne (s : State) (f : FeederId) (h : Nat) (e : (s.fd f).hunt.target ≠ some h) :
    s.huntEjected f h = s := by
  simp [State.huntEjected, e]

theorem State.within_huntEjected (f : FeederId) (s : State) (h : Nat) : s.Within f (s.huntEjected f h) := by
  unfold State.huntEjected
  split
  · exact (State.within_modFd f s _).trans (State.within_chooseTarget f _)
  · exact State.Within.refl f s

/-- An eject cause leaves a record that is not active as it is (R15). -/
theorem State.eject_of_inactive (s : State) (f : FeederId) (h : Nat) (reason : EjectReason)
    (e : (s.record f h).state.active = false) : s.eject f h reason = s := by
  simp [State.eject, e]

/-- An ejection stays within its feeder and the notices (R12, R13, R18). -/
theorem State.within_eject (f : FeederId) (s : State) (h : Nat) (reason : EjectReason) :
    s.Within f (s.eject f h reason) := by
  unfold State.eject
  simp only
  split
  · exact ((State.within_modFd f s _).trans (State.within_raise f _ _ _)).trans (State.within_huntEjected f _ h)
  · exact State.Within.refl f s

/-- A plan link released touches the entry it names (R20). -/
theorem State.planAt_releaseLink (s : State) (link : Option Nat) (i : Nat) :
    (s.releaseLink link).planAt i = if link = some i ∧ i < 512 then (s.planAt i).dropLink else s.planAt i := by
  unfold State.releaseLink
  cases link with
  | none => simp
  | some j =>
    rw [State.planAt_setPlan]
    by_cases e : j = i
    · subst e; simp
    · simp [e]

/-- A record torn down is FREE, and no other record of its feeder changes (R20). -/
theorem State.record_tearDown (s : State) (f : FeederId) (h k : Nat) :
    (s.tearDown f h).record f k = if h = k then freeRecord else s.record f k := by
  have hfd : ∀ link, (s.releaseLink link).fd f = s.fd f := by
    intro link
    unfold State.releaseLink
    split <;> simp
  unfold State.tearDown State.record
  rw [State.fd_modFd]
  simp only [hfd]
  change (((s.fd f).removeMessages h).setRecord h freeRecord).record k = _
  rw [Feeder.record_setRecord]
  by_cases e : h = k
  · subst e
    by_cases hb : 1 ≤ h ∧ h ≤ 255
    · simp [hb]
    · have : h = 0 ∨ 255 < h := by omega
      have hn : ¬ (h = h ∧ 1 ≤ h ∧ h ≤ 255) := by omega
      rw [if_neg hn, if_pos rfl]
      exact Feeder.record_of_out _ _ this
  · rw [if_neg (by tauto), if_neg e]
    rfl

end Sys2Proof.Machine
end

