-- ==== Sys2Proof/Laws/Blocks.lean ====
section
/-! SUPPORT. What the units of one feeder can reach: each shared operation stays within its feeder and the notices, or goes
on to an ejection that bars. -/
namespace Sys2Proof.Machine

open Sys2Proof

/-! ## Equalisation (chapter 5) -/

/-- An attempt counted ends in an ejection that bars, at the fourth, or goes on below it (R111, R113). -/
theorem State.countAttempt_cases (s : State) (f : FeederId) (h : Nat) (next : State → State) :
    let s1 := s.modRecord f h fun r => { r with eqAttempts := r.eqAttempts + 1 }
    (4 ≤ (s1.record f h).eqAttempts ∧ s.countAttempt f h next = s1.ejectAndBar f h .noConfirm) ∨
      ((s1.record f h).eqAttempts < 4 ∧ s.countAttempt f h next = next s1) := by
  intro s1
  unfold State.countAttempt
  by_cases e : 4 ≤ (s1.record f h).eqAttempts
  · exact .inl ⟨e, if_pos e⟩
  · exact .inr ⟨by omega, if_neg e⟩

theorem State.within_reachEdge (f : FeederId) (s : State) (h : Nat) : s.Within f (s.reachEdge f h) := by
  unfold State.reachEdge
  simp only
  split
  · exact State.within_modRecord f s h _
  · exact (State.within_modRecord f s h _).trans (State.within_raise f _ _ _)

/-- A drift correction stays within its feeder and the notices (R118, R119). -/
theorem State.within_correctDrift (f : FeederId) (s : State) (h : Nat) (d8 : Int) :
    s.Within f (s.correctDrift f h d8) := by
  unfold State.correctDrift
  simp only
  split <;> split
  · exact (State.within_reachEdge f s h).trans (State.within_modFd f _ _)
  · exact State.within_modFd f s _
  · exact (State.within_reachEdge f s h).trans (State.within_modRecord f _ h _)
  · exact State.within_modRecord f s h _

theorem State.within_watchDrift (f : FeederId) (s : State) (h : Nat) (d8 : Int) : s.Within f (s.watchDrift f h d8) := by
  unfold State.watchDrift
  simp only
  split
  · exact (State.within_modRecord f s h _).trans (State.within_correctDrift f _ h d8)
  · exact State.within_modRecord f s h _

/-! ## Levels (chapter 6) -/

theorem State.within_levelEdge (f : FeederId) (s : State) (h : Nat) : s.Within f (s.levelEdge f h) := by
  unfold State.levelEdge
  simp only
  split
  · exact State.within_modRecord f s h _
  · exact (State.within_modRecord f s h _).trans (State.within_raise f _ _ _)

/-- A walk step stays within its feeder and the notices (R124). -/
theorem State.within_walk (f : FeederId) (s : State) (h c : Nat) : s.Within f (s.walk f h c) := by
  unfold State.walk
  simp only
  split
  · exact State.within_modFd f s _
  · exact (State.within_levelEdge f s h).trans (State.within_modFd f _ _)
  · exact State.within_modFd f s _
  · exact State.within_modFd f s _
  · exact State.Within.refl f s

theorem State.within_watchLevel (f : FeederId) (s : State) (h c : Nat) : s.Within f (s.watchLevel f h c) := by
  unfold State.watchLevel
  simp only
  split
  · split
    · exact (State.within_modRecord f s h _).trans (State.within_walk f _ h c)
    · exact State.within_modRecord f s h _
  · exact State.within_modRecord f s h _

/-- A level code taken stays within its feeder and the notices (R122). -/
theorem State.within_takeLevel (f : FeederId) (s : State) (h : Nat) (before : RecState) (c : Nat) :
    s.Within f (s.takeLevel f h before c) := by
  have hm := State.within_modRecord f s h fun r => { r with lastLevel := some c }
  unfold State.takeLevel
  simp only
  split
  · split
    · exact hm
    · exact hm.trans (State.within_walk f _ h c)
  · split
    · exact hm
    · split
      · exact hm.trans (State.within_walk f _ h c)
      · exact hm.trans (State.within_watchLevel f _ h c)
  · exact hm
  · exact hm
  · exact State.Within.refl f s

/-! ## Conditions (chapter 8) -/

theorem State.within_takeMains (f : FeederId) (s : State) (h : Nat) (w : Byte) : s.Within f (s.takeMains f h w) := by
  unfold State.takeMains
  simp only
  split
  · exact (State.within_modRecord f s h _).trans (State.within_raise f _ _ _)
  · exact State.within_modRecord f s h _

theorem State.within_debounce (f : FeederId) (s : State) (h : Nat) (w : Byte) : s.Within f (s.debounce f h w) := by
  unfold State.debounce
  simp only
  split
  · exact State.within_modRecord f s h _
  · split
    · split
      · exact (State.within_modRecord f s h _).trans (State.within_raise f _ _ _)
      · exact State.within_modRecord f s h _
    · exact State.within_modRecord f s h _

/-- A condition word taken stays within its feeder and the notices (R171, R172, R174). -/
theorem State.within_takeCondition (f : FeederId) (s : State) (h : Nat) (w : Byte) :
    s.Within f (s.takeCondition f h w) :=
  (State.within_takeMains f s h w).trans (State.within_debounce f _ h w)

/-! ## Dispatch (chapter 7) -/

/-- A dispatch report stays within its feeder and the notices (R150). -/
theorem State.within_report (f : FeederId) (s : State) (n : CycleNumber) (q : QMsg) : s.Within f (s.report f n q) := by
  unfold State.report
  split
  · exact State.within_modRecord f s _ _
  · exact State.within_modRecord f s _ _
  · exact State.within_modRecord f s _ _
  · unfold State.admitSent
    simp only
    split
    · exact (State.within_modRecord f s _ _).trans (State.within_raise f _ _ _)
    · exact State.Within.refl f s
  · exact State.within_modFd f s _
  · unfold State.resumeSent
    split
    · simp only
      split
      · exact (State.within_modRecord f s _ _).trans (State.within_chooseTarget f _)
      · exact State.within_modRecord f s _ _
    · exact State.within_modRecord f s _ _
    · exact State.Within.refl f s
  · exact State.within_modRecord f s _ _

/-! ## Grants (chapter 7) -/

/-- The CHECK stage stays within its feeder (R136). -/
theorem State.within_placeChecks (f : FeederId) (guard : Nat) (hs : List Nat) :
    ∀ (s : State) (m : GrantMap), s.Within f (s.placeChecks f guard hs m).1 := by
  induction hs with
  | nil => exact fun s m => State.Within.refl f s
  | cons h rest ih =>
    intro s m
    unfold State.placeChecks
    split
    · simp only
      split
      · exact (State.within_modRecord f s h _).trans (ih _ _)
      · exact ih _ _
    · exact State.Within.refl f s

/-- The DATA stage's placing stays within its feeder (R137). -/
theorem State.within_placeData (f : FeederId) (guard : Nat) (hs : List Nat) :
    ∀ (s : State) (m : GrantMap), s.Within f (s.placeData f guard hs m).1 := by
  induction hs with
  | nil => exact fun s m => State.Within.refl f s
  | cons h rest ih =>
    intro s m
    unfold State.placeData
    simp only
    split
    · exact (State.within_modRecord f s h _).trans (ih _ _)
    · exact State.Within.refl f s

/-- A grant that fits ends, its guard included, by offset 16,000 and leaves at most 64 grants (R134). -/
theorem GrantMap.fits_iff (m : GrantMap) (guard len : Nat) :
    m.fits guard len = true ↔ m.next + len + guard ≤ 16000 ∧ m.grants.length < 64 := by
  unfold GrantMap.fits
  rw [Bool.and_eq_true, decide_eq_true_eq, decide_eq_true_eq]
  rfl

end Sys2Proof.Machine
end

