-- ==== Sys2Proof/Laws/Choices.lean ====
section
/-! SUPPORT. What a choice of the hunt's target, an ejection, an entry into HUSHED and an entry into PROBING can do, in the
words of Safety.lean. -/
namespace Sys2Proof.Machine

open Sys2Proof

/-- A HUSH offered for a record just written: its owed RESUME is cleared first (R165). -/
theorem Feeder.offerHush_setRecord (fd : Feeder) (k : Nat) (r : Record) (hh : Hunt) (h1 : 1 ≤ k) (h2 : k ≤ 255) :
    Feeder.offerHush { (fd.setRecord k r) with hunt := hh } k =
      Feeder.offerUrgent { (fd.setRecord k (r.clearOwed .resume)) with hunt := hh } k .hush := by
  unfold Feeder.offerHush
  congr 1
  have hr : Feeder.record { (fd.setRecord k r) with hunt := hh } k = r := Feeder.record_setRecord_self fd k r h1 h2
  rw [Feeder.modRecord_eq, hr]
  have hx : ∀ (x : Feeder) (hh : Hunt) (q : Record),
      Feeder.setRecord { x with hunt := hh } k q = { (x.setRecord k q) with hunt := hh } := by
    intro x hh q; unfold Feeder.setRecord; split <;> rfl
  rw [hx, Feeder.setRecord_setRecord]

/-- What a choice of the hunt's target can do (R158, R163). -/
theorem State.chooseTarget_spec (s : State) (f : FeederId) : HuntChooses s f (s.chooseTarget f) := by
  unfold HuntChooses
  intro fd candidate
  have hn : ∀ k, candidate k → 1 ≤ k ∧ k ≤ 255 := by
    intro k hk
    by_contra hc
    have := Feeder.record_of_out (s.fd f) k (by omega)
    rcases hk.2 with h | h <;> rw [this] at h <;> cases h
  have hc : ∀ k, (fd.record k).state.carriesTraffic = true ↔
      ((fd.record k).state = .inService ∨ (fd.record k).state = .suspect) := by
    intro k; cases (fd.record k).state <;> simp [RecState.carriesTraffic]
  have hst : ∀ p, fd.firstFrom fd.hunt.nextHandle p = fd.firstFrom (max 1 fd.hunt.nextHandle) p := by
    intro p; unfold Feeder.firstFrom
    rcases Nat.eq_zero_or_pos fd.hunt.nextHandle with h | h
    · rw [h]; simp
    · rw [Nat.max_eq_right h]
  constructor
  · intro k hk hlow r held
    have h1 : fd.firstFrom fd.hunt.nextHandle (·.state.carriesTraffic) = some k := by
      rw [hst]
      obtain ⟨a, b⟩ := hn k hk
      have hk1 := hk.1
      cases e : fd.firstFrom (max 1 fd.hunt.nextHandle) (·.state.carriesTraffic) with
      | none =>
        have := (Feeder.firstFrom_eq_none _ _ _ (by omega)).1 e k (by omega) b
        rw [(hc k).2 hk.2] at this; cases this
      | some j =>
        obtain ⟨j1, j2, j3, j4⟩ := Feeder.firstFrom_eq_some _ _ _ _ (by omega) e
        rcases Nat.lt_trichotomy j k with h | h | h
        · exact absurd ⟨by omega, (hc j).1 j3⟩ (hlow j h)
        · rw [h]
        · have := j4 k (by omega) h
          rw [(hc k).2 hk.2] at this; cases this
    unfold State.chooseTarget
    simp only [show s.fd f = fd from rfl] at *
    rw [h1]
    simp only
    obtain ⟨a, b⟩ := hn k hk
    rw [Feeder.modRecord_eq, Feeder.offerHush_setRecord _ _ _ _ a b]
    have hh : Record.clearOwed { (fd.record k).endWatch with
        state := .huntHeld, heldFrom := (fd.record k).state.heldFrom } .resume = held := by
      rcases hk.2 with h | h <;>
      · have h' : r.state = _ := h
        simp only [held, Record.endWatch, h', RecState.heldFrom, Record.clearOwed, show (fd.record k) = r from rfl]
        cases ho : r.owed with
        | none => simp [ho]
        | some m => cases m <;> simp [Msg.kind, ho]
    rw [hh]
  · intro hno
    have h1 : fd.firstFrom fd.hunt.nextHandle (·.state.carriesTraffic) = none := by
      rw [hst, Feeder.firstFrom_eq_none _ _ _ (by omega)]
      intro j hj1 hj2
      by_contra hcon
      refine hno j ⟨by omega, (hc j).1 ?_⟩
      simpa using hcon
    unfold State.chooseTarget
    simp only [show s.fd f = fd from rfl] at *
    rw [h1]

/-- An ejection past NAMED of a record that is not the hunt's target (R12, R13). -/
theorem State.eject_eq_ejection (s : State) (f : FeederId) (h : Nat) (reason : EjectReason) (h1 : 1 ≤ h) (h2 : h ≤ 255)
    (ha : (s.record f h).state.active = true) (hn : (s.record f h).state ≠ .named) (ht : (s.fd f).hunt.target ≠ some h) :
    s.eject f h reason = s.ejection f h reason := by
  unfold State.eject State.ejection
  simp only [ha, if_true]
  have hn' : ((s.fd f).record h).state ≠ .named := hn
  rw [State.huntEjected_of_ne]
  · simp only [Feeder.ejectRecord, Record.ejectFor, State.modFd]
    rw [if_neg hn']
    simp only [hn', if_false, Feeder.modRecord, Feeder.removeOrdinary]
    unfold Feeder.setRecord
    rw [if_neg (by omega)]
    rfl
  · rw [State.fd_raise, State.fd_modFd]
    have : ∀ fd : Feeder, (fd.ejectRecord h reason).hunt = fd.hunt := by
      intro fd; unfold Feeder.ejectRecord
      simp only
      split
      · unfold Feeder.removeOrdinary Feeder.modRecord Feeder.setRecord; split <;> rfl
      · rw [(Feeder.talked_offerUrgent _ h _).rest]
        unfold Feeder.removeOrdinary Feeder.modRecord Feeder.setRecord; split <;> rfl
    rw [this]; exact ht

/-- The same with the bar (R19). -/
theorem State.ejectAndBar_eq_barringEjection (s : State) (f : FeederId) (h : Nat) (reason : EjectReason)
    (h1 : 1 ≤ h) (h2 : h ≤ 255) (ha : (s.record f h).state.active = true) (hn : (s.record f h).state ≠ .named)
    (ht : (s.fd f).hunt.target ≠ some h) :
    s.ejectAndBar f h reason = s.barringEjection f h reason := by
  unfold State.ejectAndBar State.barringEjection State.barHeld
  rw [State.eject_eq_ejection s f h _ h1 h2 ha hn ht]
  cases (s.record f h).serial <;> rfl

/-- What the decision at the entry into HUSHED can do (R166). -/
theorem State.entryDecision_spec (s : State) (f : FeederId) (h : Nat) (h1 : 1 ≤ h) (h2 : h ≤ 255)
    (hs : (s.record f h).state = .hushed) (ht : (s.fd f).hunt.target ≠ some h) :
    HushDecides s f h (s.entryDecision f h) := by
  unfold HushDecides
  intro r policy gives
  have hg : (s.policyOf f h).givesUp (s.record f h).recAttempts = true ↔ gives := by
    show policy.givesUp r.recAttempts = true ↔ gives
    simp only [gives]
    cases policy <;> simp [Policy.givesUp]
  constructor
  · intro g
    unfold State.entryDecision
    rw [if_pos (hg.2 g)]
    exact State.ejectAndBar_eq_barringEjection s f h _ h1 h2 (by rw [hs]; rfl) (by rw [hs]; decide) ht
  · intro g
    unfold State.entryDecision
    rw [if_neg (fun x => g (hg.1 x))]
    have : (s.policyOf f h).wait = if policy = .try3x64 then 64 else 512 := by
      show policy.wait = _
      have : policy ≠ .off := fun e => g (.inl e)
      cases hp : policy <;> simp_all [Policy.wait]
    rw [this]; rfl

/-- What an entry into PROBING can do (R111). -/
theorem State.enterProbing_spec (s : State) (f : FeederId) (h : Nat) (h1 : 1 ≤ h) (h2 : h ≤ 255)
    (ha : (s.record f h).state.active = true) (hn : (s.record f h).state ≠ .named)
    (ht : (s.record f h).eqAttempts < 3 ∨ (s.fd f).hunt.target ≠ some h) :
    ProbingEntry s f h (s.enterProbing f h) := by
  unfold ProbingEntry
  intro fd r
  have hr : (s.modRecord f h fun r => { r with eqAttempts := r.eqAttempts + 1 }).record f h =
      { r with eqAttempts := r.eqAttempts + 1 } := State.record_modRecord_self s f h _ h1 h2
  constructor
  · intro hlt
    unfold State.enterProbing State.countAttempt
    simp only [hr]
    rw [if_neg (by omega)]
    rw [State.modRecord_eq]
    simp only [State.modFd, State.fd_setFd, State.setFd_setFd, Feeder.modRecord_eq,
      Feeder.record_setRecord_self _ _ _ h1 h2, Feeder.setRecord_setRecord, Feeder.removeOrdinary]
    have hx : Record.toProbing { r with eqAttempts := r.eqAttempts + 1 } = { r with
        state := .probing
        eqAttempts := r.eqAttempts + 1
        driftRun := 0
        misplacedRun := 0
        levelRun := 0
        walking := false
        recCd := if r.state = .inService then 0 else r.recCd
        owed := r.owed.filter fun msg => msg.kind.urgent } := by
      unfold Record.toProbing Record.endWatch
      by_cases e : r.state = .inService <;> simp [e]
    simp only [show s.record f h = r from rfl, hx, show s.fd f = fd from rfl]
    congr 1
    have : (fd.setRecord h { r with
        state := .probing
        eqAttempts := r.eqAttempts + 1
        driftRun := 0
        misplacedRun := 0
        levelRun := 0
        walking := false
        recCd := if r.state = .inService then 0 else r.recCd
        owed := r.owed.filter fun msg => msg.kind.urgent }).ordinary = fd.ordinary := by
      unfold Feeder.setRecord; split <;> rfl
    rw [this]
  · intro hge
    unfold State.enterProbing State.countAttempt
    simp only [hr]
    rw [if_pos (by omega), State.modRecord_eq]
    refine State.ejectAndBar_eq_barringEjection _ f h _ h1 h2 ?_ ?_ ?_
    · simp [State.record, h1, h2]; exact ha
    · simp [State.record, h1, h2]; exact hn
    · rw [State.fd_setFd]
      have : ∀ q, (Feeder.setRecord (s.fd f) h q).hunt = (s.fd f).hunt := by
        intro q; unfold Feeder.setRecord; split <;> rfl
      rw [this]
      exact ht.resolve_left (Nat.not_lt.2 hge)

/-- What a failed probe of a PROBING record can do (R113). -/
theorem State.failProbe_spec (s : State) (f : FeederId) (h : Nat) (h1 : 1 ≤ h) (h2 : h ≤ 255)
    (hs : (s.record f h).state = .probing) :
    let r := s.record f h
    let counted := s.setFd f ((s.fd f).setRecord h { r with eqAttempts := r.eqAttempts + 1 })
    (r.eqAttempts < 3 → s.failProbe f h = counted) ∧
      (3 ≤ r.eqAttempts → (s.fd f).hunt.target ≠ some h →
        s.failProbe f h = counted.barringEjection f h .noConfirm) := by
  have hr := State.record_modRecord_self s f h (fun r => { r with eqAttempts := r.eqAttempts + 1 }) h1 h2
  have hd : (s.modRecord f h fun r => { r with eqAttempts := r.eqAttempts + 1 }).fd f =
      (s.fd f).modRecord h fun r => { r with eqAttempts := r.eqAttempts + 1 } := State.fd_modRecord s f h _
  unfold State.failProbe State.countAttempt
  rw [if_pos hs]
  simp only [hr, ← State.modRecord_eq s f h fun r => { r with eqAttempts := r.eqAttempts + 1 }]
  constructor
  · intro hlt
    rw [if_neg (by omega)]
    rfl
  · intro hge ht
    rw [if_pos (by omega)]
    refine State.ejectAndBar_eq_barringEjection _ f h _ h1 h2 ?_ ?_ ?_
    · rw [hr]; simp only [hs]; rfl
    · rw [hr]; simp only [hs]; decide
    · rw [hd, Feeder.modRecord_eq]
      have : ∀ q, (Feeder.setRecord (s.fd f) h q).hunt = (s.fd f).hunt := by
        intro q; unfold Feeder.setRecord; split <;> rfl
      rw [this]; exact ht

end Sys2Proof.Machine
end

