-- ==== Sys2Proof/Laws/Flows.lean ====
section
/-! SUPPORT. What the flows of messages and frames do as a whole: the messages a build takes, the frames a burst forwards
and a header's cycle sends; and the states that judgements of timing leave a record in. -/
namespace Sys2Proof.Machine

open Sys2Proof

/-! ## Owed messages cleared -/

/-- An owed RESUME cleared (R165). -/
theorem Record.clearOwed_resume (r : Record) :
    r.clearOwed .resume = { r with owed := if r.owed = some .resume then none else r.owed } := by
  unfold Record.clearOwed
  cases ho : r.owed with
  | none => simp; rw [← ho]
  | some m => cases m <;> simp [Msg.kind] <;> rw [← ho]

/-- An owed HUSH cleared (R165). -/
theorem Record.clearOwed_hush (r : Record) :
    r.clearOwed .hush = { r with owed := if r.owed = some .hush then none else r.owed } := by
  unfold Record.clearOwed
  cases ho : r.owed with
  | none => simp; rw [← ho]
  | some m => cases m <;> simp [Msg.kind] <;> rw [← ho]

/-- An owed STEP cleared (R124, R143). -/
theorem Record.clearOwed_step (r : Record) :
    r.clearOwed .step = { r with owed := r.owed.filter fun msg => decide (msg.kind ≠ MsgKind.step) } := by
  unfold Record.clearOwed
  cases ho : r.owed with
  | none => simp; rw [← ho]
  | some m => cases m <;> simp [Msg.kind, Option.filter] <;> rw [← ho]

/-! ## Urgent offers and the hunt record -/

/-- An urgent offer leaves the hunt record alone. -/
theorem Feeder.offerUrgent_withHunt (fd : Feeder) (hh : Hunt) (k : Nat) (m : Msg) :
    Feeder.offerUrgent { fd with hunt := hh } k m = { (fd.offerUrgent k m) with hunt := hh } := by
  have hx : ∀ (x : Feeder) (hh : Hunt) (k : Nat) (g : Record → Record),
      Feeder.modRecord { x with hunt := hh } k g = { (x.modRecord k g) with hunt := hh } := by
    intro x hh k g; unfold Feeder.modRecord Feeder.setRecord; split <;> rfl
  unfold Feeder.offerUrgent
  have hq : Feeder.queued { fd with hunt := hh } = fd.queued := rfl
  simp only [hq]
  by_cases e1 : holdsMsg fd.urgent k m.kind = true
  · simp only [e1, if_true]
  · by_cases e2 : fd.queued < Config.queueCapacity
    · simp only [e1, e2, if_true]; rfl
    · simp only [e1, e2, if_false]
      cases e : fd.ordinary.getLast? with
      | none => simp only; rw [hx]; rfl
      | some q =>
        simp only
        have := hx { fd with ordinary := fd.ordinary.dropLast, urgent := fd.urgent ++ [{ handle := k, msg := m }] } hh
          q.handle (·.owe q.msg)
        simp only at this
        rw [this]; rfl

/-- A RESUME offered leaves the hunt record alone. -/
theorem Feeder.offerResume_withHunt (fd : Feeder) (hh : Hunt) (k : Nat) :
    Feeder.offerResume { fd with hunt := hh } k = { (fd.offerResume k) with hunt := hh } := by
  unfold Feeder.offerResume
  have hx : ∀ (x : Feeder) (hh : Hunt) (k : Nat) (g : Record → Record),
      Feeder.modRecord { x with hunt := hh } k g = { (x.modRecord k g) with hunt := hh } := by
    intro x hh k g; unfold Feeder.modRecord Feeder.setRecord; split <;> rfl
  rw [hx, Feeder.offerUrgent_withHunt]

/-! ## The re-hush watch (R169) -/

/-- The record within its watch with the largest recovery countdown, the lowest handle among equals. -/
theorem Feeder.watched_eq_some (fd : Feeder) (h : Nat) (hh : (fd.record h).withinWatch = true)
   (hmax : ∀ k, (fd.record k).withinWatch = true → (fd.record k).recCd ≤ (fd.record h).recCd)
   (hlow : ∀ k, k < h → (fd.record k).withinWatch = true → (fd.record k).recCd < (fd.record h).recCd) :
    fd.watched = some h := by
  have hb1 : 1 ≤ h ∧ h ≤ 255 := by
    by_contra hcc
    have := Feeder.record_of_out fd h (by omega)
    rw [this] at hh; cases hh
  unfold Feeder.watched
  simp only
  have hmem : ∀ k, k ∈ (fd.handlesWhere fun _ r => r.withinWatch) ↔
      1 ≤ k ∧ k ≤ 255 ∧ (fd.record k).withinWatch = true :=
    fun k => Feeder.mem_handlesWhere fd _ k
  have hsort : (fd.handlesWhere fun _ r => r.withinWatch).Pairwise (· < ·) := by
    unfold Feeder.handlesWhere
    have : ((fd.table.toList.zipIdx 1).map (·.2)).Pairwise (· < ·) := by
      rw [List.zipIdx_map_snd]; exact List.pairwise_lt_range'
    exact List.Pairwise.sublist (List.Sublist.map _ List.filter_sublist) this
  generalize (fd.handlesWhere fun _ r => r.withinWatch) = hs at hmem hsort
  have hin : h ∈ hs := (hmem h).2 ⟨hb1.1, hb1.2, hh⟩
  obtain ⟨l1, l2, rfl⟩ := List.append_of_mem hin
  rw [List.find?_eq_some_iff_append]
  refine ⟨?_, l1, l2, rfl, ?_⟩
  · simp only [List.all_eq_true, decide_eq_true_eq]
    intro k hk
    exact hmax k ((hmem k).1 hk).2.2
  · intro k hk
    have hkh : k < h := by
      rw [List.pairwise_append] at hsort
      exact hsort.2.2 k hk h (by simp)
    have := hlow k hkh ((hmem k).1 (by simp [hk])).2.2
    simp only [Bool.not_eq_true', List.all_eq_false]
    exact ⟨h, by simp, by simp; omega⟩

/-- No record within its watch. -/
theorem Feeder.watched_eq_none (fd : Feeder) (hh : ∀ h, (fd.record h).withinWatch = false) : fd.watched = none := by
  unfold Feeder.watched
  simp only
  have : fd.handlesWhere (fun _ r => r.withinWatch) = [] := by
    apply List.eq_nil_iff_forall_not_mem.2
    intro k hk
    have := (Feeder.mem_handlesWhere fd _ k).1 hk
    rw [hh k] at this; cases this.2.2
  rw [this]; rfl

/-! ## The messages of a build (R150) -/

/-- Up to `k` messages are taken, those of the urgent band first. -/
theorem Feeder.takeMessages_eq (fd : Feeder) (k : Nat) :
    fd.takeMessages k =
      ({ fd with urgent := fd.urgent.drop k, ordinary := fd.ordinary.drop (k - fd.urgent.length) },
        (fd.urgent ++ fd.ordinary).take k) := by
  induction k generalizing fd with
  | zero => simp [Feeder.takeMessages]
  | succ k ih =>
    unfold Feeder.takeMessages Feeder.takeMessage
    cases hu : fd.urgent with
    | cons q rest =>
      simp only [ih]
      simp
    | nil =>
      cases ho : fd.ordinary with
      | cons q rest =>
        simp only [ih]; simp
      | nil => simp only [List.drop_nil, List.append_nil, List.take_nil, Prod.mk.injEq, and_true]; cases fd; simp_all

/-- Reports of messages already taken run in their order. -/
theorem State.reportAll_fst (s : State) (f : FeederId) (n : CycleNumber) (l : List QMsg) :
    (s.reportAll f n l).1 = l.foldl (fun u q => u.report f n q) s := by
  induction l generalizing s with
  | nil => rfl
  | cons q l ih => simp only [State.reportAll, State.reportMoved, ih, List.foldl_cons]

/-! ## The frames of a DATA burst (R180, R181) -/

/-- A counter raised twice. -/
theorem satAdd16_satAdd16 (c a b : Nat) : satAdd16 (satAdd16 c a) b = satAdd16 c (a + b) := by
  unfold satAdd16; split <;> split <;> (try split) <;> omega

/-- A counter raised by nothing. -/
theorem satAdd16_zero (c : Nat) : satAdd16 c 0 = c := by unfold satAdd16; split <;> omega

/-- Frames counted as upstream dropped. -/
def State.dropCount (s : State) (f : FeederId) (k : Nat) : State := s.modFd f (·.count .upstreamDropped k)

theorem State.dropCount_dropCount (f : FeederId) (a b : Nat) (u : State) :
    (u.dropCount f a).dropCount f b = u.dropCount f (a + b) := by
  cases f <;> simp [State.dropCount, State.modFd, Feeder.count, Counters.add, satAdd16_satAdd16]

theorem State.dropCount_zero (f : FeederId) (u : State) : u.dropCount f 0 = u := by
  cases f <;> simp [State.dropCount, State.modFd, Feeder.count, Counters.add, satAdd16_zero, State.setFd, State.fd]

theorem State.dropCount_withUpBuffer (f : FeederId) (a : Nat) (u : State) (b : List UpFrame) :
    State.dropCount { u with upBuffer := b } f a = { u.dropCount f a with upBuffer := b } := by
  cases f <;> rfl

/-- The frames of a burst: those with a good check join the buffer while it has room, and the rest are counted. -/
theorem State.foldl_forwardFrame (f : FeederId) (h : Nat) (frames : List Bytes) (u : State) :
    frames.foldl (fun t frame => t.forwardFrame f h frame) u =
      (let forwarded := (frames.filter fun frame => checkGood 12 frame).take (128 - u.upBuffer.length)
       { u.dropCount f (frames.length - forwarded.length) with
        upBuffer := u.upBuffer ++ forwarded.map fun frame =>
          { tagType := u.tagType, feeder := f, handle := h, frame := frame } }) := by
  induction frames generalizing u with
  | nil => simp [State.dropCount_zero]
  | cons x l ih =>
    rw [List.foldl_cons, ih]
    have hlen : ∀ k, ((l.filter fun frame => checkGood 12 frame).take k).length ≤ l.length := by
      intro k; exact (List.length_take_le' _ _).trans (List.length_filter_le _ _)
    have hdrop : ∀ a, (a + 1 : Nat) = 1 + a := fun a => Nat.add_comm a 1
    by_cases hc : checkGood 12 x = true
    · by_cases hr : u.upBuffer.length < 128
      · have : u.forwardFrame f h x = { u with
            upBuffer := u.upBuffer ++ [{ tagType := u.tagType, feeder := f, handle := h, frame := x }] } := by
          unfold State.forwardFrame; rw [if_pos]; rw [Bool.and_eq_true]; exact ⟨hc, decide_eq_true hr⟩
        rw [this]
        simp only [List.filter_cons, hc, if_true, List.length_append, List.length_singleton]
        obtain ⟨k, hk⟩ : ∃ k, 128 - u.upBuffer.length = k + 1 := ⟨127 - u.upBuffer.length, by omega⟩
        rw [hk, show 128 - (u.upBuffer.length + 1) = k by omega]
        simp only [List.take_succ_cons, List.length_cons, Nat.add_sub_add_right, List.map_cons,
          List.append_assoc, List.singleton_append, State.dropCount_withUpBuffer]
      · have : u.forwardFrame f h x = u.dropCount f 1 := by
          unfold State.forwardFrame; rw [if_neg]; · rfl
          rw [Bool.and_eq_true]; rintro ⟨-, y⟩; exact hr (of_decide_eq_true y)
        rw [this]
        have e : 128 - u.upBuffer.length = 0 := by omega
        have e2 : (u.dropCount f 1).upBuffer = u.upBuffer := by cases f <;> rfl
        simp only [e2, e, List.take_zero, List.length_nil, Nat.sub_zero, List.length_cons,
          State.dropCount_dropCount, hdrop, List.map_nil]
    · have : u.forwardFrame f h x = u.dropCount f 1 := by
        unfold State.forwardFrame; rw [if_neg]; · rfl
        rw [Bool.and_eq_true]; rintro ⟨y, -⟩; exact hc y
      rw [this]
      have e2 : (u.dropCount f 1).upBuffer = u.upBuffer := by cases f <;> rfl
      have e3 : (u.dropCount f 1).tagType = u.tagType := by cases f <;> rfl
      simp only [e2, e3, List.filter_cons, hc, List.length_cons, State.dropCount_dropCount]
      have := hlen (128 - u.upBuffer.length)
      rw [show 1 + (l.length - ((l.filter fun frame => checkGood 12 frame).take (128 - u.upBuffer.length)).length) =
        l.length + 1 - ((l.filter fun frame => checkGood 12 frame).take (128 - u.upBuffer.length)).length by omega]
      rfl

/-! ## The states that judgements leave -/

/-- An offer leaves the states of records alone. -/
theorem Feeder.Talked.state {a b : Feeder} (h : a.Talked b) (k : Nat) : (b.record k).state = (a.record k).state := by
  obtain ⟨o, e⟩ := h.owed k; rw [e]

/-- An ejection leaves an active record EJECTED (R12). -/
theorem State.eject_state (s : State) (f : FeederId) (h : Nat) (h1 : 1 ≤ h) (h2 : h ≤ 255) (reason : EjectReason)
    (ha : (s.record f h).state.active = true) : ((s.eject f h reason).record f h).state = .ejected := by
  unfold State.eject
  simp only [ha, if_true]
  have hb : ((((s.modFd f (·.ejectRecord h reason)).raise .ejected
      { feeder := some f, handle := some h, serial := (s.record f h).serial
        dwelling := s.dwellingOf (s.record f h).planLink, reason := some (.eject reason) })).record f h).state = .ejected := by
    rw [State.record_raise]; unfold State.record; rw [State.fd_modFd]
    have he : (((((s.fd f).modRecord h (·.ejectFor reason)).removeOrdinary h)).record h).state = .ejected := by
      show (((s.fd f).modRecord h (·.ejectFor reason)).record h).state = _
      rw [Feeder.modRecord_eq, Feeder.record_setRecord_self _ _ _ h1 h2]; rfl
    unfold Feeder.ejectRecord
    simp only
    split
    · exact he
    · rw [Feeder.Talked.state (Feeder.talked_offerUrgent _ h _)]; exact he
  generalize ((s.modFd f (·.ejectRecord h reason)).raise .ejected
      { feeder := some f, handle := some h, serial := (s.record f h).serial
        dwelling := s.dwellingOf (s.record f h).planLink, reason := some (.eject reason) }) = t at hb
  unfold State.huntEjected
  split
  · generalize hu : (t.modFd f fun fd => { fd with
      hunt := { fd.hunt with target := none, phase := none, hushCycle := none, watchCd := 0 } }) = u
    have hb : ((u.fd f).record h).state = .ejected := by rw [← hu, State.fd_modFd]; exact hb
    unfold State.record
    unfold State.chooseTarget
    simp only
    split
    · rename_i k hk
      have hkne : k ≠ h := by
        intro e; subst e
        have : (u.fd f).firstFrom (max 1 (u.fd f).hunt.nextHandle) (·.state.carriesTraffic) = some k := by
          rw [← hk]; unfold Feeder.firstFrom
          rcases Nat.eq_zero_or_pos (u.fd f).hunt.nextHandle with h | h
          · rw [h]; simp
          · rw [Nat.max_eq_right h]
        have := (Feeder.firstFrom_eq_some _ _ _ _ (by omega) this).2.2.1
        rw [hb] at this; cases this
      rw [State.fd_setFd]
      unfold Feeder.offerHush
      rw [Feeder.Talked.state (Feeder.talked_offerUrgent _ k _)]
      rw [Feeder.record_modRecord_of_ne _ _ _ _ (fun e => hkne e.symm)]
      show ((Feeder.modRecord (u.fd f) k _).record h).state = _
      rw [Feeder.record_modRecord_of_ne _ _ _ _ (fun e => hkne e.symm)]
      exact hb
    · show ((State.fd (State.raise _ _ _) f).record h).state = _
      rw [State.fd_raise, State.fd_setFd]; exact hb
  · exact hb

/-- A bar leaves the records alone. -/
theorem State.record_barHeld (s : State) (n : Option Serial) (f : FeederId) (h : Nat) :
    (s.barHeld n).record f h = s.record f h := by
  unfold State.barHeld; cases n with
  | none => rfl
  | some n => cases f <;> rfl

/-- The same for an ejection that bars. -/
theorem State.ejectAndBar_state (s : State) (f : FeederId) (h : Nat) (h1 : 1 ≤ h) (h2 : h ≤ 255) (reason : EjectReason)
    (ha : (s.record f h).state.active = true) : ((s.ejectAndBar f h reason).record f h).state = .ejected := by
  unfold State.ejectAndBar; rw [State.record_barHeld]; exact State.eject_state s f h h1 h2 reason ha

/-- An entry into PROBING leaves the record PROBING or EJECTED (R111). -/
theorem State.enterProbing_state (s : State) (f : FeederId) (h : Nat) (h1 : 1 ≤ h) (h2 : h ≤ 255)
    (ha : (s.record f h).state.active = true) :
    ((s.enterProbing f h).record f h).state = .ejected ∨ ((s.enterProbing f h).record f h).state = .probing := by
  unfold State.enterProbing
  rcases State.countAttempt_cases s f h
    (fun s1 => s1.modFd f fun fd => (fd.modRecord h (·.toProbing)).removeOrdinary h) with ⟨_, e⟩ | ⟨_, e⟩
  · rw [e]; left; apply State.ejectAndBar_state _ _ _ h1 h2
    rw [State.record_modRecord_self _ _ _ _ h1 h2]; exact ha
  · rw [e]; right
    unfold State.record
    simp only [State.fd_modFd]
    show (Feeder.record (Feeder.modRecord _ h _) h).state = _
    rw [Feeder.modRecord_eq, Feeder.record_setRecord_self _ _ _ h1 h2]; rfl

/-- A misplaced burst leaves the record in its state, PROBING or EJECTED (R116). -/
theorem State.misplace_state (s : State) (f : FeederId) (h : Nat) (h1 : 1 ≤ h) (h2 : h ≤ 255) (b : RecState)
    (hb : (s.record f h).state = b) (hj : b.judged = true) :
    ((s.misplace f h).record f h).state = b ∨ ((s.misplace f h).record f h).state = .probing ∨
      ((s.misplace f h).record f h).state = .ejected := by
  unfold State.misplace
  simp only
  have hs : ((s.modFd f fun fd => (fd.count .misplaced 1).modRecord h fun r =>
      { r with misplacedRun := incUpTo 3 r.misplacedRun }).record f h).state = b := by
    unfold State.record; rw [State.fd_modFd, Feeder.modRecord_eq, Feeder.record_setRecord_self _ _ _ h1 h2]; exact hb
  split
  · rcases State.enterProbing_state _ f h h1 h2
      (by rw [hs]; cases b <;> simp_all [RecState.judged, RecState.active]) with e | e
    · exact .inr (.inr e)
    · exact .inr (.inl e)
  · exact .inl hs

/-- The drift watch leaves the record in its state (R117). -/
theorem State.watchDrift_state (s : State) (f : FeederId) (h : Nat) (h1 : 1 ≤ h) (h2 : h ≤ 255) (d8 : Int) :
    ((s.watchDrift f h d8).record f h).state = (s.record f h).state := by
  have hmod : ∀ (t : State) g, (∀ r : Record, (g r).state = r.state) →
      ((t.modRecord f h g).record f h).state = (t.record f h).state := by
    intro t g hg; rw [State.record_modRecord_self _ _ _ _ h1 h2, hg]
  have hre : ∀ t : State, ((t.reachEdge f h).record f h).state = (t.record f h).state := by
    intro t; unfold State.reachEdge; simp only; split
    · exact hmod _ _ (fun _ => rfl)
    · rw [State.record_raise]; exact hmod _ _ (fun _ => rfl)
  have hof : ∀ (t : State) m, ((t.modFd f fun fd => fd.offerOrdinary h m).record f h).state = (t.record f h).state := by
    intro t m; unfold State.record; rw [State.fd_modFd]; exact Feeder.Talked.state (Feeder.talked_offerOrdinary _ h m) h
  have hc : ∀ t : State, ((t.correctDrift f h d8).record f h).state = (t.record f h).state := by
    intro t; unfold State.correctDrift; simp only
    split <;> split
    · rw [hof, hre]
    · rw [hof]
    · rw [hmod, hre]; intro _; rfl
    · rw [hmod]; intro _; rfl
  unfold State.watchDrift; simp only; split
  · rw [hc, hmod]; intro _; rfl
  · rw [hmod]; intro _; rfl

/-! ## The frames of a downstream cycle (R179) -/

/-- What leaves a downstream buffer: the frames taken are its head; those that serve are sent and fit, the rest are
counted; and the frame at the head of what stays serves but does not fit. -/
theorem Feeder.drainDown_spec (fd : Feeder) (l : List DownFrame) (budget : Nat) :
    let goes := fun d : DownFrame => decide (d.handle = 0) || (fd.record d.handle).state.carriesTraffic
    let out := fd.drainDown l budget
    ∃ taken, l = taken ++ out.2.1 ∧ out.1 = taken.filter goes ∧ out.2.2 = taken.length - (taken.filter goes).length ∧
      ((taken.filter goes).map fun d => d.frame.length + 4).sum ≤ budget ∧
      ∀ d rest, out.2.1 = d :: rest →
        goes d = true ∧ budget < ((taken.filter goes).map fun d => d.frame.length + 4).sum + (d.frame.length + 4) := by
  intro goes
  induction l generalizing budget with
  | nil => exact ⟨[], rfl, rfl, rfl, Nat.zero_le _, fun d rest h => by cases h⟩
  | cons x l ih =>
    have hg : goes x = true ↔ ¬ (x.handle ≠ 0 ∧ (fd.record x.handle).state.carriesTraffic = false) := by
      simp only [goes, Bool.or_eq_true, decide_eq_true_eq, not_and, Bool.not_eq_false]
      constructor
      · rintro (h | h) h0
        · exact absurd h h0
        · exact h
      · intro h
        by_cases h0 : x.handle = 0
        · exact .inl h0
        · exact .inr (h h0)
    simp only [Feeder.drainDown]
    split
    · rename_i hx
      have hgx : ¬ goes x = true := fun h => hg.1 h hx
      obtain ⟨taken, h1, h2, h3, h4, h5⟩ := ih budget
      refine ⟨x :: taken, ?_, ?_, ?_, ?_, ?_⟩
      · exact congrArg (x :: ·) h1
      · rw [List.filter_cons_of_neg hgx]
        exact h2
      · rw [List.filter_cons_of_neg hgx]
        have := List.length_filter_le goes taken
        simp only [List.length_cons, h3]
        omega
      · rw [List.filter_cons_of_neg hgx]
        exact h4
      · rw [List.filter_cons_of_neg hgx]
        exact h5
    · rename_i hx
      have hgx : goes x = true := hg.2 hx
      split
      · rename_i hb
        obtain ⟨taken, h1, h2, h3, h4, h5⟩ := ih (budget - (x.frame.length + 4))
        refine ⟨x :: taken, ?_, ?_, ?_, ?_, ?_⟩
        · exact congrArg (x :: ·) h1
        · rw [List.filter_cons_of_pos hgx]
          exact congrArg (x :: ·) h2
        · rw [List.filter_cons_of_pos hgx]
          simp only [List.length_cons, h3]
          omega
        · rw [List.filter_cons_of_pos hgx]
          simp only [List.map_cons, List.sum_cons]
          omega
        · intro d rest h
          obtain ⟨a, b⟩ := h5 d rest h
          refine ⟨a, ?_⟩
          rw [List.filter_cons_of_pos hgx]
          simp only [List.map_cons, List.sum_cons]
          omega
      · rename_i hb
        refine ⟨[], rfl, rfl, rfl, Nat.zero_le _, ?_⟩
        intro d rest h
        cases h
        exact ⟨hgx, by simp only [List.filter_nil, List.map_nil, List.sum_nil]; omega⟩

end Sys2Proof.Machine
end

