-- ==== Sys2Proof/Laws/Dispatching.lean ====
section
/-! SUPPORT. What the first stage of a build can do: the dispatch in both of its orders as one fold over the messages, the
re-offers as one fold over the handles, and the fields of a feeder that neither reaches. -/
namespace Sys2Proof.Machine

open Sys2Proof

/-! ## What a dispatch reaches -/

/-- `t` differs from `s` in the notices and, in the feeder `f`, in the table, the hunt, the bands and the latched flags at
most. -/
def State.Spoken (f : FeederId) (s t : State) : Prop :=
  s.Within f t ∧
    t.fd f = { s.fd f with
      table := (t.fd f).table
      hunt := (t.fd f).hunt
      urgent := (t.fd f).urgent
      ordinary := (t.fd f).ordinary
      latched := (t.fd f).latched }

theorem State.Spoken.refl (f : FeederId) (s : State) : s.Spoken f s := ⟨State.Within.refl f s, rfl⟩

theorem State.Spoken.trans {f : FeederId} {s t u : State} (h : s.Spoken f t) (k : t.Spoken f u) : s.Spoken f u := by
  refine ⟨h.1.trans k.1, ?_⟩
  rw [k.2, h.2]

theorem State.spoken_setFd (f : FeederId) (s : State) (x : Feeder)
    (e : x = { s.fd f with
      table := x.table, hunt := x.hunt, urgent := x.urgent, ordinary := x.ordinary, latched := x.latched }) :
    s.Spoken f (s.setFd f x) := by
  refine ⟨State.within_setFd f s x, ?_⟩
  rw [State.fd_setFd]
  exact e

theorem State.spoken_modRecord (f : FeederId) (s : State) (h : Nat) (g : Record → Record) :
    s.Spoken f (s.modRecord f h g) := by
  refine State.spoken_setFd f s _ ?_
  unfold Feeder.modRecord Feeder.setRecord
  split <;> rfl

theorem State.spoken_raise (f : FeederId) (s : State) (k : NoticeKind) (x : NoticeFields) : s.Spoken f (s.raise k x) :=
  ⟨State.within_raise f s k x, by rw [State.fd_raise]⟩

theorem State.spoken_chooseTarget (f : FeederId) (s : State) : s.Spoken f (s.chooseTarget f) := by
  unfold State.chooseTarget
  simp only
  split
  · refine State.spoken_setFd f s _ ?_
    unfold Feeder.offerHush
    rw [(Feeder.talked_offerUrgent _ _ _).rest]
    unfold Feeder.modRecord Feeder.setRecord
    split <;> rfl
  · refine State.Spoken.trans ?_ (State.spoken_raise f _ _ _)
    exact State.spoken_setFd f s _ rfl

/-- What a dispatch report reaches (R150). -/
theorem State.spoken_report (f : FeederId) (s : State) (n : CycleNumber) (q : QMsg) : s.Spoken f (s.report f n q) := by
  unfold State.report
  split
  · exact State.spoken_modRecord f s _ _
  · exact State.spoken_modRecord f s _ _
  · exact State.spoken_modRecord f s _ _
  · unfold State.admitSent
    simp only
    split
    · exact (State.spoken_modRecord f s _ _).trans (State.spoken_raise f _ _ _)
    · exact State.Spoken.refl f s
  · refine State.spoken_setFd f s _ ?_
    simp only [Feeder.hushSent]
    split <;> rfl
  · unfold State.resumeSent
    split
    · simp only
      split
      · exact (State.spoken_modRecord f s _ _).trans (State.spoken_chooseTarget f _)
      · exact State.spoken_modRecord f s _ _
    · exact State.spoken_modRecord f s _ _
    · exact State.Spoken.refl f s
  · exact State.spoken_modRecord f s _ _

/-! ## The dispatch as a fold (R150, R153) -/

/-- A state, the messages taken so far and the handles moved so far, with one more message reported. -/
def State.sends (f : FeederId) (n : CycleNumber) (x : State × List QMsg × List Nat) (q : QMsg) :
    State × List QMsg × List Nat :=
  let out := x.1.reportMoved f n q
  (out.1, x.2.1 ++ [q], x.2.2 ++ out.2)

/-- The same with the message taken from the head of its band. -/
def State.takes (f : FeederId) (n : CycleNumber) (x : State × List QMsg × List Nat) : State × List QMsg × List Nat :=
  match (x.1.fd f).takeMessage with
  | none => x
  | some (q, fd) => State.sends f n (x.1.setFd f fd, x.2) q

/-- A dispatch whose reports join takes up to `k` messages one after another. -/
theorem State.dispatchJoined_eq (f : FeederId) (n : CycleNumber) (k : Nat) (x : State × List QMsg × List Nat) :
    (List.range k).foldl (fun y _ => State.takes f n y) x =
      ((x.1.dispatchJoined f n k).1, x.2.1 ++ (x.1.dispatchJoined f n k).2.1, x.2.2 ++ (x.1.dispatchJoined f n k).2.2) := by
  have hconst : ∀ (l m : List Nat), l.length = m.length → ∀ y,
      l.foldl (fun y _ => State.takes f n y) y = m.foldl (fun y _ => State.takes f n y) y := by
    intro l
    induction l with
    | nil => intro m hm y; cases m with
      | nil => rfl
      | cons _ _ => cases hm
    | cons a l ih => intro m hm y; cases m with
      | nil => cases hm
      | cons b m => exact ih m (by simpa using hm) _
  induction k generalizing x with
  | zero => simp [State.dispatchJoined]
  | succ k ih =>
    rw [List.range_succ_eq_map, List.foldl_cons, hconst _ (List.range k) (by simp), ih]
    unfold State.takes
    cases e : (x.1.fd f).takeMessage with
    | none =>
      have : ∀ j, x.1.dispatchJoined f n j = (x.1, [], []) := by
        intro j
        cases j with
        | zero => rfl
        | succ j => unfold State.dispatchJoined; rw [e]
      simp only [this]
    | some y =>
      rw [show x.1.dispatchJoined f n (k + 1) = _ from by unfold State.dispatchJoined; rw [e]]
      simp [State.sends]

/-- Reports that do not join run over the messages already taken. -/
theorem State.reportAll_eq (f : FeederId) (n : CycleNumber) (l : List QMsg) (x : State × List QMsg × List Nat) :
    l.foldl (State.sends f n) x =
      ((x.1.reportAll f n l).1, x.2.1 ++ l, x.2.2 ++ (x.1.reportAll f n l).2) := by
  induction l generalizing x with
  | nil => simp [State.reportAll]
  | cons q l ih => rw [List.foldl_cons, ih]; simp [State.sends, State.reportAll]

/-- What the dispatch of a build does: four messages at most, taken and reported by its order. -/
theorem State.dispatch_eq (s : State) (f : FeederId) (n : CycleNumber) (joins : Bool) :
    s.dispatch f n joins =
      if joins then (List.range 4).foldl (fun y _ => State.takes f n y) (s, [], [])
      else
        (((s.fd f).urgent ++ (s.fd f).ordinary).take 4).foldl (State.sends f n)
          (s.setFd f { s.fd f with
            urgent := (s.fd f).urgent.drop 4
            ordinary := (s.fd f).ordinary.drop (4 - (s.fd f).urgent.length) }, [], []) := by
  unfold State.dispatch
  cases joins
  · simp [Feeder.takeMessages_eq, State.reportAll_eq]
  · simp [State.dispatchJoined_eq]

/-- What the dispatch of a build reaches. -/
theorem State.spoken_dispatch (f : FeederId) (s : State) (n : CycleNumber) (joins : Bool) :
    s.Spoken f (s.dispatch f n joins).1 := by
  have hs : ∀ (x : State × List QMsg × List Nat) q, x.1.Spoken f (State.sends f n x q).1 := fun x q => State.spoken_report f x.1 n q
  have ht : ∀ x : State × List QMsg × List Nat, x.1.Spoken f (State.takes f n x).1 := by
    intro x
    unfold State.takes
    split
    · exact State.Spoken.refl f _
    · rename_i q fd e
      refine State.Spoken.trans (State.spoken_setFd f x.1 fd ?_) (hs _ q)
      unfold Feeder.takeMessage at e
      split at e
      · cases e; rfl
      · split at e <;> cases e
        rfl
  have hf : ∀ {α : Type} (l : List α) (g : State × List QMsg × List Nat → α → State × List QMsg × List Nat),
      (∀ (x : State × List QMsg × List Nat) a, x.1.Spoken f (g x a).1) →
      ∀ x : State × List QMsg × List Nat, x.1.Spoken f (l.foldl g x).1 := by
    intro α l g hg
    induction l with
    | nil => exact fun x => State.Spoken.refl f x.1
    | cons a l ih => exact fun x => (hg x a).trans (ih _)
  rw [State.dispatch_eq]
  split
  · exact hf _ _ (fun x _ => ht x) _
  · exact State.Spoken.trans (State.spoken_setFd f s _ rfl) (hf _ _ hs _)

/-! ## The re-offers (R151) -/

/-- A re-offer reaches the bands, the owed messages and the latched flags, and nothing else. -/
theorem Feeder.talked_reoffer (fd : Feeder) (h : Nat) : fd.Talked (fd.reoffer h) := by
  unfold Feeder.reoffer
  split
  · exact Feeder.Talked.refl fd
  · refine Feeder.Talked.trans ⟨?_, fun k => ?_⟩ (Feeder.talked_offer _ h _)
    · unfold Feeder.modRecord Feeder.setRecord
      split <;> rfl
    · rw [Feeder.modRecord_eq, Feeder.record_setRecord]
      split
      · rename_i e
        exact ⟨none, by rw [e.1]⟩
      · exact ⟨(fd.record k).owed, rfl⟩

/-- The same for the re-offers of a build. -/
theorem Feeder.talked_reofferAll (fd : Feeder) : fd.Talked fd.reofferAll := by
  unfold Feeder.reofferAll
  generalize List.range' 1 255 = l
  induction l generalizing fd with
  | nil => exact Feeder.Talked.refl fd
  | cons h l ih => exact (Feeder.talked_reoffer fd h).trans (ih _)

end Sys2Proof.Machine
end

