-- ==== Sys2Proof/Laws/Naming.lean ====
section
/-! SUPPORT. What the naming of a build (R99 to R102) reaches, and that it passes the award by. -/
namespace Sys2Proof.Machine

open Sys2Proof

/-! ## The award -/

/-- The award and the last-served feeder written (R60). -/
def State.withAward (s : State) (w : Option Award) (l : FeederId) : State := { s with award := w, lastServed := l }

theorem State.withAward_setFd (s : State) (w l) (f : FeederId) (x : Feeder) :
    (s.withAward w l).setFd f x = (s.setFd f x).withAward w l := by cases f <;> rfl

theorem State.withAward_modFd (s : State) (w l) (f : FeederId) (F : Feeder → Feeder) :
    (s.withAward w l).modFd f F = (s.modFd f F).withAward w l := by cases f <;> rfl

theorem State.withAward_fd (s : State) (w l) (f : FeederId) : (s.withAward w l).fd f = s.fd f := by cases f <;> rfl

theorem State.withAward_raise (s : State) (w l) (k : NoticeKind) (x : NoticeFields) :
    (s.withAward w l).raise k x = (s.raise k x).withAward w l := by
  unfold State.raise State.withAward
  simp only
  split
  · rfl
  · split <;> rfl

theorem State.withAward_noteHeld (s : State) (w l) (f : FeederId) (n : Serial) (o : MatchOutcome) (k : Option ArrivalLink) :
    (s.withAward w l).noteHeld f n o k = (s.noteHeld f n o k).withAward w l := by
  unfold State.noteHeld
  cases o with
  | ready p => rfl
  | held r => exact State.withAward_raise s w l _ _

theorem State.withAward_nameAs (s : State) (w l) (f : FeederId) (a : Arrival) (k : Option Nat) (p : Fin 8) :
    (s.withAward w l).nameAs f a k p = (s.nameAs f a k p).withAward w l := by
  have ht : ∀ (u : State) h, (u.withAward w l).takeLink k f h = (u.takeLink k f h).withAward w l := by
    intro u h; unfold State.takeLink; cases k <;> rfl
  have hd : ∀ (u : State) n, (u.withAward w l).dropArrivals n = (u.dropArrivals n).withAward w l := by
    intro u n; rfl
  have hw : ∀ (u : State) n, (u.withAward w l).dwellingOf n = u.dwellingOf n := fun _ _ => rfl
  unfold State.nameAs
  rw [State.withAward_fd]
  split
  · rfl
  · simp only [State.withAward_modFd, ht, hd, hw, State.withAward_raise]

theorem State.withAward_nameOne (s : State) (w l) (f : FeederId) (a : Arrival) :
    (s.withAward w l).nameOne f a = (s.nameOne f a).withAward w l := by
  have hm : (s.withAward w l).matchPlan f a.serial = s.matchPlan f a.serial := rfl
  unfold State.nameOne
  simp only [State.withAward_fd, hm]
  split
  · rw [State.withAward_modFd, State.withAward_raise]
  · cases a.status with
    | held _ _ => rfl
    | readyCommand p => exact State.withAward_nameAs s w l f a _ p
    | readyPlan _ =>
      simp only
      cases (s.matchPlan f a.serial).1 with
      | ready p => exact State.withAward_nameAs s w l f a _ p
      | held r => simp only [State.withAward_modFd, State.withAward_noteHeld]

theorem State.withAward_nameAll (w l) (f : FeederId) (as : List Arrival) (s : State) :
    (s.withAward w l).nameAll f as = (s.nameAll f as).withAward w l := by
  induction as generalizing s with
  | nil => rfl
  | cons a as ih =>
    unfold State.nameAll
    simp only [State.withAward_fd, State.withAward_nameOne, ih]
    split
    · rfl
    · split
      · unfold State.feederFull
        rw [State.withAward_fd]
        split
        · rw [State.withAward_modFd, State.withAward_raise]
        · rfl
      · split <;> rfl

/-- Naming neither reads nor writes the award (R99). -/
theorem State.withAward_name (s : State) (w l) (f : FeederId) : (s.withAward w l).name f = (s.name f).withAward w l := by
  unfold State.name
  rw [State.withAward_fd]
  split
  · exact State.withAward_nameAll w l f _ s
  · rfl

/-- The same for the award and the last-served feeder that naming leaves. -/
theorem State.award_name (s : State) (f : FeederId) :
    (s.name f).award = s.award ∧ (s.name f).lastServed = s.lastServed := by
  have h := State.withAward_name s s.award s.lastServed f
  rw [show s.withAward s.award s.lastServed = s from rfl] at h
  rw [h]
  exact ⟨rfl, rfl⟩

/-! ## What naming reaches -/

/-- `t` differs from `s` in the plan, the notices, the arrivals of both feeders, and in feeder `f` in what an offer reaches and
the FEEDER_FULL arm, at most. -/
structure State.Naming (f : FeederId) (s t : State) : Prop where
  rest : t = { s with
    feederA := t.feederA, feederB := t.feederB, plan := t.plan, notices := t.notices, noticeOverrun := t.noticeOverrun }
  other : t.fd f.other = { s.fd f.other with arrivals := (t.fd f.other).arrivals }
  own : t.fd f = { s.fd f with
    table := (t.fd f).table
    urgent := (t.fd f).urgent
    ordinary := (t.fd f).ordinary
    latched := (t.fd f).latched
    arrivals := (t.fd f).arrivals
    fullArmed := (t.fd f).fullArmed }

theorem State.Naming.refl (f : FeederId) (s : State) : s.Naming f s := ⟨rfl, rfl, rfl⟩

theorem State.Naming.trans {f : FeederId} {s t u : State} (h : s.Naming f t) (k : t.Naming f u) : s.Naming f u := by
  refine ⟨?_, ?_, ?_⟩
  · rw [k.rest, h.rest]
  · rw [k.other, h.other]
  · rw [k.own, h.own]

theorem State.naming_raise (f : FeederId) (s : State) (k : NoticeKind) (x : NoticeFields) : s.Naming f (s.raise k x) := by
  refine ⟨?_, by rw [State.fd_raise], by rw [State.fd_raise]⟩
  rcases s.raise_cases k x with ⟨-, h⟩ | ⟨-, -, h⟩ | ⟨-, -, h⟩ <;> rw [h]

theorem State.naming_setFd (f : FeederId) (s : State) (x : Feeder)
    (e : x = { s.fd f with
      table := x.table, urgent := x.urgent, ordinary := x.ordinary, latched := x.latched
      arrivals := x.arrivals, fullArmed := x.fullArmed }) : s.Naming f (s.setFd f x) := by
  refine ⟨by cases f <;> rfl, by rw [State.fd_setFd_other], ?_⟩
  rw [State.fd_setFd]
  exact e

theorem State.naming_noteHeld (f : FeederId) (s : State) (n : Serial) (o : MatchOutcome) (k : Option ArrivalLink) :
    s.Naming f (s.noteHeld f n o k) := by
  unfold State.noteHeld
  cases o with
  | ready p => exact State.Naming.refl f s
  | held r => exact State.naming_raise f s _ _

theorem State.naming_nameAs (f : FeederId) (s : State) (a : Arrival) (k : Option Nat) (p : Fin 8) :
    s.Naming f (s.nameAs f a k p) := by
  have ht : ∀ (u : State) h, u.Naming f (u.takeLink k f h) := by
    intro u h
    unfold State.takeLink
    cases k with
    | none => exact State.Naming.refl f u
    | some i => cases f <;> exact ⟨rfl, rfl, rfl⟩
  have hd : ∀ (u : State) n, u.Naming f (u.dropArrivals n) := by
    intro u n
    cases f <;> exact ⟨rfl, rfl, rfl⟩
  unfold State.nameAs
  split
  · exact State.Naming.refl f s
  · refine State.Naming.trans ?_ (State.naming_raise f _ _ _)
    refine State.Naming.trans ?_ (hd _ _)
    refine State.Naming.trans (State.Naming.trans ?_ (ht _ _)) (State.naming_setFd f _ _ ?_)
    · refine State.naming_setFd f s _ ?_
      unfold Feeder.setRecord
      split <;> rfl
    · simp only
      rw [(Feeder.talked_offerOrdinary _ _ _).rest]

theorem State.naming_nameOne (f : FeederId) (s : State) (a : Arrival) : s.Naming f (s.nameOne f a) := by
  unfold State.nameOne
  split
  · exact (State.naming_setFd f s _ rfl).trans (State.naming_raise f _ _ _)
  · cases a.status with
    | held _ _ => exact State.Naming.refl f s
    | readyCommand p => exact State.naming_nameAs f s a _ p
    | readyPlan _ =>
      simp only
      cases (s.matchPlan f a.serial).1 with
      | ready p => exact State.naming_nameAs f s a _ p
      | held r => exact (State.naming_setFd f s _ rfl).trans (State.naming_noteHeld f _ _ _ _)

/-- What the naming of a build reaches (R99 to R102). -/
theorem State.naming_name (f : FeederId) (s : State) : s.Naming f (s.name f) := by
  have hall : ∀ (as : List Arrival) (u : State), u.Naming f (u.nameAll f as) := by
    intro as
    induction as with
    | nil => exact fun u => State.Naming.refl f u
    | cons a as ih =>
      intro u
      unfold State.nameAll
      split
      · exact ih u
      · split
        · unfold State.feederFull
          split
          · exact (State.naming_setFd f u _ rfl).trans (State.naming_raise f _ _ _)
          · exact State.Naming.refl f u
        · split
          · exact State.Naming.refl f u
          · exact (State.naming_nameOne f u a).trans (ih _)
  unfold State.name
  split
  · exact hall _ s
  · exact State.Naming.refl f s

end Sys2Proof.Machine
end

