-- ==== Sys2Proof/Laws/PerInstr.lean ====
section
/-! SUPPORT. A fact of every row as syntax, one lemma for each constructor. -/
namespace Sys2Proof.Laws

open Sys2Proof Sys2Proof.Machine

/-- A row that is a command of section 10.3 has an assigned code, is no event of one feeder, and is well formed exactly
when a frame can carry the command's arguments (R207). -/
def Row.Statement (i : Instr) : Prop :=
  ∀ (t : Taking) (c : Command), i = rowOf t c →
    assignedCode (commandCode c) = true ∧ feederOf i = none ∧ i.wellFormed = c.wellFormed

/-- The fact for the row of each command. -/
theorem row_of_command (t : Taking) (c : Command) :
    assignedCode (commandCode c) = true ∧ feederOf (rowOf t c) = none ∧ (rowOf t c).wellFormed = c.wellFormed := by
  cases c <;> exact ⟨rfl, rfl, rfl⟩

/-- The fact for any row. -/
theorem row_of_any (i : Instr) : Row.Statement i := by
  rintro t c rfl
  exact row_of_command t c

theorem Row.powerOnReset : Row.Statement .powerOnReset := row_of_any _

theorem Row.pinReset : Row.Statement .pinReset := row_of_any _

theorem Row.resetRelease (straps : Straps) : Row.Statement (.resetRelease straps) := row_of_any _

theorem Row.partResetEffect (straps : Straps) : Row.Statement (.partResetEffect straps) := row_of_any _

theorem Row.trunkFrameArrival (frame : Bytes) : Row.Statement (.trunkFrameArrival frame) := row_of_any _

theorem Row.managementFrameTake (guardPin : Bool) : Row.Statement (.managementFrameTake guardPin) := row_of_any _

theorem Row.identify (t : Taking) : Row.Statement (.identify t) := row_of_any _

theorem Row.partReset (t : Taking) : Row.Statement (.partReset t) := row_of_any _

theorem Row.statusRead (t : Taking) (clear : Byte) : Row.Statement (.statusRead t clear) := row_of_any _

theorem Row.watchdogSet (t : Taking) (mode : Byte) (period : Word16) :
    Row.Statement (.watchdogSet t mode period) := row_of_any _

theorem Row.holdoverExit (t : Taking) : Row.Statement (.holdoverExit t) := row_of_any _

theorem Row.noticeMaskSet (t : Taking) (mask : Word32) : Row.Statement (.noticeMaskSet t mask) := row_of_any _

theorem Row.feederSet (t : Taking) (feeder : Byte) (setting : Byte) (value : Word16) (high : Word16) :
    Row.Statement (.feederSet t feeder setting value high) := row_of_any _

theorem Row.feederOpen (t : Taking) (feeder : Byte) : Row.Statement (.feederOpen t feeder) := row_of_any _

theorem Row.feederClose (t : Taking) (feeder : Byte) : Row.Statement (.feederClose t feeder) := row_of_any _

theorem Row.feederPause (t : Taking) (feeder : Byte) : Row.Statement (.feederPause t feeder) := row_of_any _

theorem Row.feederResume (t : Taking) (feeder : Byte) : Row.Statement (.feederResume t feeder) := row_of_any _

theorem Row.feederStatus (t : Taking) (feeder : Byte) (clear : Byte) :
    Row.Statement (.feederStatus t feeder clear) := row_of_any _

theorem Row.watchSet (t : Taking) (feeder : Byte) (mode : Byte) (mask : Byte) (compare : Byte) :
    Row.Statement (.watchSet t feeder mode mask compare) := row_of_any _

theorem Row.strayClear (t : Taking) (feeder : Byte) : Row.Statement (.strayClear t feeder) := row_of_any _

theorem Row.planWrite (t : Taking) (args : PlanArgs) : Row.Statement (.planWrite t args) := row_of_any _

theorem Row.planRead (t : Taking) (index : Word16) : Row.Statement (.planRead t index) := row_of_any _

theorem Row.planErase (t : Taking) (index : Word16) : Row.Statement (.planErase t index) := row_of_any _

theorem Row.freezeSet (t : Taking) (range : Byte) : Row.Statement (.freezeSet t range) := row_of_any _

theorem Row.freezeLock (t : Taking) : Row.Statement (.freezeLock t) := row_of_any _

theorem Row.guardSet (t : Taking) (value : Byte) : Row.Statement (.guardSet t value) := row_of_any _

theorem Row.profileWrite (t : Taking) (args : ProfileArgs) : Row.Statement (.profileWrite t args) := row_of_any _

theorem Row.profileRead (t : Taking) (index : Byte) : Row.Statement (.profileRead t index) := row_of_any _

theorem Row.profileLock (t : Taking) (index : Byte) : Row.Statement (.profileLock t index) := row_of_any _

theorem Row.profileUnlock (t : Taking) (index : Byte) : Row.Statement (.profileUnlock t index) := row_of_any _

theorem Row.profilesLockAll (t : Taking) : Row.Statement (.profilesLockAll t) := row_of_any _

theorem Row.arrivalsRead (t : Taking) (feeder : Byte) : Row.Statement (.arrivalsRead t feeder) := row_of_any _

theorem Row.admitArrival (t : Taking) (feeder : Byte) (serial : Serial) (profile : Byte) :
    Row.Statement (.admitArrival t feeder serial profile) := row_of_any _

theorem Row.refuse (t : Taking) (feeder : Byte) (serial : Serial) (bar : Byte) :
    Row.Statement (.refuse t feeder serial bar) := row_of_any _

theorem Row.terminalRead (t : Taking) (feeder : Byte) (handle : Byte) :
    Row.Statement (.terminalRead t feeder handle) := row_of_any _

theorem Row.terminalFind (t : Taking) (serial : Serial) : Row.Statement (.terminalFind t serial) := row_of_any _

theorem Row.terminalEject (t : Taking) (feeder : Byte) (handle : Byte) (bar : Byte) :
    Row.Statement (.terminalEject t feeder handle bar) := row_of_any _

theorem Row.terminalRelevel (t : Taking) (feeder : Byte) (handle : Byte) :
    Row.Statement (.terminalRelevel t feeder handle) := row_of_any _

theorem Row.barRead (t : Taking) : Row.Statement (.barRead t) := row_of_any _

theorem Row.barAdd (t : Taking) (serial : Option Serial) (hold : Option Word16) :
    Row.Statement (.barAdd t serial hold) := row_of_any _

theorem Row.barRemove (t : Taking) (serial : Serial) : Row.Statement (.barRemove t serial) := row_of_any _

theorem Row.trunkFrameBoundary (straps : Straps) : Row.Statement (.trunkFrameBoundary straps) := row_of_any _

theorem Row.cycleStart : Row.Statement .cycleStart := row_of_any _

theorem Row.quietEnd (feeder : FeederId) : Row.Statement (.quietEnd feeder) := row_of_any _

theorem Row.purgeEnd (feeder : FeederId) : Row.Statement (.purgeEnd feeder) := row_of_any _

theorem Row.drainExpiry (feeder : FeederId) (handle : Nat) :
    Row.Statement (.drainExpiry feeder handle) := row_of_any _

theorem Row.barHoldExpiry (serial : Serial) : Row.Statement (.barHoldExpiry serial) := row_of_any _

theorem Row.decisionExpiry (feeder : FeederId) (serial : Serial) :
    Row.Statement (.decisionExpiry feeder serial) := row_of_any _

theorem Row.recoveryExpiry (feeder : FeederId) (handle : Nat) :
    Row.Statement (.recoveryExpiry feeder handle) := row_of_any _

theorem Row.reHushWatchEnd (feeder : FeederId) (handle : Nat) :
    Row.Statement (.reHushWatchEnd feeder handle) := row_of_any _

theorem Row.checkCountdownExpiry (feeder : FeederId) (handle : Nat) :
    Row.Statement (.checkCountdownExpiry feeder handle) := row_of_any _

theorem Row.dataCountdownExpiry (feeder : FeederId) (handle : Nat) :
    Row.Statement (.dataCountdownExpiry feeder handle) := row_of_any _

theorem Row.paceCountdownExpiry (feeder : FeederId) (handle : Nat) :
    Row.Statement (.paceCountdownExpiry feeder handle) := row_of_any _

theorem Row.gapCountdownExpiry (feeder : FeederId) : Row.Statement (.gapCountdownExpiry feeder) := row_of_any _

theorem Row.rootCountdownExpiry (feeder : FeederId) : Row.Statement (.rootCountdownExpiry feeder) := row_of_any _

theorem Row.watchdogPeriodEnd : Row.Statement .watchdogPeriodEnd := row_of_any _

theorem Row.watchdogExpiry : Row.Statement .watchdogExpiry := row_of_any _

theorem Row.cycleBuild (feeder : FeederId) (order : BuildOrder) :
    Row.Statement (.cycleBuild feeder order) := row_of_any _

theorem Row.cleanBurst (feeder : FeederId) (cycle : CycleNumber) (m8 : Nat) (level : Nat) (content : BurstContent) :
    Row.Statement (.cleanBurst feeder cycle m8 level content) := row_of_any _

theorem Row.garbledBurst (feeder : FeederId) (cycle : CycleNumber) (m8 : Option Nat) :
    Row.Statement (.garbledBurst feeder cycle m8) := row_of_any _

theorem Row.unassignedLight (feeder : FeederId) (cycle : CycleNumber) (m8 : Option Nat) :
    Row.Statement (.unassignedLight feeder cycle m8) := row_of_any _

theorem Row.checkSpanEnd (feeder : FeederId) (cycle : CycleNumber) (handle : Nat) :
    Row.Statement (.checkSpanEnd feeder cycle handle) := row_of_any _

theorem Row.callInWindowEnd (feeder : FeederId) (cycle : CycleNumber) :
    Row.Statement (.callInWindowEnd feeder cycle) := row_of_any _

theorem Row.probeWindowEnd (feeder : FeederId) (cycle : CycleNumber) :
    Row.Statement (.probeWindowEnd feeder cycle) := row_of_any _

theorem Row.upstreamCycleEnd (feeder : FeederId) (cycle : CycleNumber) :
    Row.Statement (.upstreamCycleEnd feeder cycle) := row_of_any _

theorem Row.powerLoss : Row.Statement .powerLoss := row_of_any _

end Sys2Proof.Laws
end

