-- ==== Sys2Proof/Laws/Placement.lean ====
section
/-! SUPPORT. What the two placement stages of a build do, each said once (R134 to R137). -/
namespace Sys2Proof.Machine

open Sys2Proof

/-! ## States that differ in a feeder's records -/

/-- `t` differs from `s` in the records of the feeder `f` at most. -/
def State.Recorded (f : FeederId) (s t : State) : Prop := t = s.setFd f { s.fd f with table := (t.fd f).table }

theorem State.Recorded.refl (f : FeederId) (s : State) : s.Recorded f s := by
  unfold State.Recorded
  rw [show { s.fd f with table := (s.fd f).table } = s.fd f from rfl, State.setFd_fd]

theorem State.Recorded.trans {f : FeederId} {s t u : State} (h : s.Recorded f t) (k : t.Recorded f u) : s.Recorded f u := by
  unfold State.Recorded at *
  rw [k]
  generalize (u.fd f).table = x
  rw [h]
  simp

theorem State.recorded_modRecord (f : FeederId) (s : State) (h : Nat) (g : Record → Record) :
    s.Recorded f (s.modRecord f h g) := by
  unfold State.Recorded
  rw [State.modRecord_eq, State.fd_setFd]
  unfold Feeder.setRecord
  split <;> rfl

theorem State.Recorded.profileOf {f : FeederId} {s t : State} (h : s.Recorded f t) (r : Record) :
    t.profileOf r = s.profileOf r := by
  rw [h]
  simp

/-! ## The CHECK stage -/

/-- A placed check reloads the countdown of an IN_SERVICE record (R136). -/
def Record.checked (r : Record) (presence : Nat) : Record :=
  if r.state = .inService then { r with checkCd := presence } else r

/-- The grant of a check (R134, R136). -/
def State.checkGrant (s : State) (f : FeederId) (guard next : Nat) (y : Nat × Nat) : Grant where
  kind := .check
  handle := y.1
  offset := next + y.2 * (48 + guard)
  length := 48
  confirm := decide ((s.record f y.1).state = .confirming)
  answered := false
  garbled := false

/-- The checks placed are the first `c` of their order, one behind another; they fit, and the first behind them does not
(R134, R136). -/
theorem State.placeChecks_spec (f : FeederId) (guard : Nat) (hs : List Nat) (hh : ∀ h ∈ hs, 1 ≤ h ∧ h ≤ 255)
    (hn : hs.Nodup) (s : State) (m : GrantMap) :
    ∃ c t, s.placeChecks f guard hs m =
        (t, { next := m.next + c * (48 + guard)
              grants := m.grants ++ (hs.take c).zipIdx.map (s.checkGrant f guard m.next) }, hs.drop c) ∧
      c ≤ hs.length ∧ (0 < c → m.next + c * (48 + guard) ≤ 16000 ∧ m.grants.length + c ≤ 64) ∧
      (c < hs.length → 16000 < m.next + (c + 1) * (48 + guard) ∨ 64 ≤ m.grants.length + c) ∧ s.Recorded f t ∧
      ∀ k, t.record f k =
        if k ∈ hs.take c then (s.record f k).checked (s.profileOf (s.record f k)).presence else s.record f k := by
  induction hs generalizing s m with
  | nil => exact ⟨0, s, by simp [State.placeChecks], by simp, by omega, by simp, State.Recorded.refl f s, by simp⟩
  | cons h rest ih =>
    by_cases hfit : m.fits guard Config.checkLength = true
    · obtain ⟨hf1, hf2⟩ := (GrantMap.fits_iff m guard Config.checkLength).1 hfit
      change m.next + 48 + guard ≤ 16000 at hf1
      have h12 := hh h (by simp)
      obtain ⟨hnr, hn'⟩ := List.nodup_cons.1 hn
      let s1 : State := if (s.record f h).state = .inService then
        s.modRecord f h fun r => { r with checkCd := (s.profileOf r).presence } else s
      have hs1 : s.Recorded f s1 := by
        simp only [s1]
        split
        · exact State.recorded_modRecord f s h _
        · exact State.Recorded.refl f s
      have hrec : ∀ k, s1.record f k =
          if k = h then (s.record f k).checked (s.profileOf (s.record f k)).presence else s.record f k := by
        intro k
        by_cases ek : k = h
        · subst ek
          rw [if_pos rfl]
          simp only [s1, Record.checked]
          split
          · rw [State.record_modRecord_self _ _ _ _ h12.1 h12.2]
          · rfl
        · rw [if_neg ek]
          simp only [s1]
          split
          · rw [State.record_modRecord_of_ne _ _ _ _ _ ek]
          · rfl
      have hst : ∀ k, (s1.record f k).state = (s.record f k).state := by
        intro k
        rw [hrec]
        unfold Record.checked
        split
        · split <;> rfl
        · rfl
      obtain ⟨c, t, h1, h2, h3, h4, h5, h6⟩ := ih (fun k hk => hh k (by simp [hk])) hn' s1
        (m.place guard .check h 48 (decide ((s.record f h).state = .confirming)))
      have hlen : (m.place guard .check h 48 (decide ((s.record f h).state = .confirming))).grants.length =
          m.grants.length + 1 := by simp [GrantMap.place]
      have hnext : (m.place guard .check h 48 (decide ((s.record f h).state = .confirming))).next =
          m.next + 48 + guard := rfl
      rw [hlen, hnext] at h3 h4
      have hmul : (c + 1) * (48 + guard) = c * (48 + guard) + (48 + guard) := Nat.succ_mul _ _
      refine ⟨c + 1, t, ?_, by simpa using h2, ?_, ?_, hs1.trans h5, ?_⟩
      · have : s.placeChecks f guard (h :: rest) m = s1.placeChecks f guard rest
            (m.place guard .check h 48 (decide ((s.record f h).state = .confirming))) := by
          simp only [State.placeChecks]
          rw [if_pos hfit]
          rfl
        rw [this, h1, hnext]
        have hg : (m.place guard .check h 48 (decide ((s.record f h).state = .confirming))).grants =
            m.grants ++ [s.checkGrant f guard m.next (h, 0)] := by simp [GrantMap.place, State.checkGrant]
        rw [hg]
        refine congrArg _ (congrArg₂ _ (congrArg₂ _ ?_ ?_) rfl)
        · omega
        · rw [List.take_succ_cons, List.zipIdx_cons', List.map_cons, List.append_assoc, List.map_map]
          refine congrArg _ (congrArg _ (List.map_congr_left fun y _ => ?_))
          simp only [Function.comp, State.checkGrant, hst, Prod.map, id, Grant.mk.injEq, true_and, and_true]
          have : (y.2 + 1) * (48 + guard) = y.2 * (48 + guard) + (48 + guard) := Nat.succ_mul _ _
          omega
      · intro _
        rcases Nat.eq_zero_or_pos c with e | e
        · subst e; omega
        · have := h3 e; omega
      · intro hlt
        have := h4 (by simpa using hlt)
        have h2 : (c + 1 + 1) * (48 + guard) = (c + 1) * (48 + guard) + (48 + guard) := Nat.succ_mul _ _
        omega
      · intro k
        rw [h6, hrec, hs1.profileOf]
        have : k ∈ (h :: rest).take (c + 1) ↔ k = h ∨ k ∈ rest.take c := by simp
        by_cases ek : k = h
        · have hk : k ∉ rest.take c := fun x => hnr (ek ▸ List.mem_of_mem_take x)
          rw [if_neg hk, if_pos ek, if_pos (this.2 (.inl ek))]
        · rw [if_neg ek]
          by_cases hk : k ∈ rest.take c
          · rw [if_pos hk, if_pos (this.2 (.inr hk))]
          · rw [if_neg hk, if_neg fun x => (this.1 x).elim ek hk]
    · refine ⟨0, s, ?_, by simp, by omega, ?_, State.Recorded.refl f s, by simp⟩
      · simp only [State.placeChecks]
        rw [if_neg hfit]
        simp
      · intro _
        have := mt (GrantMap.fits_iff m guard Config.checkLength).2 hfit
        change ¬ (m.next + 48 + guard ≤ 16000 ∧ _) at this
        omega

/-! ## The DATA stage -/

/-- The length of a record's DATA grant (R134). -/
def State.dataLength (s : State) (f : FeederId) (h : Nat) : Nat := roundUp4 (s.profileOf (s.record f h)).dataLength

/-- The offset behind the first `j` of these DATA grants and their guards (R134). -/
def State.dataEnd (s : State) (f : FeederId) (guard next : Nat) (hs : List Nat) (j : Nat) : Nat :=
  next + ((hs.take j).map fun h => s.dataLength f h + guard).sum

/-- The DATA grant at its place among these (R134, R137). -/
def State.dataGrant (s : State) (f : FeederId) (guard next : Nat) (hs : List Nat) (y : Nat × Nat) : Grant where
  kind := .data
  handle := y.1
  offset := s.dataEnd f guard next hs y.2
  length := s.dataLength f y.1
  confirm := false
  answered := false
  garbled := false

/-- The DATA grants placed are the first `d` of their order, one behind another; they fit, and the first behind them does
not (R134, R137). -/
theorem State.placeData_spec (f : FeederId) (guard : Nat) (hs : List Nat) (hh : ∀ h ∈ hs, 1 ≤ h ∧ h ≤ 255)
    (hn : hs.Nodup) (s : State) (m : GrantMap) :
    ∃ d t, s.placeData f guard hs m =
        (t, { next := s.dataEnd f guard m.next hs d
              grants := m.grants ++ (hs.take d).zipIdx.map (s.dataGrant f guard m.next hs) }, hs.drop d) ∧
      d ≤ hs.length ∧ (0 < d → s.dataEnd f guard m.next hs d ≤ 16000 ∧ m.grants.length + d ≤ 64) ∧
      (d < hs.length → 16000 < s.dataEnd f guard m.next hs (d + 1) ∨ 64 ≤ m.grants.length + d) ∧ s.Recorded f t ∧
      ∀ k, t.record f k =
        if k ∈ hs.take d then { s.record f k with dataCd := (s.profileOf (s.record f k)).dataInterval }
        else s.record f k := by
  induction hs generalizing s m with
  | nil =>
    exact ⟨0, s, by simp [State.placeData, State.dataEnd], by simp, by omega, by simp, State.Recorded.refl f s, by simp⟩
  | cons h rest ih =>
    have hcons : ∀ j, s.dataEnd f guard m.next (h :: rest) (j + 1) =
        s.dataEnd f guard (m.next + s.dataLength f h + guard) rest j := by
      intro j
      simp only [State.dataEnd, List.take_succ_cons, List.map_cons, List.sum_cons]
      omega
    by_cases hfit : m.fits guard (s.dataLength f h) = true
    · obtain ⟨hf1, hf2⟩ := (GrantMap.fits_iff m guard _).1 hfit
      have h12 := hh h (by simp)
      obtain ⟨hnr, hn'⟩ := List.nodup_cons.1 hn
      let s1 : State := s.modRecord f h fun r => { r with dataCd := (s.profileOf (s.record f h)).dataInterval }
      have hs1 : s.Recorded f s1 := State.recorded_modRecord f s h _
      have hrec : ∀ k, s1.record f k =
          if k = h then { s.record f k with dataCd := (s.profileOf (s.record f k)).dataInterval } else s.record f k := by
        intro k
        by_cases ek : k = h
        · subst ek
          rw [if_pos rfl]
          exact State.record_modRecord_self _ _ _ _ h12.1 h12.2
        · rw [if_neg ek]
          exact State.record_modRecord_of_ne _ _ _ _ _ ek
      have hprof : ∀ k, (s.profileOf (s1.record f k)) = s.profileOf (s.record f k) := by
        intro k
        rw [hrec]
        split <;> rfl
      have hdl : ∀ k, s1.dataLength f k = s.dataLength f k := by
        intro k
        unfold State.dataLength
        rw [hs1.profileOf, hprof]
      have hde : ∀ next j, s1.dataEnd f guard next rest j = s.dataEnd f guard next rest j := by
        intro next j
        unfold State.dataEnd
        simp only [hdl]
      obtain ⟨d, t, h1, h2, h3, h4, h5, h6⟩ := ih (fun k hk => hh k (by simp [hk])) hn' s1
        (m.place guard .data h (s.dataLength f h) false)
      have hlen : (m.place guard .data h (s.dataLength f h) false).grants.length = m.grants.length + 1 := by
        simp [GrantMap.place]
      have hnext : (m.place guard .data h (s.dataLength f h) false).next = m.next + s.dataLength f h + guard := rfl
      simp only [hlen, hnext, hde] at h3 h4
      refine ⟨d + 1, t, ?_, by simpa using h2, ?_, ?_, hs1.trans h5, ?_⟩
      · have : s.placeData f guard (h :: rest) m =
            s1.placeData f guard rest (m.place guard .data h (s.dataLength f h) false) := by
          simp only [State.placeData]
          exact if_pos hfit
        rw [this, h1, hnext]
        have hg : (m.place guard .data h (s.dataLength f h) false).grants =
            m.grants ++ [s.dataGrant f guard m.next (h :: rest) (h, 0)] := by
          simp [GrantMap.place, State.dataGrant, State.dataEnd]
        rw [hg]
        refine congrArg _ (congrArg₂ _ (congrArg₂ _ ?_ ?_) rfl)
        · rw [hde, hcons]
        · rw [List.take_succ_cons, List.zipIdx_cons', List.map_cons, List.append_assoc, List.map_map]
          refine congrArg _ (congrArg _ (List.map_congr_left fun y _ => ?_))
          simp only [Function.comp, State.dataGrant, hdl, hde, Prod.map, id, hcons]
      · intro _
        rw [hcons]
        rcases Nat.eq_zero_or_pos d with e | e
        · subst e
          simp only [State.dataEnd, List.take_zero, List.map_nil, List.sum_nil]
          omega
        · have := h3 e
          omega
      · intro hlt
        rw [hcons]
        have := h4 (by simpa using hlt)
        omega
      · intro k
        rw [h6, hrec, hs1.profileOf]
        have : k ∈ (h :: rest).take (d + 1) ↔ k = h ∨ k ∈ rest.take d := by simp
        by_cases ek : k = h
        · have hk : k ∉ rest.take d := fun x => hnr (ek ▸ List.mem_of_mem_take x)
          rw [if_neg hk, if_pos ek, if_pos (this.2 (.inl ek))]
        · rw [if_neg ek]
          by_cases hk : k ∈ rest.take d
          · rw [if_pos hk, if_pos (this.2 (.inr hk))]
          · rw [if_neg hk, if_neg fun x => (this.1 x).elim ek hk]
    · refine ⟨0, s, ?_, by simp, by omega, ?_, State.Recorded.refl f s, by simp⟩
      · simp only [State.placeData]
        refine (if_neg hfit).trans ?_
        simp [State.dataEnd]
      · intro _
        have := mt (GrantMap.fits_iff m guard _).2 hfit
        rw [hcons]
        simp only [State.dataEnd, List.take_zero, List.map_nil, List.sum_nil]
        omega

/-! ## The orders of the stages -/

/-- Handles come lowest first. -/
theorem Feeder.pairwise_handlesWhere (fd : Feeder) (p : Nat → Record → Bool) :
    (fd.handlesWhere p).Pairwise (· < ·) := by
  unfold Feeder.handlesWhere
  refine List.Pairwise.sublist (List.Sublist.map _ List.filter_sublist) ?_
  have : (fd.table.toList.zipIdx 1).map (·.2) = List.range' 1 255 := by simp [List.zipIdx_map_snd]
  rw [this]
  exact List.pairwise_lt_range'

/-- The order of R135: by check wait, the largest first, then by handle. -/
def Before (wait : Nat → Nat) (j k : Nat) : Prop := wait k < wait j ∨ (wait j = wait k ∧ j < k)

theorem mem_insertByWait (wait : Nat → Nat) (h k : Nat) (l : List Nat) :
    k ∈ insertByWait wait h l ↔ k = h ∨ k ∈ l := by
  induction l with
  | nil => simp [insertByWait]
  | cons x l ih =>
    unfold insertByWait
    split
    · simp
    · simp [ih, or_left_comm]

theorem pairwise_insertByWait (wait : Nat → Nat) (h : Nat) (l : List Nat) (hl : l.Pairwise (Before wait))
    (hh : ∀ k ∈ l, k < h) : (insertByWait wait h l).Pairwise (Before wait) := by
  induction l with
  | nil => simp [insertByWait]
  | cons x l ih =>
    obtain ⟨hx, hl'⟩ := List.pairwise_cons.1 hl
    unfold insertByWait
    split
    · rename_i hw
      refine List.pairwise_cons.2 ⟨fun k hk => ?_, hl⟩
      rcases List.mem_cons.1 hk with rfl | hk
      · exact .inl hw
      · left
        rcases hx k hk with e | ⟨e, -⟩ <;> omega
    · rename_i hw
      refine List.pairwise_cons.2 ⟨fun k hk => ?_, ih hl' fun k hk => hh k (by simp [hk])⟩
      rcases (mem_insertByWait wait h k l).1 hk with rfl | hk
      · have := hh x (by simp)
        by_cases e : wait k < wait x
        · exact .inl e
        · exact .inr ⟨by omega, this⟩
      · exact hx k hk

/-- Handles in ascending order, ordered by check wait (R135). -/
theorem orderByWait_spec (wait : Nat → Nat) (hs : List Nat) (hp : hs.Pairwise (· < ·)) :
    (∀ k, k ∈ orderByWait wait hs ↔ k ∈ hs) ∧ (orderByWait wait hs).Pairwise (Before wait) := by
  suffices ∀ acc : List Nat, acc.Pairwise (Before wait) → (∀ j ∈ acc, ∀ k ∈ hs, j < k) →
      let out := hs.foldl (fun acc h => insertByWait wait h acc) acc
      (∀ k, k ∈ out ↔ k ∈ acc ∨ k ∈ hs) ∧ out.Pairwise (Before wait) by
    simpa [orderByWait] using this [] List.Pairwise.nil (by simp)
  induction hs with
  | nil => exact fun acc ha _ => ⟨by simp, ha⟩
  | cons h rest ih =>
    intro acc ha hlt
    obtain ⟨hh, hp'⟩ := List.pairwise_cons.1 hp
    obtain ⟨h1, h2⟩ := ih hp' (insertByWait wait h acc)
      (pairwise_insertByWait wait h acc ha fun k hk => hlt k hk h (by simp)) (by
        intro j hj k hk
        rcases (mem_insertByWait wait h j acc).1 hj with rfl | hj
        · exact hh k hk
        · exact hlt j hj k (by simp [hk]))
    refine ⟨fun k => ?_, h2⟩
    rw [List.foldl_cons, h1, mem_insertByWait, List.mem_cons]
    tauto

/-- The due checks of a build in which no dispatch moved a record: those due, in the order of R135. -/
theorem Feeder.checksDue_spec (fd : Feeder) :
    (∀ k, k ∈ fd.checksDue [] ↔ 1 ≤ k ∧ k ≤ 255 ∧ (fd.record k).checkDue = true) ∧
      (fd.checksDue []).Pairwise (Before fd.wait) := by
  obtain ⟨h1, h2⟩ := orderByWait_spec fd.wait _
    (fd.pairwise_handlesWhere fun h r => r.checkDue && !([] : List Nat).contains h)
  refine ⟨fun k => ?_, h2⟩
  rw [show fd.checksDue [] = orderByWait fd.wait _ from rfl, h1, Feeder.mem_handlesWhere]
  simp

/-- Handles in ascending order from the rotation pointer on, wrapping (R137). -/
theorem rotateFrom_spec (pointer : Nat) (hs : List Nat) (hp : hs.Pairwise (· < ·)) :
    (∀ k, k ∈ rotateFrom pointer hs ↔ k ∈ hs) ∧
      (rotateFrom pointer hs).Pairwise fun j k =>
        if pointer ≤ j then k < pointer ∨ j < k else k < pointer ∧ j < k := by
  constructor
  · intro k
    simp only [rotateFrom, List.mem_append, List.mem_filter, decide_eq_true_eq]
    by_cases e : pointer ≤ k
    · simp [e]
    · simp [e, Nat.lt_of_not_le e]
  · unfold rotateFrom
    refine List.pairwise_append.2 ⟨?_, ?_, ?_⟩
    · refine (List.Pairwise.filter _ hp).imp_of_mem fun ha _ hab => ?_
      rw [if_pos (of_decide_eq_true (List.mem_filter.1 ha).2)]
      exact .inr hab
    · refine (List.Pairwise.filter _ hp).imp_of_mem fun ha hb hab => ?_
      have h1 := of_decide_eq_true (List.mem_filter.1 ha).2
      rw [if_neg (Nat.not_le.2 h1)]
      exact ⟨of_decide_eq_true (List.mem_filter.1 hb).2, hab⟩
    · intro a ha b hb
      rw [if_pos (of_decide_eq_true (List.mem_filter.1 ha).2)]
      exact .inl (of_decide_eq_true (List.mem_filter.1 hb).2)

/-- Two lists that are in one strict order and have the same members are equal. -/
theorem eq_of_pairwise_of_mem {R : Nat → Nat → Prop} (ha : ∀ j k, R j k → ¬ R k j) {l m : List Nat} (hl : l.Pairwise R)
    (hm : m.Pairwise R) (h : ∀ k, k ∈ l ↔ k ∈ m) : l = m := by
  have hne : ∀ {x : List Nat}, x.Pairwise R → x.Nodup :=
    fun hx => hx.imp fun {j k} hjk (e : j = k) => ha j k hjk (by rw [e] at hjk ⊢; exact hjk)
  exact ((List.perm_ext_iff_of_nodup (hne hl) (hne hm)).2 h).eq_of_pairwise (fun j k _ _ a b => absurd b (ha j k a)) hl hm

end Sys2Proof.Machine
end

