-- ==== Sys2Proof/Laws/Recoveries.lean ====
section
/-! SUPPORT. The recovery countdowns of a cycle start (R167): what passes a countdown written elsewhere by, what may come
before or behind the decision about a record, and that the last countdown of a start may end on its own behind the rest. -/
namespace Sys2Proof.Machine

open Sys2Proof

/-! ## One recovery countdown written -/

/-- A record with another recovery countdown. -/
def Record.withRecCd (c : Nat) (r : Record) : Record := { r with recCd := c }

theorem Feeder.modRecord_comm (fd : Feeder) (h k : Nat) (a b : Record → Record) (e : h ≠ k ∨ ∀ r, a (b r) = b (a r)) :
    (fd.modRecord k b).modRecord h a = (fd.modRecord h a).modRecord k b := by
  by_cases hk : h = k
  · subst hk
    have hc := e.resolve_left (fun x => x rfl)
    by_cases hb : 1 ≤ h ∧ h ≤ 255
    · simp only [Feeder.modRecord_eq, Feeder.record_setRecord_self _ _ _ hb.1 hb.2, Feeder.setRecord_setRecord, hc]
    · have hn : ∀ (x : Feeder) r, x.setRecord h r = x := by
        intro x r
        unfold Feeder.setRecord
        split
        · rfl
        · rename_i h0
          have : x.table.setIfInBounds (h - 1) r = x.table := by
            ext i hi
            rw [Vector.getElem_setIfInBounds, if_neg (by omega)]
          rw [this]
      simp only [Feeder.modRecord_eq, hn]
  · simp only [Feeder.modRecord_eq, Feeder.record_setRecord_of_ne _ _ _ _ hk,
      Feeder.record_setRecord_of_ne _ _ _ _ (Ne.symm hk)]
    unfold Feeder.setRecord
    by_cases h0 : h = 0 <;> by_cases k0 : k = 0 <;> simp only [h0, k0, if_true, if_false]
    congr 1
    ext i hi
    simp only [Vector.getElem_setIfInBounds]
    split <;> split <;> (first | rfl | omega)

/-- An update that does not read the table passes a recovery countdown written by. -/
theorem Feeder.withRecCd_of_table (h c : Nat) (F : Feeder → Feeder)
    (e : ∀ (fd : Feeder) (t : Vector Record 255), F { fd with table := t } = { (F fd) with table := t }) (fd : Feeder) :
    F (fd.modRecord h (Record.withRecCd c)) = (F fd).modRecord h (Record.withRecCd c) := by
  have ht : (F fd).table = fd.table := by
    have h2 : F fd = { (F fd) with table := fd.table } := e fd fd.table
    rw [h2]
  unfold Feeder.modRecord Feeder.setRecord Feeder.record
  split
  · rfl
  · rw [e, ht]

theorem Record.owe_withRecCd (r : Record) (c : Nat) (m : Msg) : (r.withRecCd c).owe m = (r.owe m).withRecCd c := by
  unfold Record.owe Record.withRecCd
  cases ho : r.owed with
  | none => simp only
  | some o => simp only; split <;> simp only [ho]

theorem Record.clearOwed_withRecCd (r : Record) (c : Nat) (k : MsgKind) :
    (r.withRecCd c).clearOwed k = (r.clearOwed k).withRecCd c := by
  unfold Record.clearOwed Record.withRecCd
  cases ho : r.owed with
  | none => simp only [ho]
  | some o => simp only; split <;> simp only [ho]

theorem Feeder.urgent_modRecord (fd : Feeder) (h : Nat) (g : Record → Record) : (fd.modRecord h g).urgent = fd.urgent := by
  unfold Feeder.modRecord Feeder.setRecord; split <;> rfl

theorem Feeder.ordinary_modRecord (fd : Feeder) (h : Nat) (g : Record → Record) :
    (fd.modRecord h g).ordinary = fd.ordinary := by
  unfold Feeder.modRecord Feeder.setRecord; split <;> rfl

theorem Feeder.modRecord_bands (fd : Feeder) (h : Nat) (g : Record → Record) (u o : List QMsg) :
    Feeder.modRecord { fd with ordinary := o, urgent := u } h g =
      { (fd.modRecord h g) with ordinary := o, urgent := u } := by
  unfold Feeder.modRecord Feeder.setRecord; split <;> rfl

theorem Feeder.latchQueueFull_modRecord (fd : Feeder) (h : Nat) (g : Record → Record) :
    (fd.modRecord h g).latchQueueFull = fd.latchQueueFull.modRecord h g := by
  unfold Feeder.modRecord Feeder.setRecord; split <;> rfl

theorem Feeder.offerUrgent_withRecCd (fd : Feeder) (h c k : Nat) (m : Msg) :
    (fd.modRecord h (Record.withRecCd c)).offerUrgent k m = (fd.offerUrgent k m).modRecord h (Record.withRecCd c) := by
  have ho : ∀ (x : Feeder) (m : Msg) (k : Nat), (x.modRecord h (Record.withRecCd c)).modRecord k (·.owe m) =
      (x.modRecord k (·.owe m)).modRecord h (Record.withRecCd c) :=
    fun x m k => Feeder.modRecord_comm x k h _ _ (.inr fun r => r.owe_withRecCd c m)
  unfold Feeder.offerUrgent Feeder.queued
  simp only [Feeder.urgent_modRecord, Feeder.ordinary_modRecord]
  split
  · exact (Feeder.modRecord_bands fd h _ _ fd.ordinary).symm
  · split
    · exact (Feeder.modRecord_bands fd h _ _ fd.ordinary).symm
    · split
      · rw [← Feeder.modRecord_bands, ho, Feeder.latchQueueFull_modRecord]
      · rw [ho, Feeder.latchQueueFull_modRecord]

theorem Feeder.removeOrdinary_modRecord (fd : Feeder) (h k : Nat) (g : Record → Record) :
    (fd.modRecord h g).removeOrdinary k = (fd.removeOrdinary k).modRecord h g := by
  unfold Feeder.modRecord Feeder.setRecord; split <;> rfl

theorem Feeder.ejectRecord_withRecCd (fd : Feeder) (h c k : Nat) (e : h ≠ k) (reason : EjectReason) :
    (fd.modRecord h (Record.withRecCd c)).ejectRecord k reason =
      (fd.ejectRecord k reason).modRecord h (Record.withRecCd c) := by
  unfold Feeder.ejectRecord
  simp only [Feeder.record_modRecord_of_ne _ _ _ _ (Ne.symm e)]
  rw [Feeder.modRecord_comm fd k h _ _ (.inl (Ne.symm e)), Feeder.removeOrdinary_modRecord]
  split
  · rfl
  · rw [Feeder.offerUrgent_withRecCd]

theorem Feeder.offerResume_withRecCd (fd : Feeder) (h c k : Nat) :
    (fd.modRecord h (Record.withRecCd c)).offerResume k = (fd.offerResume k).modRecord h (Record.withRecCd c) := by
  unfold Feeder.offerResume
  rw [Feeder.modRecord_comm fd k h _ _ (.inr fun r => r.clearOwed_withRecCd c _), Feeder.offerUrgent_withRecCd]

theorem Feeder.state_withRecCd (fd : Feeder) (h c k : Nat) :
    ((fd.modRecord h (Record.withRecCd c)).record k).state = (fd.record k).state := by
  rw [Feeder.modRecord_eq, Feeder.record_setRecord]
  split
  · rename_i e; rw [e.1]; rfl
  · rfl

theorem Feeder.drainDown_congr (a b : Feeder) (l : List DownFrame)
    (e : ∀ k, (a.record k).state.carriesTraffic = (b.record k).state.carriesTraffic) :
    ∀ n, a.drainDown l n = b.drainDown l n := by
  induction l with
  | nil => exact fun n => rfl
  | cons d l ih => intro n; unfold Feeder.drainDown; simp only [e, ih]

/-- What a send of downstream frames does, from the line, the buffer and the states of the records. -/
theorem Feeder.sendDown_comm (F : Feeder → Feeder)
    (hF : ∀ (fd : Feeder) (b : List DownFrame) (l : Option LineCycle) (n : Counters),
      F { fd with downBuffer := b, line := l, counters := n } = { (F fd) with downBuffer := b, line := l, counters := n })
    (fd : Feeder)
    (hs : ∀ k, ((F fd).record k).state.carriesTraffic = (fd.record k).state.carriesTraffic) :
    F fd.sendDown = (F fd).sendDown := by
  have e : F fd = { (F fd) with downBuffer := fd.downBuffer, line := fd.line, counters := fd.counters } := by
    have := hF fd fd.downBuffer fd.line fd.counters
    exact this
  have e1 : (F fd).downBuffer = fd.downBuffer := by rw [e]
  have e2 : (F fd).line = fd.line := by rw [e]
  have e3 : (F fd).counters = fd.counters := by rw [e]
  unfold Feeder.sendDown
  rw [e2]
  cases hl : fd.line with
  | none => rfl
  | some c =>
    simp only [e1, Feeder.drainDown_congr _ _ _ hs]
    unfold Feeder.count
    simp only [e3]
    exact hF fd _ _ _

theorem Feeder.sendDown_withRecCd (fd : Feeder) (h c : Nat) :
    (fd.modRecord h (Record.withRecCd c)).sendDown = fd.sendDown.modRecord h (Record.withRecCd c) := by
  refine (Feeder.sendDown_comm (·.modRecord h (Record.withRecCd c)) ?_ fd ?_).symm
  · intro fd b l n
    unfold Feeder.modRecord Feeder.setRecord
    split <;> rfl
  · intro k
    rw [Feeder.state_withRecCd]

theorem Feeder.endSequence_withRecCd (fd : Feeder) (h c : Nat) :
    (fd.modRecord h (Record.withRecCd c)).endSequence = fd.endSequence.modRecord h (Record.withRecCd c) := by
  refine Feeder.withRecCd_of_table h c _ (fun fd t => ?_) fd
  by_cases hq : fd.seqCount = some 0 <;> cases hs : fd.state <;>
    simp [Feeder.endSequence, hq, hs, Feeder.endQuiet, Feeder.endPurge]

theorem Feeder.drained_withRecCd (fd : Feeder) (h c : Nat) :
    (fd.modRecord h (Record.withRecCd c)).drained = fd.drained := by
  unfold Feeder.drained
  apply eq_of_pairwise_of_mem (R := fun j k => j < k) (fun j k x => Nat.not_lt.2 (Nat.le_of_lt x))
    (Feeder.pairwise_handlesWhere _ _) (Feeder.pairwise_handlesWhere _ _)
  intro k
  rw [Feeder.mem_handlesWhere, Feeder.mem_handlesWhere, Feeder.modRecord_eq, Feeder.record_setRecord]
  split
  · rename_i e; rw [e.1]; rfl
  · rfl

theorem Feeder.hunt_ejectRecord (fd : Feeder) (h : Nat) (reason : EjectReason) :
    (fd.ejectRecord h reason).hunt = fd.hunt := by
  unfold Feeder.ejectRecord
  simp only
  split
  · unfold Feeder.removeOrdinary Feeder.modRecord Feeder.setRecord; split <;> rfl
  · rw [(Feeder.talked_offerUrgent _ h _).rest]
    unfold Feeder.removeOrdinary Feeder.modRecord Feeder.setRecord; split <;> rfl

/-! ## The same in the whole state -/

/-- The recovery countdown of a record written. -/
def State.withRecCd (s : State) (g : FeederId) (h c : Nat) : State := s.modRecord g h (Record.withRecCd c)

theorem State.fd_withRecCd (s : State) (g : FeederId) (h c : Nat) (f : FeederId) :
    (s.withRecCd g h c).fd f = if f = g then (s.fd f).modRecord h (Record.withRecCd c) else s.fd f := by
  by_cases e : f = g
  · subst e; simp [State.withRecCd]
  · rw [if_neg e]; exact State.fd_modFd_of_ne s g f _ e

theorem State.modFd_withRecCd (s : State) (g : FeederId) (h c : Nat) (f : FeederId) (F : Feeder → Feeder)
    (e : f = g → ∀ fd : Feeder, F (fd.modRecord h (Record.withRecCd c)) = (F fd).modRecord h (Record.withRecCd c)) :
    (s.withRecCd g h c).modFd f F = (s.modFd f F).withRecCd g h c := by
  by_cases hfg : f = g
  · subst hfg
    unfold State.withRecCd State.modRecord
    rw [State.modFd_modFd, State.modFd_modFd]
    unfold State.modFd
    simp only [e rfl]
  · cases f <;> cases g <;> first | exact absurd rfl hfg | rfl

theorem State.raise_withRecCd (s : State) (g : FeederId) (h c : Nat) (k : NoticeKind) (x : NoticeFields) :
    (s.withRecCd g h c).raise k x = (s.raise k x).withRecCd g h c := by
  unfold State.withRecCd State.modRecord State.modFd
  rw [State.raise_setFd, State.fd_raise]

theorem State.bar_withRecCd (s : State) (g : FeederId) (h c : Nat) (n : Serial) :
    (s.withRecCd g h c).bar n = (s.bar n).withRecCd g h c := by
  have hd : ∀ fd : Feeder, (fd.modRecord h (Record.withRecCd c)).dropArrival n =
      (fd.dropArrival n).modRecord h (Record.withRecCd c) :=
    fun fd => Feeder.withRecCd_of_table h c (·.dropArrival n) (fun _ _ => rfl) fd
  cases g <;>
    simp only [State.withRecCd, State.bar_eq, State.modRecord, State.modFd, State.setFd, State.fd, hd]

theorem State.planAt_withRecCd (s : State) (g : FeederId) (h c i : Nat) :
    (s.withRecCd g h c).planAt i = s.planAt i := by cases g <;> rfl

theorem State.dwellingOf_withRecCd (s : State) (g : FeederId) (h c : Nat) (l : Option Nat) :
    (s.withRecCd g h c).dwellingOf l = s.dwellingOf l := by cases g <;> rfl

theorem State.record_withRecCd_of_ne (s : State) (g : FeederId) (h c : Nat) (f : FeederId) (k : Nat)
    (e : ¬ (f = g ∧ k = h)) : (s.withRecCd g h c).record f k = s.record f k := by
  unfold State.record
  rw [State.fd_withRecCd]
  split
  · exact Feeder.record_modRecord_of_ne _ _ _ _ (by tauto)
  · rfl

/-- A teardown of another record passes by. -/
theorem State.tearDown_withRecCd (s : State) (g : FeederId) (h c : Nat) (f : FeederId) (k : Nat) (e : ¬ (f = g ∧ k = h)) :
    (s.withRecCd g h c).tearDown f k = (s.tearDown f k).withRecCd g h c := by
  have hr : ∀ (u : State) (l : Option Nat), (u.withRecCd g h c).releaseLink l = (u.releaseLink l).withRecCd g h c := by
    intro u l
    unfold State.releaseLink
    cases l with
    | none => rfl
    | some i => simp only [State.planAt_withRecCd]; cases g <;> rfl
  unfold State.tearDown
  rw [State.record_withRecCd_of_ne _ _ _ _ _ _ e, hr, State.modFd_withRecCd]
  intro hfg fd
  have hk : k ≠ h := fun x => e ⟨hfg, x⟩
  have h1 := Feeder.modRecord_comm (fd.removeMessages k) k h (fun _ => freeRecord) (Record.withRecCd c) (.inl hk)
  have h2 : (fd.modRecord h (Record.withRecCd c)).removeMessages k =
      (fd.removeMessages k).modRecord h (Record.withRecCd c) :=
    Feeder.withRecCd_of_table h c (·.removeMessages k) (fun _ _ => rfl) fd
  have h3 : ∀ x : Feeder, { (x.modRecord h (Record.withRecCd c)) with fullArmed := true } =
      Feeder.modRecord { x with fullArmed := true } h (Record.withRecCd c) :=
    fun x => Feeder.withRecCd_of_table h c (fun x => { x with fullArmed := true }) (fun _ _ => rfl) x
  simp only [Feeder.modRecord_eq] at h1 h2 h3 ⊢
  rw [h2, h1, h3]

theorem State.expireArrival_withRecCd (s : State) (g : FeederId) (h c : Nat) (f : FeederId) (a : Arrival) :
    (s.withRecCd g h c).expireArrival f a = (s.expireArrival f a).withRecCd g h c := by
  unfold State.expireArrival
  rw [State.modFd_withRecCd, State.dwellingOf_withRecCd, State.raise_withRecCd]
  intro _ fd
  exact Feeder.withRecCd_of_table h c
    (fun fd => { fd.dropArrival a.serial with expired := addExpired fd.expired a.serial }) (fun _ _ => rfl) fd

/-- A recovery's decision about another record passes by. -/
theorem State.recoveryDecision_withRecCd (s : State) (g : FeederId) (h c : Nat) (f : FeederId) (k : Nat)
    (e : ¬ (f = g ∧ k = h)) (ht : (s.fd f).hunt.target ≠ some k) :
    (s.withRecCd g h c).recoveryDecision f k = (s.recoveryDecision f k).withRecCd g h c := by
  have hp : (s.withRecCd g h c).policyOf f k = s.policyOf f k := by
    unfold State.policyOf
    rw [State.record_withRecCd_of_ne _ _ _ _ _ _ e]
    cases g <;> rfl
  have htt : ∀ (u : State), (u.fd f).hunt.target ≠ some k → ((u.withRecCd g h c).fd f).hunt.target ≠ some k := by
    intro u hu
    rw [State.fd_withRecCd]
    split
    · have : ((u.fd f).modRecord h (Record.withRecCd c)).hunt = (u.fd f).hunt := by
        unfold Feeder.modRecord Feeder.setRecord; split <;> rfl
      rw [this]; exact hu
    · exact hu
  unfold State.recoveryDecision
  rw [hp, State.record_withRecCd_of_ne _ _ _ _ _ _ e]
  split
  · unfold State.ejectAndBar State.eject
    simp only [State.record_withRecCd_of_ne _ _ _ _ _ _ e, State.dwellingOf_withRecCd]
    have hb : ∀ (u : State) l, (u.withRecCd g h c).barHeld l = (u.barHeld l).withRecCd g h c := by
      intro u l; unfold State.barHeld; cases l with
      | none => rfl
      | some n => exact State.bar_withRecCd u g h c n
    split
    · rw [State.modFd_withRecCd, State.raise_withRecCd, State.huntEjected_of_ne, State.huntEjected_of_ne, hb]
      · rw [State.fd_raise, State.fd_modFd, Feeder.hunt_ejectRecord]; exact ht
      · refine htt _ ?_
        rw [State.fd_raise, State.fd_modFd, Feeder.hunt_ejectRecord]; exact ht
      · intro hfg fd
        exact Feeder.ejectRecord_withRecCd fd h c k (fun x => e ⟨hfg, x.symm⟩) _
    · rw [hb]
  · refine State.modFd_withRecCd _ _ _ _ _ _ ?_
    intro hfg fd
    rw [Feeder.offerResume_withRecCd, Feeder.modRecord_comm _ k h _ _ (.inl fun x => e ⟨hfg, x⟩)]

/-! ## A recovery's decision and what comes after it -/

/-- `X` keeps to the other feeder and to the plan, and changes no dwelling there: a decision about a record of feeder `f`
may be taken before or behind it. -/
structure State.Beside (f : FeederId) (X : State → State) : Prop where
  fd : ∀ v, (X v).fd f = v.fd f
  set : ∀ v x, X (v.setFd f x) = (X v).setFd f x
  raise : ∀ v k x, X (v.raise k x) = (X v).raise k x
  bar : ∀ v n, X (v.bar n) = (X v).bar n
  dwelling : ∀ v l, (X v).dwellingOf l = v.dwellingOf l
  profiles : ∀ v, (X v).profiles = v.profiles

theorem State.Beside.comp {f : FeederId} {X Y : State → State} (hX : State.Beside f X) (hY : State.Beside f Y) :
    State.Beside f fun v => Y (X v) where
  fd v := by rw [hY.fd, hX.fd]
  set v x := by rw [hX.set, hY.set]
  raise v k x := by rw [hX.raise, hY.raise]
  bar v n := by rw [hX.bar, hY.bar]
  dwelling v l := by rw [hY.dwelling, hX.dwelling]
  profiles v := by rw [hY.profiles, hX.profiles]

/-- A decision about a record that the hunt does not hold as its target, from its feeder and the rest of the state. -/
theorem State.recoveryDecision_beside {f : FeederId} {X : State → State} (hX : State.Beside f X) (s : State) (h : Nat)
    (ht : (s.fd f).hunt.target ≠ some h) : X (s.recoveryDecision f h) = (X s).recoveryDecision f h := by
  have hr : (X s).record f h = s.record f h := by unfold State.record; rw [hX.fd]
  have hp : (X s).policyOf f h = s.policyOf f h := by
    unfold State.policyOf State.profileOf; rw [hr, hX.profiles]
  have hm : ∀ (u : State) F, X (u.modFd f F) = (X u).modFd f F := by
    intro u F; unfold State.modFd; rw [hX.set, hX.fd]
  have hb : ∀ (u : State) l, X (u.barHeld l) = (X u).barHeld l := by
    intro u l; unfold State.barHeld; cases l with
    | none => rfl
    | some n => exact hX.bar u n
  unfold State.recoveryDecision
  rw [hp, hr]
  split
  · unfold State.ejectAndBar State.eject
    simp only [hr, hX.dwelling]
    rw [hb]
    split
    · rw [State.huntEjected_of_ne, State.huntEjected_of_ne, hX.raise, hm]
      · rw [State.fd_raise, State.fd_modFd, Feeder.hunt_ejectRecord, hX.fd]; exact ht
      · rw [State.fd_raise, State.fd_modFd, Feeder.hunt_ejectRecord]; exact ht
    · rfl
  · exact hm _ _

/-- An update of the other feeder. -/
theorem State.beside_modFd (f g : FeederId) (e : g ≠ f) (F : Feeder → Feeder)
    (hF : ∀ (fd : Feeder) n, F (fd.dropArrival n) = (F fd).dropArrival n) : State.Beside f (·.modFd g F) where
  fd v := State.fd_modFd_of_ne v g f F e.symm
  set v x := by cases f <;> cases g <;> first | exact absurd rfl e | rfl
  raise v k x := by
    unfold State.modFd; rw [State.fd_raise, State.raise_setFd]
  bar v n := by
    cases f <;> cases g <;> first | exact absurd rfl e | simp only [State.modFd, State.bar_eq, State.setFd, State.fd, hF]
  dwelling v l := by cases g <;> rfl
  profiles v := by cases g <;> rfl

theorem Feeder.dropArrival_eq (fd : Feeder) (n : Serial) :
    fd.dropArrival n = { fd with arrivals := fd.arrivals.filter fun a => decide (a.serial ≠ n) } := rfl

theorem State.beside_endSequence (f g : FeederId) (e : g ≠ f) : State.Beside f (·.modFd g Feeder.endSequence) := by
  refine State.beside_modFd f g e _ fun fd n => ?_
  by_cases hq : fd.seqCount = some 0 <;> cases hs : fd.state <;>
    simp [Feeder.endSequence, hq, hs, Feeder.endQuiet, Feeder.endPurge, Feeder.dropArrival]

theorem State.beside_sendDown (f g : FeederId) (e : g ≠ f) : State.Beside f (·.modFd g Feeder.sendDown) := by
  refine State.beside_modFd f g e _ fun fd n => (Feeder.sendDown_comm (·.dropArrival n) ?_ fd ?_).symm
  · intro _ _ _ _; rfl
  · intro _; rfl

theorem State.beside_tearDown (f g : FeederId) (e : g ≠ f) (k : Nat) : State.Beside f (·.tearDown g k) := by
  have hl : State.Beside f fun v : State => v.releaseLink (v.record g k).planLink := by
    have hd : ∀ (v : State) (i : Nat) (l : Option Nat),
        (v.setPlan i (v.planAt i).dropLink).dwellingOf l = v.dwellingOf l := by
      intro v i l
      unfold State.dwellingOf
      cases l with
      | none => rfl
      | some j =>
        simp only [Option.map_some]
        rw [show v.setPlan i (v.planAt i).dropLink = v.releaseLink (some i) from rfl, State.planAt_releaseLink]
        split
        · unfold PlanEntry.dropLink; cases (v.planAt j).kind <;> rfl
        · rfl
    have hr : ∀ (v : State) x, (v.setFd f x).record g k = v.record g k := by
      intro v x; unfold State.record; rw [State.fd_setFd_of_ne _ _ _ _ e]
    have hrr : ∀ (v : State) n x, (v.raise n x).record g k = v.record g k := fun v n x => State.record_raise v n x g k
    have hrb : ∀ (v : State) n, (v.bar n).record g k = v.record g k := by intro v n; cases g <;> rfl
    constructor
    · intro v; unfold State.releaseLink; cases (v.record g k).planLink <;> cases f <;> rfl
    · intro v x; simp only [hr]; unfold State.releaseLink; cases (v.record g k).planLink <;> cases f <;> rfl
    · intro v n x; simp only [hrr]; unfold State.releaseLink; cases (v.record g k).planLink with
      | none => rfl
      | some i =>
        simp only [State.planAt_raise]
        unfold State.raise State.setPlan
        simp only
        split
        · rfl
        · split <;> rfl
    · intro v n; simp only [hrb]; unfold State.releaseLink; cases (v.record g k).planLink <;> rfl
    · intro v l; unfold State.releaseLink; cases (v.record g k).planLink with
      | none => rfl
      | some i => exact hd v i l
    · intro v; unfold State.releaseLink; cases (v.record g k).planLink <;> rfl
  exact hl.comp (State.beside_modFd f g e
    (fun fd => { ((fd.removeMessages k).setRecord k freeRecord) with fullArmed := true }) (fun fd n => by
      unfold Feeder.setRecord; split <;> rfl))

/-- The downstream frames of the feeder may go before or behind the decision about a HUSHED record of it. -/
theorem State.recoveryDecision_sendDown (s : State) (f : FeederId) (h : Nat)
    (hs : (s.record f h).state = .hushed) (ht : (s.fd f).hunt.target ≠ some h) :
    (s.modFd f Feeder.sendDown).recoveryDecision f h = (s.recoveryDecision f h).modFd f Feeder.sendDown := by
  have htab : ∀ fd : Feeder, fd.sendDown.table = fd.table := by
    intro fd; unfold Feeder.sendDown; split <;> rfl
  have hhunt : ∀ fd : Feeder, fd.sendDown.hunt = fd.hunt := by
    intro fd; unfold Feeder.sendDown; split <;> rfl
  have hrec : ∀ k, (s.modFd f Feeder.sendDown).record f k = s.record f k := by
    intro k; unfold State.record; rw [State.fd_modFd]; unfold Feeder.record; rw [htab]
  have hdw : ∀ l, (s.modFd f Feeder.sendDown).dwellingOf l = s.dwellingOf l := by intro l; cases f <;> rfl
  have hp : (s.modFd f Feeder.sendDown).policyOf f h = s.policyOf f h := by
    unfold State.policyOf; rw [hrec]; cases f <;> rfl
  have hbar : ∀ (u : State) l, (u.modFd f Feeder.sendDown).barHeld l = (u.barHeld l).modFd f Feeder.sendDown := by
    intro u l
    unfold State.barHeld
    cases l with
    | none => rfl
    | some n =>
      have hd : ∀ fd : Feeder, fd.sendDown.dropArrival n = (fd.dropArrival n).sendDown := fun fd =>
        Feeder.sendDown_comm (·.dropArrival n) (fun _ _ _ _ => rfl) fd (fun _ => rfl)
      cases f <;> simp only [State.modFd, State.bar_eq, State.setFd, State.fd, hd]
  have hur : ∀ (fd : Feeder) k m (b : List DownFrame) (l : Option LineCycle) (n : Counters),
      Feeder.offerUrgent { fd with downBuffer := b, line := l, counters := n } k m =
        { (fd.offerUrgent k m) with downBuffer := b, line := l, counters := n } := by
    intro fd k m b l n
    have hx : ∀ (x : Feeder) k g, Feeder.modRecord { x with downBuffer := b, line := l, counters := n } k g =
        { (x.modRecord k g) with downBuffer := b, line := l, counters := n } := by
      intro x k g; unfold Feeder.modRecord Feeder.setRecord; split <;> rfl
    unfold Feeder.offerUrgent Feeder.queued
    simp only
    split
    · rfl
    · split
      · rfl
      · split
        · have := hx
          rename_i q _
          have h3 := hx { fd with ordinary := fd.ordinary.dropLast, urgent := fd.urgent ++ [{ handle := k, msg := m }] }
            q.handle (·.owe q.msg)
          simp only at h3
          rw [h3]; rfl
        · rw [hx]; rfl
  have hmr : ∀ (x : Feeder) k g (b : List DownFrame) (l : Option LineCycle) (n : Counters),
      Feeder.modRecord { x with downBuffer := b, line := l, counters := n } k g =
        { (x.modRecord k g) with downBuffer := b, line := l, counters := n } := by
    intro x k g b l n; unfold Feeder.modRecord Feeder.setRecord; split <;> rfl
  unfold State.recoveryDecision
  rw [hp, hrec]
  split
  · unfold State.ejectAndBar State.eject
    simp only [hrec, hdw]
    rw [if_pos (show (s.record f h).state.active = true by rw [hs]; rfl),
      if_pos (show (s.record f h).state.active = true by rw [hs]; rfl), ← hbar]
    rw [State.huntEjected_of_ne, State.huntEjected_of_ne]
    · congr 1
      unfold State.modFd
      simp only [State.fd_setFd, State.setFd_setFd, State.raise_setFd]
      congr 1
      refine Feeder.sendDown_comm (·.ejectRecord h .stray) ?_ _ ?_
      · intro fd b l n
        unfold Feeder.ejectRecord
        simp only
        rw [hmr fd h (·.ejectFor .stray) b l n]
        have hro : ∀ x : Feeder, Feeder.removeOrdinary { x with downBuffer := b, line := l, counters := n } h =
          { (x.removeOrdinary h) with downBuffer := b, line := l, counters := n } := fun _ => rfl
        rw [hro, hur]
        have : Feeder.record { fd with downBuffer := b, line := l, counters := n } h = fd.record h := rfl
        rw [this]
        split <;> rfl
      · intro k
        have hst : (((s.fd f).modRecord h (·.ejectFor .stray)).record k).state.carriesTraffic =
            ((s.fd f).record k).state.carriesTraffic := by
          rw [Feeder.modRecord_eq, Feeder.record_setRecord]
          split
          · rename_i e
            have hs' : ((s.fd f).record h).state = .hushed := hs
            rw [← e.1, hs']
            rfl
          · rfl
        show (((s.fd f).ejectRecord h .stray).record k).state.carriesTraffic = _
        unfold Feeder.ejectRecord
        simp only
        split
        · exact hst
        · rw [Feeder.Talked.state (Feeder.talked_offerUrgent _ h _)]; exact hst
    · rw [State.fd_raise, State.fd_modFd, Feeder.hunt_ejectRecord]; exact ht
    · rw [State.fd_raise, State.fd_modFd, Feeder.hunt_ejectRecord, State.fd_modFd, hhunt]; exact ht
  · rw [State.modFd_modFd, State.modFd_modFd]
    unfold State.modFd
    congr 1
    refine Feeder.sendDown_comm (fun fd => (fd.offerResume h).modRecord h fun r =>
      { r with recAttempts := incUpTo 255 r.recAttempts }) ?_ _ ?_
    · intro fd b l n
      unfold Feeder.offerResume
      simp only
      rw [hmr fd h (·.clearOwed .hush) b l n, hur _ h .resume b l n, hmr _ h _ b l n]
    · intro k
      have h0 : ∀ x : Feeder,
          ((x.modRecord h fun r => { r with recAttempts := incUpTo 255 r.recAttempts }).record k).state =
            (x.record k).state := by
        intro x; rw [Feeder.modRecord_eq, Feeder.record_setRecord]; split
        · rename_i e; rw [e.1]
        · rfl
      simp only [h0]
      unfold Feeder.offerResume
      rw [Feeder.Talked.state (Feeder.talked_offerUrgent _ h _), Feeder.modRecord_eq, Feeder.record_setRecord]
      split
      · rename_i e
        rw [e.1]
        unfold Record.clearOwed
        split
        · split <;> rfl
        · rfl
      · rfl

/-! ## The end of the last of the recovery countdowns -/

/-- `t` has the state of record `h` of feeder `f` and both hunts of `s`, and no arrival that `s` has not. -/
structure State.Same (f : FeederId) (h : Nat) (s t : State) : Prop where
  state : (t.record f h).state = (s.record f h).state
  hunt : ∀ g, (t.fd g).hunt = (s.fd g).hunt
  fewer : ∀ g a, a ∈ (t.fd g).arrivals → a ∈ (s.fd g).arrivals

theorem State.Same.refl (f : FeederId) (h : Nat) (s : State) : s.Same f h s := ⟨rfl, fun _ => rfl, fun _ _ x => x⟩

theorem State.Same.trans {f : FeederId} {h : Nat} {s t u : State} (a : s.Same f h t) (b : t.Same f h u) : s.Same f h u :=
  ⟨b.state.trans a.state, fun g => (b.hunt g).trans (a.hunt g), fun g x hx => a.fewer g x (b.fewer g x hx)⟩

theorem State.same_modFd (f : FeederId) (h : Nat) (s : State) (g : FeederId) (F : Feeder → Feeder)
    (hs : g = f → ((F (s.fd g)).record h).state = ((s.fd g).record h).state) (hh : (F (s.fd g)).hunt = (s.fd g).hunt)
    (ha : ∀ a, a ∈ (F (s.fd g)).arrivals → a ∈ (s.fd g).arrivals) : s.Same f h (s.modFd g F) := by
  constructor
  · unfold State.record
    by_cases e : g = f
    · subst e; rw [State.fd_modFd]; exact hs rfl
    · rw [State.fd_modFd_of_ne _ _ _ _ (Ne.symm e)]
  · intro k
    by_cases e : k = g
    · subst e; rw [State.fd_modFd]; exact hh
    · rw [State.fd_modFd_of_ne _ _ _ _ e]
  · intro k a
    by_cases e : k = g
    · subst e; rw [State.fd_modFd]; exact ha a
    · rw [State.fd_modFd_of_ne _ _ _ _ e]; exact fun x => x

theorem State.same_raise (f : FeederId) (h : Nat) (s : State) (k : NoticeKind) (x : NoticeFields) :
    s.Same f h (s.raise k x) :=
  ⟨by rw [State.record_raise], fun g => by rw [State.fd_raise], fun g a => by rw [State.fd_raise]; exact fun x => x⟩

theorem State.same_barHeld (f : FeederId) (h : Nat) (s : State) (l : Option Serial) : s.Same f h (s.barHeld l) := by
  refine ⟨by rw [State.record_barHeld], fun g => ?_, fun g a => ?_⟩
  · unfold State.barHeld
    cases l with
    | none => rfl
    | some n => cases g <;> rfl
  · unfold State.barHeld
    cases l with
    | none => exact fun x => x
    | some n => cases g <;> exact fun x => (List.mem_filter.1 x).1

theorem Feeder.state_setRecord_of_ne (fd : Feeder) (k h : Nat) (g : Record → Record) (e : k ≠ h) :
    ((fd.modRecord k g).record h).state = (fd.record h).state := by
  rw [Feeder.record_modRecord_of_ne _ _ _ _ (Ne.symm e)]

theorem Feeder.hunt_modRecord (fd : Feeder) (h : Nat) (g : Record → Record) : (fd.modRecord h g).hunt = fd.hunt := by
  unfold Feeder.modRecord Feeder.setRecord; split <;> rfl

theorem Feeder.arrivals_modRecord (fd : Feeder) (h : Nat) (g : Record → Record) :
    (fd.modRecord h g).arrivals = fd.arrivals := by
  unfold Feeder.modRecord Feeder.setRecord; split <;> rfl

theorem Feeder.arrivals_ejectRecord (fd : Feeder) (h : Nat) (reason : EjectReason) :
    (fd.ejectRecord h reason).arrivals = fd.arrivals := by
  unfold Feeder.ejectRecord
  simp only
  split
  · exact Feeder.arrivals_modRecord fd h _
  · rw [(Feeder.talked_offerUrgent _ h _).rest]
    exact Feeder.arrivals_modRecord fd h _

theorem State.same_tearDown (f : FeederId) (h : Nat) (s : State) (g : FeederId) (k : Nat) (e : ¬ (g = f ∧ k = h)) :
    s.Same f h (s.tearDown g k) := by
  have hl : ∀ l, s.Same f h (s.releaseLink l) := by
    intro l; unfold State.releaseLink; cases l with
    | none => exact State.Same.refl f h s
    | some i => exact ⟨by cases f <;> rfl, fun g => by cases g <;> rfl, fun g a => by cases g <;> exact fun x => x⟩
  unfold State.tearDown
  refine (hl _).trans (State.same_modFd f h _ g _ ?_ ?_ ?_)
  · intro hg
    have hk : h ≠ k := fun x => e ⟨hg, x.symm⟩
    generalize ((s.releaseLink (s.record g k).planLink).fd g) = fd
    show (((fd.removeMessages k).setRecord k freeRecord).record h).state = _
    rw [Feeder.record_setRecord_of_ne _ _ _ _ hk]; rfl
  · unfold Feeder.setRecord; split <;> rfl
  · intro a; unfold Feeder.setRecord; split <;> exact fun x => x

theorem State.same_expireArrival (f : FeederId) (h : Nat) (s : State) (g : FeederId) (a : Arrival) :
    s.Same f h (s.expireArrival g a) := by
  unfold State.expireArrival
  exact (State.same_modFd f h s g _ (fun _ => rfl) rfl fun _ x => (List.mem_filter.1 x).1).trans
    (State.same_raise f h _ _ _)

theorem State.same_recoveryDecision (f : FeederId) (h : Nat) (s : State) (g : FeederId) (k : Nat) (e : ¬ (g = f ∧ k = h))
    (ht : (s.fd g).hunt.target ≠ some k) : s.Same f h (s.recoveryDecision g k) := by
  have hk : g = f → k ≠ h := fun a b => e ⟨a, b⟩
  unfold State.recoveryDecision
  split
  · unfold State.ejectAndBar State.eject
    simp only
    refine State.Same.trans ?_ (State.same_barHeld f h _ _)
    split
    · rw [State.huntEjected_of_ne]
      · refine State.Same.trans (State.same_modFd f h s g _ ?_ (Feeder.hunt_ejectRecord _ _ _)
          (fun a => by rw [Feeder.arrivals_ejectRecord]; exact fun x => x)) (State.same_raise f h _ _ _)
        intro hg
        unfold Feeder.ejectRecord
        simp only
        have : ((((s.fd g).modRecord k (·.ejectFor .stray)).removeOrdinary k).record h).state =
            ((s.fd g).record h).state := Feeder.state_setRecord_of_ne _ _ _ _ (hk hg)
        split
        · exact this
        · rw [Feeder.Talked.state (Feeder.talked_offerUrgent _ k _)]; exact this
      · rw [State.fd_raise, State.fd_modFd, Feeder.hunt_ejectRecord]; exact ht
    · exact State.Same.refl f h s
  · refine State.same_modFd f h s g _ ?_ ?_ ?_
    · intro hg
      rw [Feeder.state_setRecord_of_ne _ _ _ _ (hk hg)]
      unfold Feeder.offerResume
      rw [Feeder.Talked.state (Feeder.talked_offerUrgent _ k _), Feeder.state_setRecord_of_ne _ _ _ _ (hk hg)]
    · rw [Feeder.hunt_modRecord]
      unfold Feeder.offerResume
      rw [(Feeder.talked_offerUrgent _ k _).rest]
      exact Feeder.hunt_modRecord _ _ _
    · intro a
      rw [Feeder.arrivals_modRecord]
      unfold Feeder.offerResume
      rw [(Feeder.talked_offerUrgent _ k _).rest]
      show a ∈ ((s.fd g).modRecord k _).arrivals → _
      rw [Feeder.arrivals_modRecord]
      exact fun x => x

/-- A fold of operations that pass the countdown by. -/
theorem State.foldl_withRecCd {α : Type} (f : FeederId) (h c : Nat) (op : State → α → State) (P : State → α → Prop)
    (hp : ∀ u v a, u.Same f h v → P u a → P v a)
    (h1 : ∀ u a, P u a → op (u.withRecCd f h c) a = (op u a).withRecCd f h c)
    (h2 : ∀ u a, P u a → u.Same f h (op u a)) (l : List α) (u : State) (hl : ∀ a ∈ l, P u a) :
    l.foldl op (u.withRecCd f h c) = (l.foldl op u).withRecCd f h c ∧ u.Same f h (l.foldl op u) := by
  induction l generalizing u with
  | nil => exact ⟨rfl, State.Same.refl f h u⟩
  | cons a l ih =>
    have ha := hl a (by simp)
    rw [List.foldl_cons, List.foldl_cons, h1 u a ha]
    obtain ⟨x, y⟩ := ih (op u a) (fun b hb => hp u _ b (h2 u a ha) (hl b (by simp [hb])))
    exact ⟨x, (h2 u a ha).trans y⟩

/-- The ends of a cycle start but the recoveries, then those of a list. -/
def State.endsThen (s : State) (g : FeederId) (opened : Bool) (l : List Nat) : State :=
  let s1 := s.modFd g (·.endSequence)
  let s2 := (s1.fd g).drained.foldl (fun t h => t.tearDown g h) s1
  let s3 := if opened then (s2.fd g).decided.foldl (fun t a => t.expireArrival g a) s2 else s2
  l.foldl (fun t h => t.recoveryDecision g h) s3

theorem State.expireAll_eq (s : State) (g : FeederId) (before : Feeder) :
    s.expireAll g before = s.endsThen g (decide (before.state = .opened)) before.recoveryDue := by
  unfold State.expireAll State.endsThen
  by_cases e : before.state = .opened <;> simp [e]

theorem State.endsThen_withRecCd (s : State) (f : FeederId) (h c : Nat) (g : FeederId) (opened : Bool) (l : List Nat)
    (hh : (s.record f h).state = .hushed)
    (hl : ∀ k ∈ l, ¬ (g = f ∧ k = h) ∧ (s.fd g).hunt.target ≠ some k) :
    (s.withRecCd f h c).endsThen g opened l = (s.endsThen g opened l).withRecCd f h c ∧
      s.Same f h (s.endsThen g opened l) := by
  have e1 : (s.withRecCd f h c).modFd g (·.endSequence) = (s.modFd g (·.endSequence)).withRecCd f h c :=
    State.modFd_withRecCd s f h c g _ fun _ fd => Feeder.endSequence_withRecCd fd h c
  have hseq : ∀ fd : Feeder, fd.endSequence.table = fd.table ∧ fd.endSequence.hunt = fd.hunt ∧
      fd.endSequence.arrivals = fd.arrivals := by
    intro fd; unfold Feeder.endSequence; split
    · split <;> exact ⟨rfl, rfl, rfl⟩
    · exact ⟨rfl, rfl, rfl⟩
  have d1 : s.Same f h (s.modFd g (·.endSequence)) := by
    refine State.same_modFd f h s g _ (fun _ => ?_) (hseq _).2.1 (fun a => by rw [(hseq _).2.2]; exact fun x => x)
    unfold Feeder.record; rw [(hseq _).1]
  unfold State.endsThen
  simp only
  rw [e1]
  generalize s.modFd g (·.endSequence) = s1 at d1
  have hdr : ((s1.withRecCd f h c).fd g).drained = (s1.fd g).drained := by
    rw [State.fd_withRecCd]; split
    · exact Feeder.drained_withRecCd _ _ _
    · rfl
  have hnd : ∀ k ∈ (s1.fd g).drained, ¬ (g = f ∧ k = h) := by
    rintro k hk ⟨rfl, rfl⟩
    have := ((Feeder.mem_handlesWhere _ _ _).1 hk).2.2
    simp only [Bool.and_eq_true, decide_eq_true_eq] at this
    have h3 := d1.state
    rw [hh] at h3
    rw [show (s1.record g k).state = _ from this.1] at h3
    cases h3
  rw [hdr]
  obtain ⟨e2, d2⟩ := State.foldl_withRecCd f h c (fun t k => t.tearDown g k) (fun _ k => ¬ (g = f ∧ k = h))
    (fun _ _ _ _ x => x) (fun u k x => State.tearDown_withRecCd u f h c g k x)
    (fun u k x => State.same_tearDown f h u g k x)
    (s1.fd g).drained s1 hnd
  rw [e2]
  have d2 := d1.trans d2
  generalize (s1.fd g).drained.foldl (fun t k => t.tearDown g k) s1 = s2 at d2
  have hde : ((s2.withRecCd f h c).fd g).decided = (s2.fd g).decided := by
    rw [State.fd_withRecCd]; split
    · unfold Feeder.modRecord Feeder.setRecord; split <;> rfl
    · rfl
  obtain ⟨e3, d3⟩ : (if opened then ((s2.withRecCd f h c).fd g).decided.foldl (fun t a => t.expireArrival g a)
        (s2.withRecCd f h c) else s2.withRecCd f h c) =
      (if opened then (s2.fd g).decided.foldl (fun t a => t.expireArrival g a) s2 else s2).withRecCd f h c ∧
      s2.Same f h (if opened then (s2.fd g).decided.foldl (fun t a => t.expireArrival g a) s2 else s2) := by
    cases opened
    · exact ⟨rfl, State.Same.refl f h _⟩
    · simp only [if_true, hde]
      exact State.foldl_withRecCd f h c (fun t a => t.expireArrival g a) (fun _ _ => True) (fun _ _ _ _ x => x)
        (fun u a _ => State.expireArrival_withRecCd u f h c g a) (fun u a _ => State.same_expireArrival f h u g a)
        _ s2 (fun _ _ => trivial)
  rw [e3]
  have d3 := d2.trans d3
  generalize (if opened then (s2.fd g).decided.foldl (fun t a => t.expireArrival g a) s2 else s2) = s3 at d3
  obtain ⟨e4, d4⟩ := State.foldl_withRecCd f h c (fun t k => t.recoveryDecision g k)
    (fun u k => ¬ (g = f ∧ k = h) ∧ (u.fd g).hunt.target ≠ some k)
    (fun u v k x y => ⟨y.1, by rw [x.hunt]; exact y.2⟩)
    (fun u k x => State.recoveryDecision_withRecCd u f h c g k x.1 x.2)
    (fun u k x => State.same_recoveryDecision f h u g k x.1 x.2) l s3
    (fun k hk => ⟨(hl k hk).1, by rw [d3.hunt]; exact (hl k hk).2⟩)
  exact ⟨e4, d3.trans d4⟩

/-! ## The whole cycle start -/

/-- What follows the decrements of a feeder that starts, with the recoveries of a list. -/
def State.afterThen (s : State) (g : FeederId) (fd : Feeder) (l : List Nat) : State :=
  if fd.starts then
    let s1 := s.endsThen g (decide (fd.state = .opened)) l
    if fd.state.serving then s1.modFd g Feeder.sendDown else s1
  else s

theorem State.afterStart_eq (s : State) (g : FeederId) (fd : Feeder) :
    s.afterStart g fd = s.afterThen g fd fd.recoveryDue := by
  unfold State.afterStart State.afterThen; rw [State.expireAll_eq]

theorem State.same_sendDown (f : FeederId) (h : Nat) (s : State) (g : FeederId) :
    s.Same f h (s.modFd g Feeder.sendDown) := by
  have ht : ∀ fd : Feeder, fd.sendDown.table = fd.table ∧ fd.sendDown.hunt = fd.hunt ∧
      fd.sendDown.arrivals = fd.arrivals := by
    intro fd; unfold Feeder.sendDown; split <;> exact ⟨rfl, rfl, rfl⟩
  refine State.same_modFd f h s g _ (fun _ => ?_) (ht _).2.1 (fun a => by rw [(ht _).2.2]; exact fun x => x)
  unfold Feeder.record; rw [(ht _).1]

theorem State.afterThen_withRecCd (s : State) (f : FeederId) (h c : Nat) (g : FeederId) (fd : Feeder) (l : List Nat)
    (hh : (s.record f h).state = .hushed)
    (hl : fd.starts = true → ∀ k ∈ l, ¬ (g = f ∧ k = h) ∧ (s.fd g).hunt.target ≠ some k) :
    (s.withRecCd f h c).afterThen g fd l = (s.afterThen g fd l).withRecCd f h c ∧ s.Same f h (s.afterThen g fd l) := by
  unfold State.afterThen
  split
  · rename_i hst
    obtain ⟨e, d⟩ := State.endsThen_withRecCd s f h c g (decide (fd.state = .opened)) l hh (hl hst)
    simp only [e]
    split
    · exact ⟨State.modFd_withRecCd _ f h c g _ fun _ fd => Feeder.sendDown_withRecCd fd h c,
        d.trans (State.same_sendDown f h _ g)⟩
    · exact ⟨rfl, d⟩
  · exact ⟨rfl, State.Same.refl f h s⟩

/-- A feeder's own start with one countdown that stands higher. -/
theorem Feeder.startCycle_withRecCd (fd : Feeder) (h c : Nat) (h1 : 1 ≤ h) (h2 : h ≤ 255)
    (hs : (fd.record h).state = .hushed) (hst : fd.starts = true) :
    (fd.modRecord h (Record.withRecCd (c + 1))).startCycle = fd.startCycle.modRecord h (Record.withRecCd c) := by
  have hst' : (fd.modRecord h (Record.withRecCd (c + 1))).starts = true := by
    unfold Feeder.starts Feeder.modRecord Feeder.setRecord at *; split <;> exact hst
  unfold Feeder.startCycle
  rw [if_pos hst, if_pos hst']
  have e1 : (fd.modRecord h (Record.withRecCd (c + 1))).send = fd.send.modRecord h (Record.withRecCd (c + 1)) := by
    refine Feeder.withRecCd_of_table h (c + 1) _ (fun fd t => ?_) fd
    cases hn : fd.nextHeader <;> simp [Feeder.send, hn]
  rw [e1]
  have e2 : fd.send.record h = fd.record h := by
    unfold Feeder.record Feeder.send; cases fd.nextHeader <;> rfl
  have hs2 : (fd.send.record h).state = .hushed := by rw [e2]; exact hs
  generalize fd.send = x at hs2
  have ht : ∀ r : Record, r.state = .hushed → (r.withRecCd (c + 1)).tick = r.tick.withRecCd c := by
    intro r hr; unfold Record.tick Record.withRecCd; simp [hr]
  have h0 : ¬ h = 0 := by omega
  have hlt : h - 1 < 255 := by omega
  have hrec : ∀ y : Feeder, y.record h = y.table[h - 1] := fun y => Feeder.record_eq_getElem y h h1 h2
  have key : (x.table.setIfInBounds (h - 1) ((x.table[h - 1]).withRecCd (c + 1))).map (·.tick) =
      (x.table.map (·.tick)).setIfInBounds (h - 1) (((x.table.map (·.tick))[h - 1]).withRecCd c) := by
    ext i hi
    simp only [Vector.getElem_map, Vector.getElem_setIfInBounds]
    split
    · rw [ht]; rw [← hrec]; exact hs2
    · rfl
  unfold Feeder.tick Feeder.modRecord Feeder.setRecord
  simp only [h0, if_false, hrec, key]

/-- No decision of an arrival stands at its end. -/
def State.NoEnd (s : State) (g : FeederId) : Prop := ∀ a ∈ (s.fd g).arrivals, ∀ r, a.status ≠ .held r 0

theorem State.endsThen_of_noEnd (s : State) (g : FeederId) (l : List Nat) (hn : s.NoEnd g) :
    s.endsThen g true l = s.endsThen g false l := by
  unfold State.endsThen
  simp only [if_true]
  have h0 : (s.modFd g (·.endSequence)).NoEnd g := by
    intro a
    rw [State.fd_modFd]
    have : ∀ fd : Feeder, fd.endSequence.arrivals = fd.arrivals := by
      intro fd; unfold Feeder.endSequence; split
      · split <;> rfl
      · rfl
    rw [this]; exact hn a
  have h1 : ∀ (l : List Nat) (u : State), u.NoEnd g → (l.foldl (fun t k => t.tearDown g k) u).NoEnd g := by
    intro l
    induction l with
    | nil => exact fun u x => x
    | cons k l ih =>
      intro u hu
      refine ih _ fun a ha => ?_
      have : ((u.tearDown g k).fd g).arrivals = (u.fd g).arrivals := by
        unfold State.tearDown
        rw [State.fd_modFd]
        have h2 : ∀ m, (u.releaseLink m).fd g = u.fd g := by
          intro m; unfold State.releaseLink; cases m <;> cases g <;> rfl
        rw [h2]
        unfold Feeder.setRecord; split <;> rfl
      rw [this] at ha
      exact hu a ha
  have h2 := h1 ((s.modFd g (·.endSequence)).fd g).drained _ h0
  generalize ((s.modFd g (·.endSequence)).fd g).drained.foldl (fun t k => t.tearDown g k)
    (s.modFd g (·.endSequence)) = u at h2
  have : (u.fd g).decided = [] := by
    unfold Feeder.decided
    rw [List.filter_eq_nil_iff]
    intro a ha
    have := h2 a ha
    cases hs : a.status with
    | held r n =>
      simp only [decide_eq_true_eq]
      intro e; subst e
      exact this r hs
    | _ => simp
  rw [this]; rfl

/-- What follows the decrements of the other feeder, without a decision or a recovery that ends there, may come before or
behind the decision about a record. -/
theorem State.afterThen_beside (f g : FeederId) (e : g ≠ f) (fd : Feeder) :
    State.Beside f fun v => if fd.starts then
      (if fd.state.serving then (v.endsThen g false []).modFd g Feeder.sendDown else v.endsThen g false []) else v := by
  have hid : State.Beside f fun v => v :=
    ⟨fun _ => rfl, fun _ _ => rfl, fun _ _ _ => rfl, fun _ _ => rfl, fun _ _ => rfl, fun _ => rfl⟩
  have hfold : ∀ l : List Nat, State.Beside f fun v => l.foldl (fun t k => t.tearDown g k) v := by
    intro l
    induction l with
    | nil => exact hid
    | cons k l ih => exact (State.beside_tearDown f g e k).comp ih
  have hd : ∀ (v : State) n, ((v.bar n).fd g).drained = (v.fd g).drained := by intro v n; cases g <;> rfl
  have hq : State.Beside f fun v => (v.fd g).drained.foldl (fun t k => t.tearDown g k) v := by
    constructor
    · exact fun v => (hfold _).fd v
    · intro v x; simp only [State.fd_setFd_of_ne _ _ _ _ e]; exact (hfold _).set v x
    · intro v k x; simp only [State.fd_raise]; exact (hfold _).raise v k x
    · intro v n; simp only [hd]; exact (hfold _).bar v n
    · exact fun v l => (hfold _).dwelling v l
    · exact fun v => (hfold _).profiles v
  have hends : State.Beside f fun v => v.endsThen g false [] := (State.beside_endSequence f g e).comp hq
  cases fd.starts
  · exact hid
  · cases fd.state.serving
    · exact hends
    · exact hends.comp (State.beside_sendDown f g e)

/-- The last recovery of a feeder's list is the decision about it behind what the rest leaves. -/
theorem State.afterThen_append (s : State) (f : FeederId) (h : Nat) (fd : Feeder) (l : List Nat)
    (hst : fd.starts = true) (hs : (s.record f h).state = .hushed)
    (hl : ∀ k ∈ l, k ≠ h ∧ (s.fd f).hunt.target ≠ some k) (ht : (s.fd f).hunt.target ≠ some h) :
    s.afterThen f fd (l ++ [h]) = (s.afterThen f fd l).recoveryDecision f h := by
  obtain ⟨-, d⟩ := State.endsThen_withRecCd s f h 0 f (decide (fd.state = .opened)) l hs
    fun k hk => ⟨fun x => (hl k hk).1 x.2, (hl k hk).2⟩
  have e : s.endsThen f (decide (fd.state = .opened)) (l ++ [h]) =
      (s.endsThen f (decide (fd.state = .opened)) l).recoveryDecision f h := by
    unfold State.endsThen; simp only [List.foldl_append, List.foldl_cons, List.foldl_nil]
  unfold State.afterThen
  rw [if_pos hst, if_pos hst]
  simp only [e]
  split
  · rw [State.recoveryDecision_sendDown]
    · rw [d.state]; exact hs
    · rw [d.hunt]; exact ht
  · rfl

/-- The decrements of a cycle start, before any end is taken. -/
def State.decremented (s : State) : State :=
  { s with
    cycle := s.cycle + 1#16
    award := none
    feederA := s.feederA.startCycle
    feederB := s.feederB.startCycle
    bars :=
      if barsCount s.feederA.state s.feederB.state s.feederA.starts s.feederB.starts then tickBars s.bars else s.bars }

theorem State.startCycle_eq (s : State) (hr : s.timingRuns = true) :
    s.startCycle = (s.decremented.afterThen .A s.feederA s.feederA.recoveryDue).afterThen .B s.feederB
      s.feederB.recoveryDue := by
  unfold State.startCycle
  rw [if_pos hr]
  simp only [State.afterStart_eq]
  rfl

theorem State.fd_decremented (s : State) (g : FeederId) : s.decremented.fd g = (s.fd g).startCycle := by cases g <;> rfl

theorem Feeder.startCycle_facts (fd : Feeder) (h : Nat) (h1 : 1 ≤ h) (h2 : h ≤ 255) :
    fd.startCycle.hunt = fd.hunt ∧ (fd.startCycle.record h).state = (fd.record h).state := by
  unfold Feeder.startCycle
  split
  · have e1 : fd.send.hunt = fd.hunt ∧ fd.send.table = fd.table := by
      unfold Feeder.send; cases fd.nextHeader <;> exact ⟨rfl, rfl⟩
    refine ⟨e1.1, ?_⟩
    rw [Feeder.record_eq_getElem _ h h1 h2, Feeder.record_eq_getElem _ h h1 h2]
    simp only [Feeder.tick, Vector.getElem_map, e1.2]
    rfl
  · exact ⟨rfl, rfl⟩

theorem State.decremented_withRecCd (s : State) (f : FeederId) (h c : Nat) (h1 : 1 ≤ h) (h2 : h ≤ 255)
    (hs : (s.record f h).state = .hushed) (hst : (s.fd f).starts = true) :
    (s.withRecCd f h (c + 1)).decremented = s.decremented.withRecCd f h c := by
  have hk : ∀ (fd : Feeder) (g : Record → Record), (fd.modRecord h g).state = fd.state ∧
      (fd.modRecord h g).starts = fd.starts := by
    intro fd g; unfold Feeder.starts Feeder.modRecord Feeder.setRecord; split <;> exact ⟨rfl, rfl⟩
  cases f
  · have := Feeder.startCycle_withRecCd s.feederA h c h1 h2 hs hst
    simp only [State.withRecCd, State.modRecord, State.modFd, State.setFd, State.fd, State.decremented, this, (hk _ _).1,
      (hk _ _).2]
  · have := Feeder.startCycle_withRecCd s.feederB h c h1 h2 hs hst
    simp only [State.withRecCd, State.modRecord, State.modFd, State.setFd, State.fd, State.decremented, this, (hk _ _).1,
      (hk _ _).2]

theorem Feeder.withRecCd_self (fd : Feeder) (h : Nat) : fd.modRecord h (Record.withRecCd (fd.record h).recCd) = fd := by
  rw [Feeder.modRecord_eq]
  exact Feeder.setRecord_record fd h

theorem State.withRecCd_self (s : State) (f : FeederId) (h c : Nat) (hc : (s.record f h).recCd = c) :
    s.withRecCd f h c = s := by
  subst hc
  have := Feeder.withRecCd_self (s.fd f) h
  cases f <;> simp only [State.withRecCd, State.modRecord, State.modFd, State.setFd, State.record, State.fd] at this ⊢ <;>
    rw [this]

/-- A cycle start that ends the recovery countdown of a record, the last of its start, leaves what the start leaves that
stops it one short, followed by the end of that countdown on its own (R167; log entries 4 and 5). -/
theorem State.startCycle_last (s : State) (f : FeederId) (h : Nat) (l : List Nat) (h1 : 1 ≤ h) (h2 : h ≤ 255)
    (hr : s.timingRuns = true) (hs : (s.record f h).state = .hushed) (hc : (s.record f h).recCd = 1)
    (hst : (s.fd f).starts = true) (hl : (s.fd f).recoveryDue = l ++ [h]) (hlne : ∀ k ∈ l, k ≠ h)
    (hlater : ((s.withRecCd f h 2).fd f).recoveryDue = l)
    (ht : ∀ g, (s.fd g).starts = true → ∀ k ∈ (s.fd g).recoveryDue, (s.fd g).hunt.target ≠ some k)
    (hB : f = .A → s.feederB.starts = true → s.feederB.recoveryDue = [] ∧ (s.feederB.state = .opened →
      ∀ a ∈ s.feederB.arrivals, ∀ r n, a.status = .held r n → 2 ≤ n)) :
    s.startCycle = ((s.withRecCd f h 2).startCycle).recoveryEnd f h := by
  have hr2 : (s.withRecCd f h 2).timingRuns = true := by
    have hk : ∀ (fd : Feeder) (g : Record → Record), (fd.modRecord h g).state = fd.state := by
      intro fd g; unfold Feeder.modRecord Feeder.setRecord; split <;> rfl
    unfold State.timingRuns at *
    cases f <;> simp only [State.withRecCd, State.modRecord, State.modFd, State.setFd, State.fd, hk] at * <;> exact hr
  have hd1 := State.decremented_withRecCd s f h 1 h1 h2 hs hst
  have hd0 : s.decremented.withRecCd f h 0 = s.decremented := by
    have := State.decremented_withRecCd s f h 0 h1 h2 hs hst
    rw [State.withRecCd_self s f h (0 + 1) hc] at this
    exact this.symm
  have hhunt : ∀ g, (s.decremented.fd g).hunt = (s.fd g).hunt := by
    intro g; rw [State.fd_decremented]; exact (Feeder.startCycle_facts _ h h1 h2).1
  have hhs : (s.decremented.record f h).state = .hushed := by
    show ((s.decremented.fd f).record h).state = _
    rw [State.fd_decremented, (Feeder.startCycle_facts _ h h1 h2).2]; exact hs
  have htf : (s.fd f).hunt.target ≠ some h := ht f hst h (by rw [hl]; simp)
  have htl : ∀ k ∈ l, k ≠ h ∧ (s.fd f).hunt.target ≠ some k :=
    fun k hk => ⟨hlne k hk, ht f hst k (by rw [hl]; simp [hk])⟩
  -- the end of one countdown on its own, behind what stops one short of it
  have hend : ∀ y : State, y.withRecCd f h 0 = y → (y.record f h).state = .hushed →
      (y.withRecCd f h 1).recoveryEnd f h = y.recoveryDecision f h := by
    intro y hy hys
    have hrec : (y.withRecCd f h 1).record f h = (y.record f h).withRecCd 1 := State.record_modRecord_self y f h _ h1 h2
    unfold State.recoveryEnd
    simp only [hrec]
    rw [if_pos ⟨hys, rfl⟩]
    congr 1
    have hm : ∀ fd : Feeder, (fd.modRecord h (Record.withRecCd 1)).modRecord h (fun r => { r with recCd := 0 }) =
        fd.modRecord h (Record.withRecCd 0) := by
      intro fd
      simp only [Feeder.modRecord_eq, Feeder.record_setRecord_self _ _ _ h1 h2, Feeder.setRecord_setRecord]
      rfl
    conv_rhs => rw [← hy]
    unfold State.withRecCd State.modRecord
    rw [State.modFd_modFd]
    simp only [hm]
  have hafter : ∀ (u : State) (g : FeederId) (x y : Feeder) m, x.starts = y.starts → x.state = y.state →
      u.afterThen g x m = u.afterThen g y m := by
    intro u g x y m e1 e2; unfold State.afterThen; rw [e1, e2]
  have hk : ∀ (fd : Feeder) (g : Record → Record), (fd.modRecord h g).starts = fd.starts ∧
      (fd.modRecord h g).state = fd.state := by
    intro fd g; unfold Feeder.starts Feeder.modRecord Feeder.setRecord; split <;> exact ⟨rfl, rfl⟩
  rw [State.startCycle_eq s hr, State.startCycle_eq _ hr2, hd1]
  cases f
  · have ea : (s.withRecCd .A h 2).feederB = s.feederB := rfl
    have hla : (s.withRecCd .A h 2).feederA.recoveryDue = l := hlater
    rw [ea, hla, hafter _ .A (s.withRecCd .A h 2).feederA s.feederA _ (hk _ _).1 (hk _ _).2,
      show s.feederA.recoveryDue = l ++ [h] from hl,
      State.afterThen_append s.decremented .A h s.feederA l hst hhs
        (fun k m => ⟨(htl k m).1, by rw [hhunt]; exact (htl k m).2⟩) (by rw [hhunt]; exact htf)]
    have hcond : s.feederA.starts = true → ∀ k ∈ l, ¬ (FeederId.A = .A ∧ k = h) ∧
        (s.decremented.fd .A).hunt.target ≠ some k :=
      fun _ k m => ⟨fun x => (htl k m).1 x.2, by rw [hhunt]; exact (htl k m).2⟩
    obtain ⟨w1, d⟩ := State.afterThen_withRecCd s.decremented .A h 1 .A s.feederA l hhs hcond
    obtain ⟨w0, -⟩ := State.afterThen_withRecCd s.decremented .A h 0 .A s.feederA l hhs hcond
    rw [hd0] at w0
    rw [w1]
    generalize s.decremented.afterThen .A s.feederA l = w at w0 d
    have hws : (w.record .A h).state = .hushed := by rw [d.state]; exact hhs
    have hwt : (w.fd .A).hunt.target ≠ some h := by rw [d.hunt, hhunt]; exact htf
    have hcB : s.feederB.starts = true → ∀ k ∈ s.feederB.recoveryDue, ¬ (FeederId.B = .A ∧ k = h) ∧
        (w.fd .B).hunt.target ≠ some k :=
      fun x k m => ⟨fun y => (by cases y.1), by rw [d.hunt, hhunt]; exact ht .B x k m⟩
    obtain ⟨v1, d2⟩ := State.afterThen_withRecCd w .A h 1 .B s.feederB s.feederB.recoveryDue hws hcB
    obtain ⟨v0, -⟩ := State.afterThen_withRecCd w .A h 0 .B s.feederB s.feederB.recoveryDue hws hcB
    rw [← w0] at v0
    rw [v1, hend _ v0.symm (by rw [d2.state]; exact hws)]
    -- the other feeder's part passes the decision
    by_cases hsb : s.feederB.starts = true
    · obtain ⟨hb1, hb2⟩ := hB rfl hsb
      rw [hb1]
      have hX : ∀ v : State, (s.feederB.state = .opened → v.NoEnd .B) → v.afterThen .B s.feederB [] =
          (if s.feederB.starts then
            (if s.feederB.state.serving then (v.endsThen .B false []).modFd .B Feeder.sendDown
             else v.endsThen .B false []) else v) := by
        intro v hv
        unfold State.afterThen
        by_cases ho : s.feederB.state = .opened
        · simp only [ho, decide_true, State.endsThen_of_noEnd v .B [] (hv ho)]
        · simp only [ho, decide_false]
      have hnw : s.feederB.state = .opened → w.NoEnd .B := by
        intro ho a ha r hr0
        have h3 := d.fewer .B a ha
        rw [State.fd_decremented] at h3
        have h4 : s.feederB.startCycle.arrivals = s.feederB.arrivals.map (·.tick) := by
          unfold Feeder.startCycle
          rw [if_pos hsb]
          have : s.feederB.send.state = s.feederB.state ∧ s.feederB.send.arrivals = s.feederB.arrivals := by
            unfold Feeder.send; cases s.feederB.nextHeader <;> exact ⟨rfl, rfl⟩
          unfold Feeder.tick
          simp only [this.1, this.2, ho, if_true]
        change a ∈ s.feederB.startCycle.arrivals at h3
        rw [h4] at h3
        obtain ⟨b, hb, rfl⟩ := List.mem_map.1 h3
        cases hbs : b.status with
        | held r' n =>
          have := hb2 ho b hb r' n hbs
          simp only [Arrival.tick, hbs] at hr0
          injection hr0 with _ h5
          omega
        | _ => simp [Arrival.tick, hbs] at hr0
      have hnd : s.feederB.state = .opened → (w.recoveryDecision .A h).NoEnd .B := by
        intro ho a ha
        have : a ∈ (w.fd .B).arrivals :=
          (State.same_recoveryDecision .A (h + 1) w .A h (by simp) hwt).fewer .B a ha
        exact hnw ho a this
      rw [hX _ hnd, hX _ hnw]
      exact State.recoveryDecision_beside (State.afterThen_beside .A .B (by decide) s.feederB) w h hwt
    · have : ∀ (u : State) m, u.afterThen .B s.feederB m = u := by
        intro u m; unfold State.afterThen; rw [if_neg hsb]
      rw [this, this]
  · have ea : (s.withRecCd .B h 2).feederA = s.feederA := rfl
    have hla : (s.withRecCd .B h 2).feederB.recoveryDue = l := hlater
    rw [ea, hla, hafter _ .B (s.withRecCd .B h 2).feederB s.feederB _ (hk _ _).1 (hk _ _).2,
      show s.feederB.recoveryDue = l ++ [h] from hl]
    have hcA : s.feederA.starts = true → ∀ k ∈ s.feederA.recoveryDue, ¬ (FeederId.A = .B ∧ k = h) ∧
        (s.decremented.fd .A).hunt.target ≠ some k :=
      fun x k m => ⟨fun y => (by cases y.1), by rw [hhunt]; exact ht .A x k m⟩
    obtain ⟨w1, d⟩ := State.afterThen_withRecCd s.decremented .B h 1 .A s.feederA _ hhs hcA
    obtain ⟨w0, -⟩ := State.afterThen_withRecCd s.decremented .B h 0 .A s.feederA _ hhs hcA
    rw [hd0] at w0
    rw [w1]
    generalize s.decremented.afterThen .A s.feederA s.feederA.recoveryDue = w at w0 d
    have hws : (w.record .B h).state = .hushed := by rw [d.state]; exact hhs
    rw [State.afterThen_append w .B h s.feederB l hst hws
      (fun k m => ⟨(htl k m).1, by rw [d.hunt, hhunt]; exact (htl k m).2⟩) (by rw [d.hunt, hhunt]; exact htf)]
    have hcB : s.feederB.starts = true → ∀ k ∈ l, ¬ (FeederId.B = .B ∧ k = h) ∧ (w.fd .B).hunt.target ≠ some k :=
      fun _ k m => ⟨fun x => (htl k m).1 x.2, by rw [d.hunt, hhunt]; exact (htl k m).2⟩
    obtain ⟨v1, d2⟩ := State.afterThen_withRecCd w .B h 1 .B s.feederB l hws hcB
    obtain ⟨v0, -⟩ := State.afterThen_withRecCd w .B h 0 .B s.feederB l hws hcB
    rw [← w0] at v0
    rw [v1, hend _ v0.symm (by rw [d2.state]; exact hws)]

end Sys2Proof.Machine
end

