-- ==== Sys2Proof/Laws/Taking.lean ====
section
/-! SUPPORT. What the taking of a valid frame does, said once: the opening, and the answer of a command row. -/
namespace Sys2Proof.Machine

open Sys2Proof

/-- The opening of a taking, field by field (R187, R188, R199, R206, R211). -/
theorem State.opened_eq (s : State) (t : Taking) :
    s.opened t =
      { s with
        pins := { s.pins with planGuard := t.guardPin }
        lastManager := some t.source
        receipt := (s.receipt + 1) % 16
        wdArmed := s.wdArmed || (!s.holdover && decide (s.wdMode = .afterFirst))
        wdCd := if s.holdover = true ∨ s.wdMode = .off then s.wdCd else s.wdPeriod } := by
  unfold State.opened State.openTaking State.restartWatchdog
  cases hh : s.holdover <;> cases hm : s.wdMode <;> simp_all

@[simp] theorem State.fd_opened (s : State) (t : Taking) (f : FeederId) : (s.opened t).fd f = s.fd f := by
  rw [State.opened_eq]; cases f <;> rfl

@[simp] theorem State.record_opened (s : State) (t : Taking) (f : FeederId) (h : Nat) :
    (s.opened t).record f h = s.record f h := by
  simp [State.record]

@[simp] theorem State.opened_replies (s : State) (t : Taking) : (s.opened t).replies = s.replies := by
  rw [State.opened_eq]

@[simp] theorem State.opened_receipt (s : State) (t : Taking) : (s.opened t).receipt = (s.receipt + 1) % 16 := by
  rw [State.opened_eq]

@[simp] theorem State.opened_holdover (s : State) (t : Taking) : (s.opened t).holdover = s.holdover := by
  rw [State.opened_eq]

@[simp] theorem State.opened_plan (s : State) (t : Taking) : (s.opened t).plan = s.plan := by
  rw [State.opened_eq]

@[simp] theorem State.opened_profiles (s : State) (t : Taking) : (s.opened t).profiles = s.profiles := by
  rw [State.opened_eq]

@[simp] theorem State.opened_bars (s : State) (t : Taking) : (s.opened t).bars = s.bars := by
  rw [State.opened_eq]

/-- The guard as a command finds it: the enable and the pin as sampled for the command (R82, R211). -/
theorem State.opened_guarded (s : State) (t : Taking) : (s.opened t).guarded = (s.guardEnable && t.guardPin) := by
  rw [State.opened_eq]; rfl

/-- A command row that may be taken, with the outcome of its body: the body's state with the reply added (R187, R188). -/
theorem State.takeCommand_answers {s u : State} {t : Taking} {code : Byte} {body : State → State × CmdResult}
    {r : CmdResult} (h : s.mayTake) (hh : s.holdover = false ∨ servedInHoldover code = true)
    (hb : body (s.opened t) = (u, r)) (hu : u.replies = s.replies) :
    whenRunning (·.takeCommand t code body) s = .next (s.answered u t code r) := by
  obtain ⟨h1, h2, h3⟩ := h
  have hc : s.canTake = true := by simp [State.canTake, h2, h3, Config.replyCapacity]
  have ho : outsideHoldover code body (s.openTaking t) = (u, r) := by
    change outsideHoldover code body (s.opened t) = (u, r)
    unfold outsideHoldover
    rcases hh with hh | hh <;> simp [hh, hb]
  have hr : (s.openTaking t).receipt = (s.receipt + 1) % 16 := s.opened_receipt t
  simp only [whenRunning, h1, if_true, State.takeCommand, hc, State.takeValid, ho, State.addReply, State.answered, hr,
    hu]

/-- A command that holdover refuses (R189, step 2). -/
theorem State.takeCommand_inHoldover {s : State} {t : Taking} {code : Byte} {body : State → State × CmdResult}
    (h : s.mayTake) (hh : s.holdover = true) (hs : servedInHoldover code = false) :
    whenRunning (·.takeCommand t code body) s = .next (s.answered (s.opened t) t code (.refused .holdover)) := by
  obtain ⟨h1, h2, h3⟩ := h
  have hc : s.canTake = true := by simp [State.canTake, h2, h3, Config.replyCapacity]
  have ho : outsideHoldover code body (s.openTaking t) = (s.opened t, .refused .holdover) := by
    change outsideHoldover code body (s.opened t) = _
    simp [outsideHoldover, hh, hs, Sys2Proof.Machine.refuse]
  have hr : (s.openTaking t).receipt = (s.receipt + 1) % 16 := s.opened_receipt t
  simp only [whenRunning, h1, if_true, State.takeCommand, hc, State.takeValid, ho, State.addReply, State.answered, hr,
    State.opened_replies]

/-- A command row that may not be taken waits (log entry 6). -/
theorem State.takeCommand_waits {s : State} {t : Taking} {code : Byte} {body : State → State × CmdResult}
    (h : 16 ≤ s.replies.length ∨ s.resetPending = true) :
    whenRunning (·.takeCommand t code body) s = .next s := by
  have hc : s.canTake = false := by
    rcases h with h | h
    · simp [State.canTake, Config.replyCapacity, Nat.not_lt.mpr h]
    · simp [State.canTake, h]
  simp [whenRunning, State.takeCommand, hc]

end Sys2Proof.Machine
end

