-- ==== Sys2Proof/Tests/Slice0.lean ====
section
/-! SUPPORT. Tests of the model: ill-formed commands refused, worked examples of the manual, and for every statement with
hypotheses a state and operands that meet them. -/
namespace Sys2Proof.Tests

open Sys2Proof Sys2Proof.Machine

set_option Elab.async false

/-! ## Ill-formed commands (WellFormed) -/

/-- A taking with PLAN_GUARD low. -/
def taking : Taking := { guardPin := false, reference := 0x1234#16, destination := 0xA1#48, source := 0xB2#48 }

theorem test_wf_reach_of_two_bytes : (Instr.feederSet taking 0#8 0x00#8 256#16 0#16).wellFormed = false := by decide

theorem test_wf_number_with_high_value : (Instr.feederSet taking 0#8 0x0B#8 16#16 1#16).wellFormed = false := by decide

theorem test_wf_unassigned_setting_with_value : (Instr.feederSet taking 0#8 0x0E#8 1#16 0#16).wellFormed = false := by
  decide

theorem test_wf_level_window : (Instr.feederSet taking 0#8 0x09#8 20#16 40#16).wellFormed = true := by decide

theorem test_wf_command_value : (Command.feederSet 0#8 0x05#8 256#16 0#16).wellFormed = false := by decide

theorem test_wf_handle_zero :
    (Instr.drainExpiry .A 0).wellFormed = false ∧ (Instr.recoveryExpiry .A 0).wellFormed = false ∧
      (Instr.reHushWatchEnd .A 0).wellFormed = false ∧ (Instr.checkCountdownExpiry .A 0).wellFormed = false ∧
      (Instr.dataCountdownExpiry .A 0).wellFormed = false ∧ (Instr.paceCountdownExpiry .A 0).wellFormed = false ∧
      (Instr.checkSpanEnd .A 5#16 0).wellFormed = false := by decide

theorem test_wf_handle_256 :
    (Instr.drainExpiry .B 256).wellFormed = false ∧ (Instr.checkSpanEnd .B 5#16 256).wellFormed = false ∧
      (Instr.checkSpanEnd .B 5#16 255).wellFormed = true := by decide

theorem test_wf_position :
    (Instr.cleanBurst .A 5#16 128000 0 (.check 1#8 0#8)).wellFormed = false ∧
      (Instr.garbledBurst .A 5#16 (some 128000)).wellFormed = false ∧
      (Instr.unassignedLight .A 5#16 (some 128000)).wellFormed = false ∧
      (Instr.cleanBurst .A 5#16 127999 63 (.check 1#8 0#8)).wellFormed = true := by decide

theorem test_wf_level : (Instr.cleanBurst .A 5#16 0 64 (.check 1#8 0#8)).wellFormed = false := by decide

theorem test_wf_burst_type :
    (Instr.cleanBurst .A 5#16 0 0 (.unknown 4#8)).wellFormed = false ∧
      (Instr.cleanBurst .A 5#16 0 0 (.unknown 5#8)).wellFormed = true := by decide

theorem test_wf_data_frames : (Instr.cleanBurst .A 5#16 0 0 (.data 1#8 (List.replicate 256 []))).wellFormed = false := by
  decide +kernel

/-! ## Worked examples of the manual -/

/-- R70: the four rows of its table. -/
theorem test_poll_orders :
    pollChildren .sequential 2 1 = [1, 0] ∧ pollChildren .interleaved 2 1 = [1, 0] ∧
      pollChildren .sequential 4 1 = [1, 2, 3, 0] ∧ pollChildren .interleaved 4 1 = [1, 0, 3, 2] ∧
      pollChildren .sequential 4 2 = [2, 3, 0, 1] ∧ pollChildren .interleaved 4 2 = [2, 3, 0, 1] ∧
      pollChildren .sequential 8 5 = [5, 6, 7, 0, 1, 2, 3, 4] ∧
      pollChildren .interleaved 8 5 = [5, 4, 7, 6, 1, 0, 3, 2] := by decide

/-- R70: the split of (5, 3) by 4 from start child 1, interleaved. -/
theorem test_split_children :
    (pollChildren .interleaved 4 1).map (Subgroup.child ⟨5, 3⟩ 2) = [⟨13, 5⟩, ⟨5, 5⟩, ⟨29, 5⟩, ⟨21, 5⟩] := by decide

/-- Section 5.2: the call-in in slot 13 on a MID feeder with M8 13,963. -/
theorem test_equalise_mid :
    neededDelay 4000 13 13963 = 19701 ∧ bandOf 4000 19701 = .inRange ∧ delayOf 4000 19701 = 2463 ∧
      residueOf 4000 19701 = -3 := by decide

/-- Section 5.2: the table of Q8 on a NEAR feeder. -/
theorem test_equalise_near :
    bandOf 2000 (-5) = .beyondReach ∧ (delayOf 2000 (-4), residueOf 2000 (-4)) = (0, 0) ∧
      (delayOf 2000 3, residueOf 2000 3) = (0, 3) ∧ (delayOf 2000 4, residueOf 2000 4) = (1, -4) ∧
      (delayOf 2000 15995, residueOf 2000 15995) = (1999, 3) ∧
      (delayOf 2000 15996, residueOf 2000 15996) = (2000, -4) ∧ bandOf 2000 16004 = .inRange ∧
      (delayOf 2000 16004, residueOf 2000 16004) = (2000, 0) ∧ bandOf 2000 16005 = .early := by decide

/-- Section 3.1: the window of a MID feeder with SPREAD 32 spans 4,576 LU, and with GUARD 16 the first grant stands at
4,592. -/
theorem test_window_geometry :
    callInSpan Reach.mid.span Spread.s32.slots = 4576 ∧
      firstOffset 16 (some ⟨.callIn ⟨0, 0⟩ .s32, 4000, 4576⟩) = 4592 := by decide

/-- R118: the four corrections of its first step. -/
theorem test_drift_rounding :
    correctionOf 20 = 3 ∧ correctionOf (-20) = -3 ∧ correctionOf 19 = 2 ∧ correctionOf 12 = 2 := by decide

/-- R61: the table of the award. -/
theorem test_award_table :
    awardWinner .A false false = none ∧ awardWinner .B true false = some .A ∧ awardWinner .B false true = some .B ∧
      awardWinner .B true true = some .A ∧ awardWinner .A true true = some .B := by decide

/-- Section 6.2: the walk from setting 3 to 5 with LEVEL_WINDOW 20..40, and its end at the edge at setting 7. -/
theorem test_walk_steps :
    walkStep 20 40 47 3 0 = .stepUp ∧ walkStep 20 40 43 4 6 = .wait ∧ walkStep 20 40 43 4 0 = .stepUp ∧
      walkStep 20 40 39 5 6 = .endInside ∧ walkStep 20 30 31 7 0 = .endAtEdge ∧ walkStep 20 44 43 4 3 = .endInside := by
  decide

/-- Section 6.3: code 43 is well outside LEVEL_WINDOW 20..40, and 42 is not. -/
theorem test_level_slack : wellOutside 20 40 43 = true ∧ wellOutside 20 40 42 = false := by decide

/-- Section 8.5: the watch of MATCH with mask 06h and compare 04h, and of EVENT with the same mask. -/
theorem test_condition_watch :
    Watch.raises ⟨.matching, 0x06#8, 0x04#8⟩ 0x00#8 0x04#8 = true ∧
      Watch.raises ⟨.matching, 0x06#8, 0x04#8⟩ 0x04#8 0x0C#8 = false ∧
      Watch.raises ⟨.event, 0x06#8, 0x04#8⟩ 0x00#8 0x04#8 = true ∧
      Watch.raises ⟨.event, 0x06#8, 0x04#8⟩ 0x04#8 0x0C#8 = false := by decide

/-- Section 1.5: in a full list, the oldest of the entries with the smallest countdown goes, and the new one joins as the
youngest; a serial on the list keeps its place. -/
theorem test_full_bar_list :
    let entries := (List.range 32).map fun i => BarEntry.mk (BitVec.ofNat 64 i) (if i = 3 ∨ i = 18 then 12 else 9870)
    addBar entries 8#64 16384 = entries.map (fun b => if b.serial = 8#64 then { b with countdown := 16384 } else b) ∧
      addBar entries 99#64 16384 = entries.eraseIdx 3 ++ [BarEntry.mk 99#64 16384] := by decide

/-- The check of the nine digits, known for the polynomial and the reflection of R206. -/
theorem test_cyclic_check :
    cyclicCheck [0x31#8, 0x32#8, 0x33#8, 0x34#8, 0x35#8, 0x36#8, 0x37#8, 0x38#8, 0x39#8] = 0xCBF43926#32 := by
  decide +kernel

/-- R209, section 11.4: the marker, and behind the body the header check with its most significant byte first. The two
checks were computed outside the model, with zlib's crc32 over the bytes between marker and check. -/
theorem test_header_bytes :
    (bareHeader 0#16 .quiet 16).bytes =
        [0x5C#8, 0x3A#8, 0x96#8, 0xE1#8] ++ List.replicate 12 0#8 ++ [0x7B#8, 0xD5#8, 0xC6#8, 0x6F#8] ∧
      (bareHeader 0x02BD#16 .purge 16).bytes =
        [0x5C#8, 0x3A#8, 0x96#8, 0xE1#8, 0x02#8, 0xBD#8] ++ List.replicate 8 0#8 ++ [0#8, 1#8, 0x08#8, 0#8] ++
          List.replicate 10 0#8 ++ [0x32#8, 0xF5#8, 0x19#8, 0x81#8] := by decide +kernel

/-! ## States -/

/-- The state a command leaves. -/
def after (i : Instr) (s : State) : State :=
  match exec i s with
  | .next t => t
  | _ => s

/-- Feeder A as given, feeder B CLOSED, in cycle 1,200. -/
def base (fd : Feeder) : State := { State.reset with feederA := fd, cycle := 1200#16 }

/-- An OPEN feeder with nothing on it. -/
def openFd : Feeder := { resetFeeder with state := .opened }

/-- A record in a state, with a serial. -/
def rec (st : RecState) : Record := { freeRecord with state := st, serial := some 0x3D0200000000A51E#64 }

/-- An OPEN feeder with one record, at handle 7. -/
def withRec (r : Record) : Feeder := openFd.setRecord 7 r

/-- Every record of an empty table is FREE. -/
theorem test_empty_table {fd : Feeder} (e : fd.table = resetFeeder.table) (h : Nat) : fd.record h = freeRecord := by
  unfold Feeder.record
  rw [e]
  split
  · rfl
  · by_cases hb : h - 1 < 255 <;> simp [resetFeeder, hb]

/-- Every other record of a feeder with one record is FREE. -/
theorem test_one_record (r : Record) (k : Nat) (hk : k ≠ 7) : (withRec r).record k = freeRecord := by
  unfold withRec
  rw [Feeder.record_setRecord_of_ne _ _ _ _ hk]
  exact test_empty_table rfl k

/-- The records of a feeder with one record, and of one with two. -/
theorem test_withRec_record (r : Record) (k : Nat) : (withRec r).record k = if k = 7 then r else freeRecord := by
  split
  · rename_i e
    rw [e]
    exact Feeder.record_setRecord_self openFd 7 r (by decide) (by decide)
  · exact test_one_record r k ‹_›

theorem test_two_records (r q : Record) (k : Nat) :
    ((withRec r).setRecord 9 q).record k = if k = 9 then q else if k = 7 then r else freeRecord := by
  split
  · rename_i e
    rw [e]
    exact Feeder.record_setRecord_self (withRec r) 9 q (by decide) (by decide)
  · rw [Feeder.record_setRecord_of_ne _ _ _ _ ‹_›]
    exact test_withRec_record r k

/-- Section 1.4: TERMINAL_EJECT with bar of an IN_SERVICE record with a STEP of handle 12 and its own DELAY queued. -/
def ejectExample : State :=
  base { withRec (rec .inService) with
    ordinary := [{ handle := 12, msg := .step true }, { handle := 7, msg := .delay 2461 none }] }

theorem test_eject_example :
    let t := after (.terminalEject taking 0#8 7#8 1#8) ejectExample
    t.feederA.urgent = [{ handle := 7, msg := .eject .ordered }] ∧
      t.feederA.ordinary = [{ handle := 12, msg := .step true }] ∧ (t.record .A 7).state = .ejected ∧
      (t.record .A 7).drain = none ∧ t.bars = [{ serial := 0x3D0200000000A51E#64, countdown := 16384 }] := by decide +kernel

/-- Section 2.4: FEEDER_OPEN starts QUIETING with sequence count 64, in the next cycle of timing that stood still. -/
theorem test_feeder_open :
    let t := after (.feederOpen taking 1#8) State.reset
    t.feederB.state = .quieting ∧ t.feederB.seqCount = some 64 ∧ t.cycle = 1#16 := by decide +kernel

/-- Section 10.6: the receipt count goes from 15 to 0. -/
theorem test_receipt_wraps :
    let s : State := { State.reset with receipt := 15 }
    (after (.statusRead taking 0#8) s).receipt = 0 ∧
      (after (.statusRead taking 0#8) s).replies.map (·.receipt) = [0] := by decide +kernel

/-- R192: a serial that no live record holds is not found. -/
theorem test_terminal_find_missing :
    (after (.terminalFind taking 5#64) State.reset).replies.map (·.result) = [.refused .notFound] := by decide +kernel

/-- R32, R34: GUARD 100 is clamped to 64. -/
theorem test_guard_clamped :
    let t := after (.feederSet taking 0#8 0x0B#8 100#16 0#16) State.reset
    t.feederA.settings.guard = 64 ∧ t.replies.map (·.result) = [.clamped] := by decide +kernel


/-! ## What the statements suppose, met -/

/-- A state's feeder A, opened over its record, and so on: the part may take a frame. -/
theorem test_base_may_write (fd : Feeder) : (base fd).mayWrite :=
  ⟨⟨rfl, Nat.zero_lt_succ 15, rfl⟩, rfl⟩

theorem test_reset_may_write : State.reset.mayWrite := ⟨⟨rfl, by decide, rfl⟩, rfl⟩

/-- The part in holdover, with the watchdog in a mode. -/
def inHoldover (m : WatchdogMode) : State := { State.reset with holdover := true, wdMode := m }

theorem test_holdover_may_take (m : WatchdogMode) : (inHoldover m).mayTake ∧ (inHoldover m).holdover = true :=
  ⟨⟨rfl, by cases m <;> decide, rfl⟩, rfl⟩

/-- A taking with PLAN_GUARD high. -/
def guardedTaking : Taking := { taking with guardPin := true }

/-- A reply with an outcome DONE. -/
def reply (code : Byte) : Reply :=
  { destination := 1#48, source := 2#48, reference := 3#16, code := code, receipt := 1, result := .done [] }

theorem test_meets_StepTakesFrontCommand :
    ({ State.reset with pending := [.cycleStart] } : State).pending = .cycleStart :: [] ∧ State.reset.pending = [] :=
  ⟨rfl, rfl⟩

theorem test_meets_StoppedPartResetsAndPowerLoss :
    (∀ p : Phase, p = .held ∨ p = .unpowered → ({ State.reset with phase := p } : State).phase ≠ .running) ∧
      Instr.cycleStart ≠ .powerOnReset ∧ Instr.cycleStart ≠ .pinReset ∧ (∀ x, Instr.cycleStart ≠ .resetRelease x) ∧
      Instr.cycleStart ≠ .powerLoss := by
  refine ⟨?_, by decide, by decide, fun x => by simp, by decide⟩
  rintro p (rfl | rfl) <;> decide

theorem test_meets_PartResetAfterItsReply :
    let s : State := { State.reset with transmitting := some (.reply (reply 0x02#8)) }
    s.phase = .running ∧ s.transmitting = some (.reply (reply 0x02#8)) ∧ (reply 0x02#8).code = 0x02#8 := ⟨rfl, rfl, rfl⟩

/-- A frame from the trunk for a target, 20 bytes long. -/
def trunk (target : Byte) (handle : Nat) : Bytes := trunkFrame 1#48 2#48 0xA7C4#16 target handle []

theorem test_meets_TrunkFrameSort :
    State.reset.phase = .running ∧ (List.replicate 15 (0#8 : Byte)).length < 16 ∧
      frameTagType (List.replicate 16 0#8) ≠ State.reset.tagType ∧ frameTarget (trunk 0xC0#8 0) = 3 ∧
      (16 ≤ (trunk 0x00#8 0).length ∧ frameTagType (trunk 0x00#8 0) = State.reset.tagType ∧
        frameTarget (trunk 0x00#8 0) = 0) ∧
      (frameTarget (trunk 0x40#8 7) = 1 ∧ frameTarget (trunk 0x80#8 255) = 2 ∧ frameHandle (trunk 0x40#8 7) = 7 ∧
        checkGood 16 (trunk 0x40#8 7) = true ∧ ((withRec (rec .inService)).record 7).state = .inService ∧
        (withRec (rec .inService)).state = .opened ∧ (withRec (rec .inService)).downBuffer.length < 64) ∧
      resetFeeder.state = .closed := by decide +kernel

theorem test_meets_TransmitterArbitration :
    State.reset.phase = .running ∧ (∀ r, State.reset.transmitting = some (.reply r) → r.code ≠ 0x02#8) ∧
      (reply 0x01#8).code ≠ 0x02#8 :=
  ⟨rfl, fun _ h => absurd h (by simp [State.reset, State.heldReset]), by decide⟩

theorem test_meets_ArgumentsReadBack :
    (Command.feederOpen 0#8).wellFormed = true ∧ 0 < (argBytes (.feederOpen 0#8)).length ∧
      (Command.feederSet 0#8 0x09#8 0xFFFF#16 0xFFFF#16).wellFormed = true ∧
      5 < (argBytes (.feederSet 0#8 0x09#8 0xFFFF#16 0xFFFF#16)).length := by decide

theorem test_meets_FrameTakingRunsItsCommand :
    let frame := commandFrame taking 0xA7C4#16 (.barRemove 5#64) [0xFF#8]
    let s : State := { State.reset with mgmtBuffer := [frame] }
    s.mayTake ∧ (Command.barRemove 5#64).wellFormed = true ∧ s.mgmtBuffer = frame :: [] :=
  ⟨⟨rfl, by decide, rfl⟩, rfl, rfl⟩

/-- A management frame with a code and arguments. -/
def mgmt (code : Byte) (args : Bytes) : Bytes := trunkFrame 1#48 2#48 0xA7C4#16 0#8 0 ([0x12#8, 0x34#8, code] ++ args)

theorem test_meets_FrameTakingWithoutCommand :
    State.reset.phase = .running ∧ State.reset.mgmtBuffer = [] ∧ 16 ≤ (List.replicate 16 (reply 0x01#8)).length ∧
      ({ State.reset with resetPending := true } : State).resetPending = true ∧
      checkGood 16 (List.replicate 23 0#8) = false ∧ (trunk 0#8 0).length < 23 ∧ checkGood 16 (trunk 0#8 0) = true ∧
      (mgmt 0x07#8 []).length = 23 ∧ checkGood 16 (mgmt 0x07#8 []) = true ∧ assignedCode 0x07#8 = false ∧
      assignedCode 0x06#8 = true ∧ servedInHoldover 0x06#8 = false ∧ servedInHoldover 0x03#8 = true ∧
      checkGood 16 (mgmt 0x03#8 []) = true ∧
      readCommand 0x03#8 (((mgmt 0x03#8 []).take ((mgmt 0x03#8 []).length - 4)).drop 19) = none := by decide +kernel

theorem test_meets_EveryCommandIsAnsweredOnce :
    State.reset.phase = .running ∧ State.reset.mayTake ∧
      16 ≤ ({ State.reset with replies := List.replicate 16 (reply 0x01#8) } : State).replies.length ∧
      ({ State.reset with resetPending := true } : State).resetPending = true :=
  ⟨rfl, test_reset_may_write.1, by decide, rfl⟩

theorem test_meets_RefusedCommandsChangeNothing :
    ∃ (u : State) (r : Reply), State.reset.mayTake ∧ exec (rowOf taking (.profileRead 8#8)) State.reset = .next u ∧
      u.replies = State.reset.replies ++ [r] ∧ r.result = .refused .badArg :=
  ⟨State.reset.answered (State.reset.opened taking) taking 0x31#8 (.refused .badArg), _, test_reset_may_write.1, rfl,
    rfl, rfl⟩

theorem test_meets_HoldoverAndGuardRefuse :
    (inHoldover .off).mayTake ∧ (inHoldover .off).holdover = true ∧
      servedInHoldover (commandCode (.feederClose 0#8)) = false ∧
      (let s : State := { State.reset with guardEnable := true }
       s.mayWrite ∧ s.guardActs guardedTaking) ∧
      commandCode .freezeLock ∈ ([0x20#8, 0x22#8, 0x23#8, 0x24#8, 0x25#8, 0x30#8, 0x32#8, 0x33#8, 0x34#8] : Bytes) :=
  ⟨(test_holdover_may_take .off).1, rfl, by decide, ⟨⟨⟨rfl, by decide, rfl⟩, rfl⟩, rfl, rfl⟩, by decide⟩

/-- An entry in use for a serial. -/
def exactEntry (serial : Serial) : PlanEntry := { unusedEntry with inUse := true, serial := serial }

theorem test_meets_ReadCommandsReport :
    State.reset.mayTake ∧ ((State.reset.setPlan 511 (exactEntry 5#64)).planAt (0x1FF#16).toNat).inUse = true ∧
      (State.reset.planAt (0#16).toNat).inUse = false ∧ 512 ≤ (512#16).toNat ∧ (7#8).toNat < 8 ∧ 8 ≤ (8#8).toNat ∧
      feederArg 0#8 = some .A ∧ feederArg 1#8 = some .B ∧ feederArg 2#8 = none ∧ (255#8).toNat ≠ 0 ∧
      (State.reset.record .A (255#8).toNat).state = .free ∧
      ((base (withRec (rec .inService))).record .A 7).serial = some 0x3D0200000000A51E#64 ∧
      ((base (withRec (rec .inService))).record .A 7).state ≠ .free :=
  ⟨test_reset_may_write.1, by decide +kernel⟩

theorem test_nothing_to_find (f : FeederId) (h : Nat) (serial : Serial) :
    ¬ (1 ≤ h ∧ h ≤ 255 ∧ (State.reset.record f h).state ≠ .free ∧ (State.reset.record f h).serial = some serial) := by
  rw [show State.reset.record f h = freeRecord by cases f <;> exact test_empty_table rfl h]
  exact fun hh => hh.2.2.1 rfl

/-- One record holds its serial, and no other record of either feeder is live. -/
theorem test_one_to_find :
    (let r := (base (withRec (rec .inService))).record .A 7
     1 ≤ 7 ∧ 7 ≤ 255 ∧ r.state ≠ .free ∧ r.serial = some 0x3D0200000000A51E#64) ∧
      ∀ g k, ((base (withRec (rec .inService))).record g k).state ≠ .free → g = .A ∧ k = 7 := by
  refine ⟨by decide +kernel, ?_⟩
  intro g k hk
  cases g
  · refine ⟨rfl, ?_⟩
    by_contra e
    exact hk (congrArg Record.state (test_one_record _ k e))
  · exact absurd (congrArg Record.state (show (base (withRec (rec .inService))).record .B k = freeRecord from
      test_empty_table rfl k)) hk

theorem test_meets_StatusReadsAndClears :
    State.reset.mayTake ∧ 2 ≤ (2#8).toNat ∧ feederArg 0#8 = some .A ∧ feederArg 1#8 = some .B :=
  ⟨test_reset_may_write.1, by decide⟩

theorem test_meets_WatchdogSetAndHoldoverExit :
    State.reset.mayTake ∧ (16384#16).toNat ∈ [2048, 4096, 8192, 16384] ∧ (2049#16).toNat ∉ [2048, 4096, 8192, 16384] ∧
      3 ≤ (3#8).toNat ∧ (inHoldover .afterFirst).mayTake ∧ (inHoldover .afterFirst).wdMode ≠ .off ∧
      (inHoldover .off).wdMode = .off ∧ State.reset.holdover = false ∧ (0xFFFFF#32).toNat < 2 ^ 20 ∧
      2 ^ 20 ≤ (0x100000#32).toNat :=
  ⟨test_reset_may_write.1, by decide, by decide, by decide, (test_holdover_may_take _).1, by decide, rfl, rfl,
    by decide, by decide⟩

theorem test_meets_FeederSetWritesSettings :
    State.reset.mayWrite ∧ feederArg 0#8 = some .A ∧ (State.reset.fd .A).state ≠ .quieting ∧
      (State.reset.fd .A).state ≠ .purging ∧ (State.reset.fd .A).state = .closed ∧
      min 63 (64#16).toNat ≤ min 63 (63#16).toNat :=
  ⟨test_reset_may_write, by decide⟩

/-- A feeder in a state of its open sequence. -/
def sequencing (st : FeederState) (n : Nat) : Feeder := { resetFeeder with state := st, seqCount := some n }

theorem test_meets_FeederCommandRefusals :
    (base openFd).mayWrite ∧ 2 ≤ (2#8).toNat ∧ 0x0E ≤ (0x0E#8).toNat ∧ (0x0D#8).toNat < 0x0E ∧ 4 ≤ (4#16).toNat ∧
      (20#16).toNat ∉ [8, 16, 32, 64] ∧ (3#16).toNat ∉ [2, 4, 8] ∧ 2 ≤ (2#16).toNat ∧ feederArg 0#8 = some .A ∧
      (base (sequencing .quieting 64)).feederA.state = .quieting ∧
      (base (sequencing .purging 8)).feederA.state = .purging ∧ (base openFd).feederA.state = .opened ∧
      min 63 (20#16).toNat < min 63 (21#16).toNat :=
  ⟨test_base_may_write openFd, by decide⟩

theorem test_meets_FeederOpenPauseResume :
    State.reset.mayWrite ∧ feederArg 0#8 = some .A ∧ feederArg 1#8 = some .B ∧
      ((State.reset.fd .A).state = .closed ∧ (State.reset.fd (FeederId.other .A)).state = .closed) ∧
      (base openFd).mayWrite ∧ (((base openFd).fd .B).state = .closed ∧ ((base openFd).fd (FeederId.other .B)).state ≠ .closed) ∧
      ((base openFd).fd .A).state = .opened ∧
      ((base { openFd with state := .paused }).fd .A).state = .paused ∧
      ((base (sequencing .quieting 1)).fd .A).state = .quieting :=
  ⟨test_reset_may_write, rfl, rfl, ⟨rfl, rfl⟩, test_base_may_write _, ⟨rfl, by decide⟩, rfl, rfl, rfl⟩

theorem test_meets_FeederCloseEmptiesFeeder :
    (base openFd).mayWrite ∧ feederArg 0#8 = some .A ∧ ((base openFd).fd .A).state ≠ .closed ∧
      feederArg 1#8 = some .B ∧ ((base openFd).fd .B).state = .closed :=
  ⟨test_base_may_write _, rfl, by decide, rfl, rfl⟩

theorem test_meets_WatchSetAndStrayClear :
    State.reset.mayWrite ∧ feederArg 0#8 = some .A ∧ 2 ≤ (2#8).toNat ∧ (State.reset.fd .A).stray = false ∧
      (base { openFd with stray := true }).mayWrite ∧ ((base { openFd with stray := true }).fd .A).stray = true :=
  ⟨test_reset_may_write, rfl, by decide, rfl, test_base_may_write _, rfl⟩

/-- PLAN_WRITE's arguments for an index and a kind. -/
def planArgs (index : Word16) (kind flags : Byte) : PlanArgs :=
  { index := index, kind := kind, serial := 5#64, mask := 0xFF#64, dwelling := 1#32, expected := 2#8, profile := 7#8
    flags := flags, limit := 255#16 }

theorem test_not_guarded (s : State) : ¬ s.guardActs taking := fun h => by cases h.2

theorem test_meets_PlanWriteAndErase :
    State.reset.mayWrite ∧ ¬ State.reset.guardActs taking ∧
      (planArgs 511#16 1#8 7#8).index.toNat < 512 ∧ planKindArg (planArgs 511#16 1#8 7#8).kind = some .pattern ∧
      planKindArg (planArgs 0#16 0#8 5#8).kind = some .exact ∧ expectedArg (planArgs 0#16 0#8 5#8).expected = some .any ∧
      (planArgs 0#16 0#8 5#8).profile.toNat = (7 : Fin 8).val ∧ (planArgs 0#16 0#8 5#8).flags.getLsbD 1 = false ∧
      State.reset.freeze.holds 511 = false ∧ (State.reset.planAt 511).inUse = false ∧
      (∀ j, j < 512 → (State.reset.planAt j).inUse = false) := by
  refine ⟨test_reset_may_write, test_not_guarded _, by decide, rfl, rfl, rfl, rfl, by decide, rfl, by decide +kernel, ?_⟩
  intro j hj
  simp [State.planAt, State.reset, State.heldReset, hj, unusedEntry]

/-- A claimed entry at index 3, a counting pattern at index 4, everything frozen as given. -/
def plannedState (freeze : FreezeRange) : State :=
  ({ State.reset with freeze := freeze }.setPlan 3 { exactEntry 5#64 with claim := some (.A, 7) }).setPlan 4
    { exactEntry 5#64 with kind := .pattern, mask := some 0xFF#64, limit := some 2, count := some 2 }

theorem test_meets_PlanRefusalsAndProtection :
    (plannedState .none).mayWrite ∧ ¬ (plannedState .none).guardActs taking ∧ 512 ≤ (512#16).toNat ∧
      2 ≤ (planArgs 0#16 2#8 0#8).kind.toNat ∧ (planArgs 0#16 0#8 2#8).flags.getLsbD 1 = true ∧
      ((plannedState .lower64).freeze = .lower64 ∧ (63#16).toNat ≤ 63) ∧
      ((plannedState .upper64).freeze = .upper64 ∧ 448 ≤ (448#16).toNat) ∧
      ((plannedState .none).planAt 3).claim ≠ none ∧ 0 < ((plannedState .none).planAt 4).count.getD 0 ∧
      (planArgs 4#16 1#8 0#8).serial = ((plannedState .none).planAt 4).serial ∧
      max 1 (min 255 (1#16).toNat) < ((plannedState .none).planAt 4).count.getD 0 ∧
      ((plannedState .none).planAt 9).inUse = false ∧
      (((plannedState .none).planAt 3).inUse = true ∧ ((plannedState .none).planAt 3).kind = .exact ∧
        ((plannedState .none).planAt 3).serial = (planArgs 9#16 0#8 0#8).serial) ∧
      8 ≤ (8#8).toNat ∧ (7#8).toNat < 8 ∧ ({ State.reset with freezeLock := true } : State).freezeLock = true := by
  refine ⟨⟨⟨rfl, by decide, rfl⟩, rfl⟩, test_not_guarded _, by decide +kernel⟩

/-- PROFILE_WRITE's arguments with every number at a value. -/
def profileArgs (index policy : Byte) (n : Word16) : ProfileArgs :=
  { index := index, dataLength := n, dataInterval := n, presence := n, missLimit := n, grace := n, policy := policy }

theorem test_meets_ProfileWriteAndLocks :
    State.reset.mayWrite ∧ ¬ State.reset.guardActs taking ∧ 8 ≤ (profileArgs 8#8 0#8 0#16).index.toNat ∧
      4 ≤ (profileArgs 0#8 4#8 0#16).policy.toNat ∧ (profileArgs 7#8 3#8 0xFFFF#16).index.toNat = (7 : Fin 8).val ∧
      policyArg (profileArgs 7#8 3#8 0xFFFF#16).policy = some .endless512 ∧
      (State.reset.profiles[(7 : Fin 8)]).locked = false ∧ State.reset.allLock = false ∧
      ({ State.reset with allLock := true } : State).allLock = true :=
  ⟨test_reset_may_write, test_not_guarded _, by decide, by decide, rfl, rfl, by decide +kernel, rfl, rfl⟩

/-- A measurement. -/
def measured : Measurement := { eqd := 2000, residue := -4, level := 63, cycle := 5#16, attempts := 1#8, firmware := 2#4 }

/-- An arrival with a serial and a status. -/
def arrival (serial : Serial) (status : ArrivalStatus) : Arrival :=
  { serial := serial, status := status, link := none, measured := measured }

/-- Feeder A OPEN with these arrivals. -/
def withArrivals (l : List Arrival) : State := base { openFd with arrivals := l, expired := [9#64] }

theorem test_meets_AdmitReadiesHeldArrival :
    let s := withArrivals [arrival 5#64 (.held .unplanned 1), arrival 6#64 (.readyPlan 0)]
    s.mayWrite ∧ feederArg 0#8 = some .A ∧ 8 ≤ (8#8).toNat ∧ (7#8).toNat = (7 : Fin 8).val ∧
      (∃ b ∈ ({ s with bars := [⟨5#64, 1⟩] } : State).bars, b.serial = 5#64) ∧ ¬ (∃ b ∈ s.bars, b.serial = 5#64) ∧
      (s.fd .A).arrivals = [] ++ arrival 5#64 (.held .unplanned 1) :: [arrival 6#64 (.readyPlan 0)] ∧
      (arrival 5#64 (.held .unplanned 1)).status = .held .unplanned 1 ∧
      (∀ x ∈ ([] : List Arrival) ++ [arrival 6#64 (.readyPlan 0)], x.serial ≠ 5#64) ∧
      (s.fd .A).arrivals = [arrival 5#64 (.held .unplanned 1)] ++ arrival 6#64 (.readyPlan 0) :: [] ∧
      (∀ reason n, (arrival 6#64 (.readyPlan 0)).status ≠ .held reason n) ∧
      (∀ a ∈ (s.fd .A).arrivals, a.serial ≠ 9#64) ∧ 9#64 ∈ (s.fd .A).expired := by
  refine ⟨test_base_may_write _, rfl, by decide, rfl, by decide, by decide, rfl, rfl, by decide, rfl, ?_, by decide, by decide⟩
  intro reason n h
  cases h

theorem test_meets_RefuseRemovesArrival :
    let s := withArrivals [arrival 5#64 (.held .unplanned 1)]
    s.mayWrite ∧ feederArg 0#8 = some .A ∧ 2 ≤ (2#8).toNat ∧ (1#8).toNat < 2 ∧ ¬ (∃ b ∈ s.bars, b.serial = 5#64) ∧
      (∃ a ∈ (s.fd .A).arrivals, a.serial = 5#64) ∧ (∀ a ∈ (s.fd .A).arrivals, a.serial ≠ 9#64) :=
  ⟨test_base_may_write _, rfl, by decide, by decide, by decide, by decide, by decide⟩

theorem test_meets_TerminalEjectAndRelevel :
    (base (withRec (rec .inService))).mayWrite ∧ feederArg 0#8 = some .A ∧ (7#8).toNat ≠ 0 ∧ (1#8).toNat < 2 ∧
      ((base openFd).record .A 7).state = .free ∧ ((base (withRec (rec .ejected))).record .A 7).state = .ejected ∧
      ((base (withRec (rec .ejected))).record .A 7).serial = some 0x3D0200000000A51E#64 ∧
      ((base (withRec (rec .inService))).record .A 7).state = .inService ∧
      (withRec (rec .inService)).hunt.target ≠ some 7 ∧
      ({ withRec (rec .huntHeld) with hunt := ⟨.hunting, some 7, some .watching, 8, some 9#16, 4, 0⟩ } : Feeder).hunt.target =
        some 7 ∧
      ((base (withRec (rec .named))).record .A 7).state = .named ∧ (0#8).toNat = 0 ∧ 2 ≤ (2#8).toNat ∧
      ((base (withRec (rec .levelling))).record .A 7).state = .levelling ∧
      ((base (withRec (rec .suspect))).record .A 7).state = .suspect := by
  refine ⟨test_base_may_write _, by decide +kernel⟩

/-- A hunt that chooses: the target's record ejected, the record of handle 9 is the next one; and a hunt with none left. -/
theorem test_meets_hunt_choice :
    let fd : Feeder := { ((withRec (rec .ejected)).setRecord 9 (rec .suspect)) with
      hunt := ⟨.hunting, none, none, 8, none, 0, 0⟩ }
    ((fd.record 9).state = .suspect ∧ fd.hunt.nextHandle ≤ 9 ∧
        ∀ j ∈ List.range 9, ¬ ((fd.record j).state = .inService ∨ (fd.record j).state = .suspect)) ∧
      ∀ k, ((withRec (rec .ejected)).record k).state ≠ .inService ∧ ((withRec (rec .ejected)).record k).state ≠ .suspect := by
  refine ⟨by decide +kernel, fun k => ?_⟩
  rw [test_withRec_record]
  split <;> decide

theorem test_meets_BarAddHoldsAndBars :
    (base (withRec (rec .inService))).mayWrite ∧
      (∃ n f h, some (0x3D0200000000A51E#64 : Serial) = some n ∧ 1 ≤ h ∧ h ≤ 255 ∧
        ((base (withRec (rec .inService))).record f h).serial = some n ∧
        ((base (withRec (rec .inService))).record f h).state ≠ .free ∧
        ((base (withRec (rec .inService))).record f h).state ≠ .ejected) ∧
      ¬ (∃ n f h, (none : Option Serial) = some n ∧ 1 ≤ h ∧ h ≤ 255 ∧ (State.reset.record f h).serial = some n ∧
        (State.reset.record f h).state ≠ .free ∧ (State.reset.record f h).state ≠ .ejected) ∧
      (1023#16).toNat < 1024 ∧
      (let l := [BarEntry.mk 1#64 5, BarEntry.mk 2#64 4, BarEntry.mk 3#64 4]
       l = [BarEntry.mk 1#64 5] ++ BarEntry.mk 2#64 4 :: [BarEntry.mk 3#64 4] ∧
        (∀ x ∈ [BarEntry.mk 1#64 5] ++ [BarEntry.mk 3#64 4], x.serial ≠ 2#64) ∧
        (∀ x ∈ [BarEntry.mk 1#64 5], 4 < x.countdown) ∧ (∀ x ∈ [BarEntry.mk 3#64 4], 4 ≤ x.countdown)) ∧
      32 ≤ (List.replicate 32 (BarEntry.mk 1#64 5)).length ∧
      (∀ b ∈ List.replicate 32 (BarEntry.mk 1#64 5), b.serial ≠ 9#64) :=
  ⟨test_base_may_write _, ⟨_, .A, 7, rfl, by decide +kernel⟩, fun ⟨_, _, _, h, _⟩ => (by cases h), by decide, by decide,
    by decide, by decide⟩

theorem test_meets_BarRemoveTakesEntry :
    let s : State := { State.reset with bars := [⟨1#64, 5⟩, ⟨2#64, 4⟩] }
    s.mayTake ∧ s.holdover = false ∧ s.bars = [⟨1#64, 5⟩] ++ ⟨2#64, 4⟩ :: [] ∧
      (∀ x ∈ [BarEntry.mk 1#64 5] ++ [], x.serial ≠ 2#64) ∧ (∀ b ∈ s.bars, b.serial ≠ 3#64) ∧
      (inHoldover .off).mayTake ∧ (inHoldover .off).holdover = true :=
  ⟨⟨rfl, by decide, rfl⟩, rfl, rfl, by decide, by decide, (test_holdover_may_take _).1, rfl⟩

/-- Feeder A with a header built. -/
def headed (fd : Feeder) : Feeder := { fd with nextHeader := some (bareHeader 1201#16 .full 16) }

theorem test_meets_CycleStartCountsDown :
    State.reset.phase = .running ∧ (State.reset.feederA.state = .closed ∧ State.reset.feederB.state = .closed) ∧
      (let s := base { headed (sequencing .quieting 1) with arrivals := [arrival 5#64 (.readyPlan 0)] }
       s.phase = .running ∧ s.feederA.state ≠ .closed ∧
        (∀ f h, ¬ ((s.record f h).state = .hushed ∧ (s.record f h).recCd = 1)) ∧
        (∀ f, ((s.fd f).arrivals.map (·.serial)).Nodup) ∧
        (s.fd .A).nextHeader = some (bareHeader 1201#16 .full 16) ∧ (s.fd .A).seqCount = some 1 ∧
        (s.fd .B).nextHeader = none) ∧
      (base (headed (sequencing .purging 1))).feederA.seqCount = some 1 ∧
      (base (headed (sequencing .purging 2))).feederA.seqCount = some 2 ∧
      ((base (headed openFd)).feederA.state = .opened ∧ (base (headed openFd)).feederA.seqCount = none) := by
  refine ⟨rfl, ⟨rfl, rfl⟩, ⟨rfl, by decide, ?_, ?_, rfl, rfl, rfl⟩, rfl, rfl, rfl, rfl⟩
  · intro f h
    rw [show State.record _ f h = freeRecord by cases f <;> exact test_empty_table rfl h]
    decide
  · intro f
    cases f <;> decide

/-- A downstream frame of a length. -/
def downFrame (h length : Nat) : DownFrame := { handle := h, frame := List.replicate length 0#8 }

/-- A drained record beside one in service. -/
def draining : Feeder := (withRec (rec .inService)).setRecord 9 { rec .ejected with drain := some 1, planLink := some 511 }

theorem test_draining_record (k : Nat) : (draining.record k).state ≠ .hushed := by
  unfold draining
  rw [test_two_records]
  repeat' split
  all_goals decide

/-- R179 with 30 bytes left, hand-counted: a broadcast of 10 and a frame of 12 bytes fit with their framing, a frame of an
out-of-service record is removed, and the next broadcast of one byte stays. A full header without entries takes 20 bytes. -/
theorem test_meets_CycleStartCountsDown_downstream :
    draining.drainDown [downFrame 0 10, downFrame 9 60, downFrame 7 12, downFrame 0 1, downFrame 7 0] 30 =
        ([downFrame 0 10, downFrame 7 12], [downFrame 0 1, downFrame 7 0], 1) ∧
      (bareHeader 1201#16 .full 16).bytes.length = 20 ∧ 20 ≤ 19440 := by decide +kernel

/-- A decision that lapses beside one that does not, and a drain that ends with its link (R20, R88, R95). -/
theorem test_meets_CycleStartCountsDown_expiries :
    let s := (base { headed draining with
      arrivals := [arrival 5#64 (.held .planHold 1), arrival 6#64 (.held .planHold 2)], expired := [5#64, 4#64] }).setPlan 511
        { exactEntry 3#64 with claim := some (.A, 9) }
    let t := after .cycleStart s
    t.feederA.expired = [4#64, 5#64] ∧ t.feederA.arrivals.map (·.serial) = [6#64] ∧
      t.notices.map (·.kind) = [.decisionExpired] ∧ (t.planAt 511).claim = none := by decide +kernel

/-- Two recoveries that end at one start: the record under OFF is ejected with STRAY and its serial barred, and the one under
TRY3_64 with two attempts behind it is offered its RESUME (R167). -/
def recovering : Feeder :=
  headed ((withRec { rec .hushed with recCd := 1 }).setRecord 9
    { freeRecord with state := .hushed, serial := some 5#64, profile := 1, recCd := 1, recAttempts := 2 })

/-- Profile 1 with TRY3_64, feeder A as given, and a decision of feeder B that does not end. -/
def recoveringState : State :=
  { base recovering with
    profiles := State.reset.profiles.set 1 { resetProfile with policy := .try3x64 }
    feederB := { headed openFd with arrivals := [arrival 6#64 (.held .unplanned 2)] } }

theorem test_meets_CycleStartCountsDown_recoveries :
    let s := recoveringState
    let t := after .cycleStart s
    s.feederA.state ≠ .closed ∧ (s.fd .A).nextHeader ≠ none ∧
      ((List.range' 1 255).filter fun h => decide ((s.record .A h).state = .hushed ∧ (s.record .A h).recCd = 1)) = [7, 9] ∧
      (s.fd .A).hunt.target = none ∧ s.feederB.arrivals.map (·.status) = [.held .unplanned 2] ∧
      t.isBarred 0x3D0200000000A51E#64 = true ∧ (t.record .A 9).recAttempts = 3 ∧
      t.feederA.urgent = [{ handle := 7, msg := .eject .stray }, { handle := 9, msg := .resume }] := by decide +kernel

theorem test_meets_CountdownEnds :
    (base openFd).phase = .running ∧
      ((sequencing .quieting 1).state = .quieting ∧ (sequencing .quieting 1).seqCount = some 1) ∧
      ((sequencing .purging 1).state = .purging ∧ (sequencing .purging 2).seqCount = some 2) ∧
      (openFd.state ≠ .quieting ∧ openFd.state ≠ .purging) ∧
      ({ openFd with gapCd := 1, rootCd := 1 } : Feeder).gapCd = 1 ∧
      ((withRec { rec .inService with checkCd := 1, dataCd := 1, recCd := 1, pace := 1 }).record 7).checkCd = 1 ∧
      ((withRec { rec .inService with checkCd := 1, dataCd := 1, recCd := 1, pace := 1 }).record 7).state = .inService := by
  decide +kernel

theorem test_meets_DrainBarDecisionRecoveryExpiries :
    let drained := base (withRec { rec .ejected with drain := some 1, planLink := some 511 })
    drained.phase = .running ∧ ((drained.fd .A).record 7).state = .ejected ∧
      ((drained.fd .A).record 7).drain = some 1 ∧ ((drained.fd .A).record 7).planLink = some 511 ∧
      (drained.planAt 511).kind = .exact ∧
      ((plannedState .none).planAt 4).kind = .pattern ∧
      ((withRec { rec .ejected with drain := some 1 }).record 7).planLink = none ∧
      (let s : State := { base openFd with bars := [⟨1#64, 2⟩, ⟨2#64, 1⟩] }
       s.feederA.state = .opened ∧ s.bars = [⟨1#64, 2⟩] ++ ⟨2#64, 1⟩ :: [] ∧
        (∀ x ∈ [BarEntry.mk 1#64 2] ++ [], x.serial ≠ 2#64)) ∧
      (let s := withArrivals [arrival 5#64 (.held .unplanned 1)]
       (s.fd .A).state = .opened ∧ (s.fd .A).arrivals = [] ++ arrival 5#64 (.held .unplanned 1) :: []) ∧
      (let r := (withRec { rec .hushed with recCd := 1, recAttempts := 3 }).record 7
       r.state = .hushed ∧ r.recCd = 1 ∧ 3 ≤ r.recAttempts) ∧
      ((withRec (rec .hushed)).hunt.target ≠ some 7) ∧
      (State.reset.profiles[(0 : Fin 8)]).policy = .off ∧
      ¬ (Policy.try3x64 = .off ∨ (Policy.try3x64 ≠ .endless512 ∧ 3 ≤ 2)) := by decide +kernel

theorem test_meets_WatchdogRunsIntoHoldover :
    State.reset.phase = .running ∧ State.reset.wdArmed = false ∧ (inHoldover .off).holdover = true ∧
      (let s : State := { State.reset with wdArmed := true, wdCd := 1 }
       s.wdArmed = true ∧ s.holdover = false ∧ s.wdCd = 1) ∧
      2 ≤ ({ State.reset with wdArmed := true, wdCd := 2 } : State).wdCd := by decide

/-- A notice at a masked kind, beside 63 entries and beside 64 (R196). -/
theorem test_meets_WatchdogRunsIntoHoldover_raise :
    let filled := fun n : Nat => { State.reset with
      notices := List.replicate n { kind := .dark, cycle := 0#16, fields := { feeder := some .A } }, cycle := 9#16 }
    ({ State.reset with noticeMask := 0x7FFFF#32 } : State).noticeMask.getLsbD NoticeKind.holdover.code = false ∧
      State.reset.noticeMask.getLsbD NoticeKind.holdover.code = true ∧
      (filled 63).notices.length < 64 ∧ 64 ≤ (filled 64).notices.length ∧
      (((filled 63).raise .lightBack { feeder := some .B }).notices.getLast?.map fun x => (x.kind, x.cycle)) =
        some (.lightBack, 9#16) ∧
      ((filled 63).raise .lightBack {}).noticeOverrun = false ∧ ((filled 64).raise .lightBack {}).noticeOverrun = true ∧
      ((filled 64).raise .lightBack {}).notices = (filled 64).notices := by decide +kernel

theorem test_meets_AwardsAndBareBuilds :
    (base openFd).phase = .running ∧ ((base openFd).fd .A).state ≠ .closed ∧ ((base openFd).fd .A).nextHeader = none ∧
      (base openFd).award = none ∧ ((base openFd).fd .B).state = .closed ∧
      ((base (headed openFd)).fd .A).nextHeader ≠ none ∧
      ({ base (sequencing .quieting 3) with award := some ⟨1201#16, none⟩ } : State).award ≠ none ∧
      (sequencing .quieting 3).state = .quieting ∧ (sequencing .purging 3).state = .purging := by decide +kernel

/-- The questions of R57 to R59: a feeder with 15 arrivals asks for a call-in and one with 16 does not; a PROBING record asks
while its feeder is PAUSED, but not while its DELAY is queued. -/
theorem test_awards :
    let award := fun (a b : Feeder) =>
      (after (.cycleBuild .A ⟨.afterDispatch, true⟩) { base a with feederB := b }).award.map (·.winner)
    let held := fun n : Nat => { openFd with arrivals := List.replicate n (arrival 5#64 (.held .unplanned 9)) }
    let paused : Feeder := { withRec (rec .probing) with state := .paused }
    award (held 16) (held 15) = some (some .B) ∧ award paused (held 16) = some (some .A) ∧
      award { paused with ordinary := [{ handle := 7, msg := .delay 4 none }] } (held 16) = some none := by decide +kernel

theorem test_meets_FullBuildPlacesWindowAndGrants :
    (let s : State := { base openFd with award := some { cycle := 1201#16, winner := some .A } }
     s.phase = .running ∧ (s.fd .A).state = .opened ∧ (s.fd .A).dark = false ∧ (s.fd .A).stray = false ∧
      (s.fd .A).gapCd = 0 ∧ (s.fd .A).nextHeader = none ∧ (s.fd .A).arrivals = [] ∧ (s.fd .A).urgent = [] ∧
      (s.fd .A).ordinary = [] ∧ (s.fd .A).splitList = [] ∧ (s.fd .A).rootCd = 0 ∧
      s.award = some { cycle := s.cycle + 1, winner := some .A }) ∧
      ({ openFd with splitList := [⟨3, 2⟩] } : Feeder).splitList.head? = some ⟨3, 2⟩ ∧
      ({ openFd with state := .paused } : Feeder).state = .paused ∧ ({ openFd with gapCd := 1 } : Feeder).gapCd ≠ 0 := by
  decide +kernel

/-- Two records that await a probe, handle 7 probed last. -/
def probing : Feeder := { ((withRec (rec .probing)).setRecord 9 (rec .probing)) with lastProbed := 7 }

theorem test_probing_record (k : Nat) :
    ((probing.record k).state = .probing ∧ (k = 7 ∨ k = 9) ∨ probing.record k = freeRecord) ∧
      (probing.record k).owed = none := by
  have e : probing.record k = if k = 9 then rec .probing else if k = 7 then rec .probing else freeRecord :=
    (show probing.record k = ((withRec (rec .probing)).setRecord 9 (rec .probing)).record k by
      unfold probing Feeder.record; rfl).trans (test_two_records _ _ k)
  rw [e]
  split
  · exact ⟨.inl ⟨rfl, .inr ‹_›⟩, rfl⟩
  · split
    · exact ⟨.inl ⟨rfl, .inl ‹_›⟩, rfl⟩
    · exact ⟨.inr rfl, rfl⟩

/-- A probe window for handle 9 behind the last probed handle 7, and, when 9 was probed last, for 7. -/
theorem test_meets_FullBuild_probe :
    let s : State := { base probing with award := some { cycle := 1201#16, winner := some .A } }
    s.nextProbe .A = some 9 ∧ (base { probing with lastProbed := 9 }).nextProbe .A = some 7 ∧
      (s.windowStage .A 1201#16).2 = some { use := .probe 9, grantOffset := 4000, spanEnd := 4064 } := by decide +kernel

/-- The records of "A Crowded Header" in chapter 7, with data lengths of 500, 1,000, 3,000 and 4,000 in profiles 1 to 4. -/
def crowdedRecords : List (Nat × Record) :=
  let serving := fun p : Fin 8 => { rec .inService with profile := p, checkCd := 9 }
  [(3, { rec .suspect with profile := 3 }), (5, rec .inService), (7, serving 1), (9, rec .inService), (12, serving 2),
    (20, rec .confirming), (21, rec .levelling), (31, serving 3), (40, serving 4), (52, serving 4)]

/-- The feeder of that example: handle 9 has waited once, and the rotation pointer stands at 30. -/
def crowdedFd : Feeder :=
  { (crowdedRecords.foldl (fun fd x => fd.setRecord x.1 x.2) openFd) with
    rotation := 30, checkWait := resetFeeder.checkWait.set 8 1 }

/-- The state of that example: a call-in window of SPREAD 32 is due and awarded. -/
def crowdedState : State :=
  { base crowdedFd with
    profiles := Vector.ofFn fun i : Fin 8 => { resetProfile with dataLength := [0, 500, 1000, 3000, 4000][i.val]?.getD 0 }
    award := some { cycle := 1201#16, winner := some .A } }

/-- The header of "A Crowded Header": its grants, the deferrals, the rotation pointer, and every check wait 0. -/
theorem test_crowded_header :
    let fd := (after (.cycleBuild .A ⟨.afterDispatch, true⟩) crowdedState).feederA
    (fd.nextHeader.map fun hd => hd.grants.map fun g => (g.kind, g.handle, g.offset, g.length)) =
        some [(.check, 9, 4592, 48), (.check, 3, 4656, 48), (.check, 5, 4720, 48), (.check, 20, 4784, 48),
          (.check, 21, 4848, 48), (.data, 31, 4912, 3000), (.data, 40, 7928, 4000), (.data, 52, 11944, 4000)] ∧
      (fd.nextHeader.map fun hd => (hd.grants.filter (·.confirm)).map (·.handle)) = some [20] ∧
      fd.rotation = 53 ∧ fd.counters.dataDeferrals = 2 ∧ fd.checkWait = Vector.replicate 255 0 := by decide +kernel

/-- What that build places: five checks and the first three of five DATA grants, the fourth of which does not fit. -/
theorem test_meets_FullBuild_grants :
    let fd := crowdedFd
    let profile := fun k : Nat => crowdedState.profiles[(fd.record k).profile]
    let len := fun k : Nat => ((profile k).dataLength + 3) / 4 * 4
    (∀ k, k ∈ [9, 3, 5, 20, 21] ↔ (fd.record k).state = .confirming ∨ (fd.record k).state = .levelling ∨
        (fd.record k).state = .suspect ∨ ((fd.record k).state = .inService ∧ (fd.record k).checkCd = 0)) ∧
      ([9, 3, 5, 20, 21].Pairwise fun j k => fd.wait k < fd.wait j ∨ (fd.wait j = fd.wait k ∧ j < k)) ∧
      (∀ k, k ∈ [31, 40, 52, 7, 12] ↔
        (fd.record k).state = .inService ∧ 0 < (profile k).dataLength ∧ (fd.record k).dataCd = 0) ∧
      ([31, 40, 52, 7, 12].Pairwise fun j k => if 30 ≤ j then k < 30 ∨ j < k else k < 30 ∧ j < k) ∧
      4592 + 5 * (48 + 16) + ((([31, 40, 52, 7, 12].take 3).map fun k => len k + 16).sum) = 15960 ∧
      16000 < 15960 + (len 7 + 16) ∧ (∀ k, (fd.record k).owed = none ∧ (fd.record k).state ≠ .probing) ∧
      fd.splitList = [] ∧ fd.rootCd = 0 ∧ fd.gapCd = 0 ∧ fd.rotation = 30 ∧ fd.settings.guard = 16 := by
  have hd : ∀ p : Record → Bool, p freeRecord = true → crowdedRecords.all (fun x => p x.2) = true →
      ∀ k, p (crowdedFd.record k) = true := by
    intro p h0 hp k
    have : ∀ (l : List (Nat × Record)) (x : Feeder), (∀ j, p (x.record j) = true) → l.all (fun y => p y.2) = true →
        ∀ j, p ((l.foldl (fun fd y => fd.setRecord y.1 y.2) x).record j) = true := by
      intro l
      induction l with
      | nil => exact fun x hx _ => hx
      | cons y l ih =>
        intro x hx hl
        rw [List.all_cons, Bool.and_eq_true] at hl
        refine ih _ (fun j => ?_) hl.2
        by_cases e : j = y.1
        · by_cases b : 1 ≤ j ∧ j ≤ 255
          · subst e
            rw [Feeder.record_setRecord_self _ _ _ b.1 b.2]
            exact hl.1
          · rw [Feeder.record_of_out _ _ (by omega)]
            exact h0
        · rw [Feeder.record_setRecord_of_ne _ _ _ _ e]
          exact hx j
    have hx : ∀ (x : Feeder) n w, ({ x with rotation := n, checkWait := w } : Feeder).record k = x.record k :=
      fun _ _ _ => rfl
    unfold crowdedFd
    rw [hx]
    exact this crowdedRecords openFd (fun j => by rw [test_empty_table (fd := openFd) rfl]; exact h0) hp k
  have hmem : ∀ (p : Nat → Record → Bool), (∀ k, p k freeRecord = false) → ∀ k,
      (k ∈ crowdedFd.handlesWhere p ↔ p k (crowdedFd.record k) = true) := by
    intro p h0 k
    rw [Feeder.mem_handlesWhere]
    constructor
    · exact fun h => h.2.2
    · intro h
      by_cases b : 1 ≤ k ∧ k ≤ 255
      · exact ⟨b.1, b.2, h⟩
      · rw [Feeder.record_of_out _ _ (by omega), h0] at h
        cases h
  intro fd profile len
  refine ⟨fun k => ?_, by decide +kernel, fun k => ?_, by decide, by decide +kernel, by decide +kernel, fun k => ?_,
    by decide +kernel⟩
  · have e : crowdedFd.handlesWhere (fun _ r => r.checkDue) = [3, 5, 9, 20, 21] := by decide +kernel
    have h1 := hmem (fun _ r => r.checkDue) (fun _ => rfl) k
    rw [e] at h1
    have h2 : k ∈ [9, 3, 5, 20, 21] ↔ k ∈ [3, 5, 9, 20, 21] := by
      simp only [List.mem_cons, List.not_mem_nil, or_false]
      omega
    rw [h2, h1]
    show _ ↔ (crowdedFd.record k).state = _ ∨ _
    unfold Record.checkDue
    cases (crowdedFd.record k).state <;> simp [fd]
  · have e : crowdedFd.handlesWhere (fun _ r => crowdedState.dataDue r) = [7, 12, 31, 40, 52] := by decide +kernel
    have h1 := hmem (fun _ r => crowdedState.dataDue r) (fun _ => rfl) k
    rw [e] at h1
    have h2 : k ∈ [31, 40, 52, 7, 12] ↔ k ∈ [7, 12, 31, 40, 52] := by
      simp only [List.mem_cons, List.not_mem_nil, or_false]
      omega
    rw [h2, h1]
    unfold State.dataDue
    rw [Bool.and_eq_true, Bool.and_eq_true, decide_eq_true_eq, decide_eq_true_eq, decide_eq_true_eq, and_assoc]
    rfl
  · have := hd (fun r => decide (r.owed = none) && decide (r.state ≠ .probing)) (by decide) (by decide +kernel) k
    simpa using this

/-- A table of sixty-six SUSPECT records, one of them with a check wait. -/
def crowded : Feeder :=
  { openFd with
    table := Vector.ofFn fun i : Fin 255 => if i.val < 66 then rec .suspect else freeRecord
    checkWait := Vector.ofFn fun i : Fin 255 => if i.val = 64 then 255 else 0 }

theorem test_crowded_record (k : Nat) :
    (crowded.record k).state = .suspect ∧ k ∈ 65 :: (List.range' 1 64 ++ [66]) ∨
      crowded.record k = freeRecord ∧ k ∉ 65 :: (List.range' 1 64 ++ [66]) := by
  have hm : k ∈ 65 :: (List.range' 1 64 ++ [66]) ↔ 1 ≤ k ∧ k ≤ 66 := by
    rw [List.mem_cons, List.mem_append, List.mem_range'_1, List.mem_singleton]
    omega
  rw [hm]
  by_cases h : 1 ≤ k ∧ k ≤ 255
  · rw [Feeder.record_eq_getElem _ _ h.1 h.2]
    simp only [crowded, Vector.getElem_ofFn]
    split
    · exact .inl ⟨rfl, by omega⟩
    · exact .inr ⟨rfl, by omega⟩
  · rw [Feeder.record_of_out _ _ (by omega)]
    exact .inr ⟨rfl, by omega⟩

/-- Sixty-six checks due for sixty-four places: the one that has waited goes first (R135). -/
theorem test_meets_FullBuild_checks : crowded.checksDue [] = 65 :: (List.range' 1 64 ++ [66]) := by decide +kernel

/-- Two SUSPECT records, the one at handle 9 with a check wait of 3. -/
def waiting : Feeder :=
  { ((withRec (rec .suspect)).setRecord 9 (rec .suspect)) with checkWait := resetFeeder.checkWait.set 8 3 }

/-- Both checks are due and nothing else is, and the one that has waited stands first (R135). -/
theorem test_meets_FullBuild_order (k : Nat) :
    (k ∈ [9, 7] ↔ (waiting.record k).state = .suspect) ∧ (waiting.record k).state ≠ .inService ∧
      (waiting.record k).owed = none ∧ waiting.settings.guard ≤ 64 ∧
      [9, 7].Pairwise (fun i j => waiting.wait j < waiting.wait i ∨ (waiting.wait i = waiting.wait j ∧ i < j)) := by
  have e : waiting.record k = if k = 9 then rec .suspect else if k = 7 then rec .suspect else freeRecord :=
    (show waiting.record k = ((withRec (rec .suspect)).setRecord 9 (rec .suspect)).record k by
      unfold waiting Feeder.record; rfl).trans (test_two_records _ _ k)
  rw [e]
  refine ⟨?_, ?_, ?_, by decide +kernel, by decide +kernel⟩
  · by_cases h9 : k = 9 <;> by_cases h7 : k = 7 <;> simp [h9, h7, rec, freeRecord]
  · by_cases h9 : k = 9 <;> by_cases h7 : k = 7 <;> simp [h9, h7, rec, freeRecord]
  · by_cases h9 : k = 9 <;> by_cases h7 : k = 7 <;> simp [h9, h7, rec, freeRecord]

/-- A HUSHED record that owes a HUSH and a HUNT_HELD one that owes a STEP: each message joins its band again (R151). -/
theorem test_meets_FullBuild_reoffers :
    let fd := (withRec { rec .hushed with owed := some .hush }).setRecord 9 { rec .huntHeld with owed := some (.step true) }
    let s : State := { base fd with award := some { cycle := 1201#16, winner := some .B } }
    let t := after (.cycleBuild .A ⟨.afterDispatch, true⟩) s
    (some FeederId.B ≠ some .A) ∧ t.feederA.urgent = [{ handle := 7, msg := .hush }] ∧
      t.feederA.ordinary = [{ handle := 9, msg := .step true }] ∧ (t.record .A 7).owed = none ∧
      ∀ k, (fd.record k).state = .hushed ∨ (fd.record k).state = .huntHeld ∨ (fd.record k).state = .free := by
  refine ⟨by decide, by decide +kernel, by decide +kernel, by decide +kernel, fun k => ?_⟩
  rw [test_two_records]
  by_cases h9 : k = 9 <;> by_cases h7 : k = 7 <;> simp [h9, h7, rec, freeRecord]

/-- A PROBING record with its DELAY queued and a HUSHED one with its RESUME (R150). -/
def dispatching : Feeder :=
  { ((withRec (rec .probing)).setRecord 9 (rec .hushed)) with
    urgent := [{ handle := 9, msg := .resume }], ordinary := [{ handle := 7, msg := .delay 120 (some 3) }] }

/-- The same feeder behind the dispatch: the record at 7 CONFIRMING, the one at 9 IN_SERVICE with its check due. -/
def dispatched : Feeder :=
  (withRec { rec .probing with state := .confirming, eqd := 120, residue := 3, settle := some 1201#16 }).setRecord 9
    { rec .hushed with state := .inService, recCd := 16 }

/-- What the dispatch takes, moves and leaves, and that no re-offer follows. -/
theorem test_meets_FullBuild_dispatch :
    let out := ({ base dispatching with award := some { cycle := 1201#16, winner := none } } : State).dispatch .A 1201#16 true
    out.2 = ([{ handle := 9, msg := .resume }, { handle := 7, msg := .delay 120 (some 3) }], [9, 7]) ∧
      out.1.record .A 7 = dispatched.record 7 ∧ out.1.record .A 9 = dispatched.record 9 ∧ out.1.feederA.urgent = [] ∧
      out.1.feederA.ordinary = [] ∧ (out.1.feederA.reofferAll.table.toList.map (·.owed)) = List.replicate 255 none := by
  decide +kernel

/-- Neither record gets a grant though each is in a state that is granted one (R133). -/
theorem test_meets_FullBuild_moved (k : Nat) :
    (dispatched.record k).owed = none ∧
      ((dispatched.record k).state = .confirming ∨ (dispatched.record k).state = .inService → k ∈ [9, 7]) ∧
      (dispatched.record k).state ≠ .levelling ∧ (dispatched.record k).state ≠ .suspect ∧
      (dispatched.record k).state ≠ .probing := by
  unfold dispatched
  rw [test_two_records]
  by_cases h9 : k = 9 <;> by_cases h7 : k = 7 <;> simp [h9, h7, rec, freeRecord]

/-- The header of that build, with either order of its reports. -/
theorem test_dispatch_header :
    [true, false].map (fun joins =>
        (after (.cycleBuild .A ⟨.afterDispatch, joins⟩)
          { base dispatching with award := some { cycle := 1201#16, winner := none } }).feederA.nextHeader.map fun hd =>
            (hd.messages.map (·.handle), hd.grants)) = [some ([9, 7], []), some ([9, 7], [])] := by decide +kernel

/-- A target whose RESUME is queued, and the next candidate. -/
def releasing : Feeder :=
  { (withRec { rec .huntHeld with heldFrom := some .inService }).setRecord 9 (rec .inService) with
    stray := true
    hunt := ⟨.hunting, some 7, some .releasing, 8, none, 0, 0⟩
    urgent := [{ handle := 7, msg := .resume }] }

/-- R153 and R162: the RESUME is dispatched, and the HUSH of the next target goes into the same header or waits. -/
theorem test_dispatch_joins :
    [true, false].map (fun joins =>
        let t := after (.cycleBuild .A ⟨.afterDispatch, joins⟩) (base releasing)
        (t.feederA.nextHeader.map (·.messages), t.feederA.urgent)) =
      [(some [{ handle := 7, msg := .resume }, { handle := 9, msg := .hush }], []),
        (some [{ handle := 7, msg := .resume }], [{ handle := 9, msg := .hush }])] := by decide +kernel

/-- The first build of a cycle makes the award and composes the quiet header (R37, R61). -/
theorem test_first_build :
    let t := after (.cycleBuild .A ⟨.beforeAward, true⟩) (base (sequencing .quieting 3))
    (base (sequencing .quieting 3)).award = none ∧ t.award = some { cycle := 1201#16, winner := none } ∧
      t.feederA.nextHeader = some (bareHeader 1201#16 .quiet 16) := by decide +kernel

/-- A HELD and a READY arrival beside a SUSPECT record, in a build that makes the award. -/
def arriving : Feeder :=
  { withRec (rec .suspect) with arrivals := [arrival 4#64 (.held .unplanned 9), arrival 5#64 (.readyCommand 2)], gapCd := 1 }

/-- R99 and R101: named before the dispatch, the NAME goes into the same header; named behind it, it waits. The check of the
other record is granted either way, and the HELD arrival stays. -/
theorem test_meets_FullBuild_naming :
    (arriving.state = .opened ∧ arriving.nextHeader = none ∧ arriving.arrivals.length < 16) ∧
      [NamingPoint.beforeAward, .afterReoffers].map (fun point =>
        let fd := (after (.cycleBuild .A ⟨point, true⟩) (base arriving)).feederA
        (fd.nextHeader.map fun hd => (hd.messages.map (·.handle), hd.grants.map (·.handle)),
          fd.ordinary.map (·.handle), fd.arrivals.map (·.serial))) =
      [(some ([1], [7]), [], [4#64]), (some ([], [7]), [1], [4#64])] := by decide +kernel

/-- The records that the two builds suppose FREE. -/
theorem test_builds_records :
    (∀ h, openFd.record h = freeRecord) ∧ ∀ k, k ≠ 7 → (withRec (rec .inService)).record k = freeRecord :=
  ⟨test_empty_table rfl, test_one_record _⟩

theorem test_meets_DispatchChangesRecords :
    (∀ st ∈ [RecState.named, .probing, .levelling, .inService, .suspect, .huntHeld, .hushed, .ejected],
      ((withRec (rec st)).record 7).state = st) ∧
      ((withRec { rec .inService with levelSetting := 6 }).record 7).levelSetting < 7 ∧
      0 < ((withRec { rec .inService with levelSetting := 1 }).record 7).levelSetting ∧
      (let fd : Feeder := { withRec { rec .huntHeld with heldFrom := some .suspect } with
        hunt := ⟨.hunting, some 7, some .hushOffered, 8, none, 0, 0⟩ }
       fd.hunt.target = some 7 ∧ fd.hunt.phase = some .hushOffered ∧ (fd.record 7).heldFrom = some .suspect) ∧
      (({ withRec (rec .huntHeld) with hunt := ⟨.hunting, some 7, some .releasing, 8, none, 0, 0⟩ } : Feeder).hunt.phase =
        some .releasing) ∧
      ((withRec { rec .huntHeld with heldFrom := some .inService }).record 7).heldFrom = some .inService ∧
      (withRec (rec .inService)).settings.levelPace = 8 ∧
      openFd.hunt.target ≠ some 7 := by decide +kernel

theorem test_meets_MessageOffersFillQueue :
    freeRecord.owed = none ∧ ({ freeRecord with owed := some .hush } : Record).owed = some .hush ∧
      Msg.hush.kind = MsgKind.hush ∧ MsgKind.urgent (Msg.kind (.step true)) = false ∧ MsgKind.urgent (Msg.kind .hush) = true ∧
      (∃ q ∈ ({ openFd with ordinary := [⟨255, .step true⟩] } : Feeder).ordinary,
        q.handle = 255 ∧ q.msg.kind = Msg.kind (.step false)) ∧
      ¬ (∃ q ∈ openFd.ordinary, q.handle = 255 ∧ q.msg.kind = Msg.kind (.step false)) ∧
      (openFd.ordinary.length < 24 ∧ openFd.urgent.length + openFd.ordinary.length < 32) ∧
      ¬ ((List.replicate 24 (QMsg.mk 1 .admission)).length < 24) ∧
      32 ≤ (List.replicate 8 (QMsg.mk 1 .hush)).length + (List.replicate 24 (QMsg.mk 1 .admission)).length ∧
      List.replicate 24 (QMsg.mk 1 .admission) = List.replicate 23 (QMsg.mk 1 .admission) ++ [⟨1, .admission⟩] := by
  decide +kernel

/-- A map of cycle 1,199 with these grants. -/
def heldMap (grants : List Grant) : HeldMap :=
  { cycle := 1199#16, evaluated := true, window := none, guard := 16, grants := grants, burstSeen := false
    lightSeen := false }

/-- A grant for handle 7 at offset 400. -/
def grant (kind : GrantKind) (confirm answered garbled : Bool) : Grant :=
  { kind := kind, handle := 7, offset := 400, length := 48, confirm := confirm, answered := answered, garbled := garbled }

/-- Feeder A with one record, one held map, and a window of the same cycle. -/
def upstream (r : Record) (grants : List Grant) (use : Option WindowUse) : State :=
  { base { withRec r with heldMaps := [heldMap grants] } with
    windows := match use with
      | some u => [newWindowRecord .A 1199#16 { use := u, grantOffset := 4000, spanEnd := 4576 }]
      | none => [] }

theorem test_meets_CallInIsMeasured :
    let s := upstream (rec .inService) [] (some (.callIn ⟨0, 0⟩ .s32))
    s.phase = .running ∧ (s.fd .A).state = .opened ∧ (s.fd .A).mapOf 1199#16 = some (heldMap []) ∧
      s.windowOf .A 1199#16 =
        some (newWindowRecord .A 1199#16 { use := .callIn ⟨0, 0⟩ .s32, grantOffset := 4000, spanEnd := 4576 }) ∧
      13963 < 8 * 4576 ∧ (8 * ((4000 : Int) + 16 * 0) - 32005 < -4) ∧
      (8 * 4000 + 4 < 8 * ((4000 : Int) + 16 * 1) - 123) ∧
      (-4 ≤ 8 * ((4000 : Int) + 16 * 0) - 32004 ∧ 8 * ((4000 : Int) + 16 * 1) - 124 ≤ 8 * 4000 + 4) := by
  decide +kernel

theorem test_meets_AdmissionSteps :
    (∃ b ∈ ({ State.reset with bars := [⟨5#64, 1⟩] } : State).bars, b.serial = 5#64) ∧
      ¬ (∃ b ∈ State.reset.bars, b.serial = 5#64) ∧
      ((withRec (rec .inService)).record 7).serial = some 0x3D0200000000A51E#64 ∧
      (let r := (withRec { rec .confirming with settle := some 1#16 }).record 7
       r.state = .confirming ∧ r.settle = some 1#16 ∧ (0xFFFF#16 + 2 : CycleNumber) = 1#16) ∧
      (∃ a ∈ (withArrivals [arrival 5#64 (.readyPlan 0)]).feederA.arrivals, a.serial = 5#64) ∧
      16 ≤ (List.replicate 16 (arrival 6#64 (.readyPlan 0))).length ∧
      (∀ a ∈ List.replicate 15 (arrival 6#64 (.readyPlan 0)), a.serial ≠ 5#64) ∧
      ((State.reset.setPlan 511 (exactEntry 5#64)).matchPlan .A 5#64).1 = .ready 0 ∧
      (State.reset.matchPlan .A 5#64).1 = .held .unplanned := by decide +kernel

/-- Naming: a READY arrival of each source with a FREE record and room; a list with a HELD one; a table without a FREE
record; an ordinary band without room; a live record of the serial; a link that stands and one that does not. -/
theorem test_meets_AdmissionSteps_naming :
    let byPlan := arrival 5#64 (.readyPlan 3)
    let byCommand : Arrival := { arrival 5#64 (.readyCommand 2) with link := some { index := 511, kind := .exact } }
    let planned := (withArrivals [byPlan]).setPlan 511 (exactEntry 5#64)
    let hushedTable : Feeder := { openFd with table := Vector.replicate 255 (rec .hushed) }
    (planned.matchPlan .A 5#64).1 = .ready 0 ∧ ((withArrivals [byPlan]).matchPlan .A 5#64).1 = .held .unplanned ∧
      (openFd.record 1).state = .free ∧ openFd.ordinary.length < 24 ∧
      (∀ h ∈ List.range' 1 255, (hushedTable.record h).state ≠ .free) ∧ hushedTable.fullArmed = true ∧
      ¬ (List.replicate 24 (QMsg.mk 1 .admission)).length < 24 ∧
      (rec .hushed).serial = some (arrival 0x3D0200000000A51E#64 (.readyPlan 0)).serial ∧
      (planned.planAt 511).claim = none ∧ (planned.planAt 511).serial = byCommand.serial ∧
      (State.reset.planAt 511).inUse = false ∧ (planned.planAt 511).kind ≠ .pattern ∧
      ((planned.name .A).record .A 1).planLink = some 511 ∧ ((planned.name .A).planAt 511).claim = some (.A, 1) ∧
      (planned.name .A).feederA.ordinary = [{ handle := 1, msg := .name 5#64 2000 }] ∧
      (planned.name .A).feederA.arrivals = [] := by decide +kernel

/-- A plan with one pattern of all serials at the last index. -/
def patternPlan : State :=
  State.reset.setPlan 511 { unusedEntry with
    inUse := true, kind := .pattern, mask := some 0#64, limit := some 1, count := some 0, auto := true }

theorem test_meets_PlanMatching :
    (let e := (State.reset.setPlan 0 (exactEntry 5#64)).planAt 0
     e.inUse = true ∧ e.kind = .exact ∧ e.serial = 5#64) ∧
      (let e := patternPlan.planAt 511
       e.inUse = true ∧ e.kind = .pattern ∧ e.expected = .any ∧ e.mask = some 0#64 ∧
        (5#64 : Serial) &&& 0#64 = e.serial &&& 0#64) := by decide +kernel

/-- No entry but the last stands in the plan of one pattern. -/
theorem test_one_pattern (j : Nat) (h : j < 511) : (patternPlan.planAt j).inUse = false := by
  unfold patternPlan
  rw [State.planAt_setPlan, if_neg (by omega)]
  simp [State.planAt, State.reset, State.heldReset, unusedEntry, show j < 512 by omega]

theorem test_meets_ProbeOffersDelay :
    let s := upstream (rec .probing) [] (some (.probe 7))
    s.phase = .running ∧ (s.fd .A).state = .opened ∧ (s.fd .A).mapOf 1199#16 = some (heldMap []) ∧
      s.windowOf .A 1199#16 =
        some (newWindowRecord .A 1199#16 { use := .probe 7, grantOffset := 4000, spanEnd := 4576 }) ∧
      (newWindowRecord .A 1199#16 { use := .probe 7, grantOffset := 4000, spanEnd := 4576 }).answered = false ∧
      (7#8).toNat = 7 ∧ ((s.fd .A).record 7).state = .probing ∧ ((s.fd .A).record 7).eqAttempts < 3 ∧
      ((s.fd .A).record 7).serial = some 0x3D0200000000A51E#64 ∧ ((s.fd .A).record 7).serial ≠ some 5#64 ∧
      (-4 ≤ 8 * (4000 : Int) - 32004 ∧ 32004 < 8 * 4576) ∧ ((withRec (rec .suspect)).record 7).state ≠ .probing := by
  decide +kernel

/-- The other ends of a probe: a position beyond reach, an early one in a window whose grant offset stands one above the
reach, and a record at its fourth attempt, that is no hunt target. -/
theorem test_meets_ProbeOffersDelay_ends :
    8 * (4000 : Int) - 32005 < -4 ∧ 32005 < 8 * 4576 ∧ 8 * 4000 + 4 < 8 * (4001 : Int) - 3 ∧
      (let fd := withRec { rec .probing with eqAttempts := 3 }
       3 ≤ (fd.record 7).eqAttempts ∧ (fd.record 7).state = .probing ∧ fd.hunt.target ≠ some 7) ∧
      (let t := after (.cleanBurst .A 1199#16 32005 20 (.probe 7#8 0x3D0200000000A51E#64))
        (upstream (rec .probing) [] (some (.probe 7)))
       (t.record .A 7).ejectReason = some .outOfReach ∧ t.notices.map (·.kind) = [.ejected, .outOfReach]) ∧
      (let t := after (.cleanBurst .A 1199#16 32004 20 (.probe 7#8 5#64))
        (upstream { rec .probing with eqAttempts := 3 } [] (some (.probe 7)))
       (t.record .A 7).ejectReason = some .noConfirm ∧ t.bars.map (·.serial) = [0x3D0200000000A51E#64]) := by
  decide +kernel

theorem test_meets_CheckBurstIsJudged :
    let g := grant .check false false false
    (∀ st ∈ [RecState.inService, .suspect, .confirming, .huntHeld, .free],
      let s := upstream (rec st) [g] none
      s.phase = .running ∧ (s.fd .A).state = .opened ∧ (s.fd .A).mapOf 1199#16 = some (heldMap [g]) ∧
        (heldMap [g]).grant .check 7 = some g ∧ g.answered = false ∧ ((s.fd .A).record 7).state = st ∧
        ((s.fd .A).record 7).settle ≠ some 1199#16 ∧ ((s.fd .A).record 7).eqAttempts < 3) ∧
      ((withRec { rec .inService with settle := some 1199#16 }).record 7).settle = some 1199#16 ∧
      ((3712 : Int) - 8 * 400).natAbs ≤ 512 ∧ 16 < ((3217 : Int) - 8 * 400).natAbs ∧
      (driftRunAfter 2 0 16).natAbs < 4 ∧ 42 ≤ 40 + 2 ∧ 20 ≤ 18 + 2 ∧ (0x00#8).getLsbD 0 = false ∧
      openFd.watch = ⟨.event, 0x00#8, 0x00#8⟩ := by decide +kernel

/-- The bounds of the confirm tolerance and of the misplaced watch; the runs one short of their end and at it. -/
theorem test_meets_CheckBurst_bounds :
    ((3216 : Int) - 8 * 400).natAbs ≤ 16 ∧ 16 < ((3217 : Int) - 8 * 400).natAbs ∧
      ((3712 : Int) - 8 * 400).natAbs ≤ 512 ∧ 512 < ((3713 : Int) - 8 * 400).natAbs ∧
      512 < ((2687 : Int) - 8 * 400).natAbs ∧
      (∀ k ∈ [0, 1, 2, 3], ((withRec { rec .inService with misplacedRun := k }).record 7).misplacedRun = k) ∧
      (∀ k ∈ [2, 3], ((withRec { rec .inService with levelRun := k }).record 7).levelRun = k) ∧
      ((withRec { rec .confirming with eqAttempts := 3 }).record 7).eqAttempts = 3 ∧
      (withRec (rec .confirming)).hunt.target ≠ some 7 := by decide +kernel

/-- The walk: a code above the window, below it, inside it and at its edges, at settings 0 and 7 and between, with the pace
run down and not; a LEVELLING record with its ADMIT queued or owed and without. -/
theorem test_meets_CheckBurst_walk :
    let x := openFd.settings
    (x.levelHigh < 41 ∧ (20 ≤ x.levelLow ∧ 19 < x.levelLow) ∧ ¬ x.levelHigh < 40 ∧ ¬ 20 < x.levelLow) ∧
      (x.levelHigh + 2 < 43 ∧ ¬ x.levelHigh + 2 < 42 ∧ 17 + 2 < x.levelLow ∧ ¬ 18 + 2 < x.levelLow) ∧
      (∀ k ∈ [0, 3, 7], ((withRec { rec .levelling with levelSetting := k, pace := k }).record 7).levelSetting = k) ∧
      (∃ q ∈ ({ withRec (rec .levelling) with ordinary := [{ handle := 7, msg := .admission }] } : Feeder).ordinary,
        q.handle = 7 ∧ q.msg = .admission) ∧
      ((withRec { rec .levelling with owed := some .admission }).record 7).owed = some .admission ∧
      ((withRec { rec .inService with walking := true, levelEdge := true }).record 7).walking = true ∧
      ((withRec (rec .probing)).record 7).state = .probing := by decide +kernel

/-- The condition word: bit 0 rising; a word that is the confirmed one, a new candidate and a second taking, under a watch
that raises and one that does not. -/
theorem test_meets_CheckBurst_word :
    (0x05#8).getLsbD 0 = true ∧ (rec .inService).mainsFailing = false ∧ (0x00#8 : Byte) = (rec .inService).confirmed ∧
      ({ rec .inService with candidate := some 0x04#8 } : Record).candidate = some 0x04#8 ∧
      (0x00#8 ^^^ 0x04#8) &&& 0x06#8 ≠ 0#8 ∧ ((0x04#8 ^^^ 0x0C#8) &&& 0x06#8 = 0#8) ∧
      (0x04#8 &&& 0x06#8 = 0x04#8 &&& 0x06#8 ∧ (0x00#8 : Byte) &&& 0x06#8 ≠ 0x04#8 &&& 0x06#8) := by decide

theorem test_meets_DriftRunFollowsBursts :
    8 * (2 : Int) < 17 ∧ (-17 : Int) < -(8 * 2) ∧ ¬ (8 * (2 : Int) < 16) ∧ driftRunAfter 2 3 17 = 4 ∧
      4 ≤ (driftRunAfter 2 3 17).natAbs ∧ (driftRunAfter 2 2 17).natAbs < 4 ∧ openFd.settings.driftRun = 4 ∧
      max 0 (min ((0 : Int) - 2) 4000) = (0 : Int) ∧ max 0 (min ((2461 : Int) - 2) 4000) ≠ (2461 : Int) := by
  decide +kernel

theorem test_meets_DataBurstForwardsFrames :
    let g := grant .data false false false
    (∀ st ∈ [RecState.inService, .suspect, .huntHeld, .ejected, .free],
      let s := upstream { rec st with settle := some 1199#16 } [g] none
      s.phase = .running ∧ (s.fd .A).state = .opened ∧ (s.fd .A).mapOf 1199#16 = some (heldMap [g]) ∧
        (heldMap [g]).grant .data 7 = some g ∧ g.answered = false ∧ ((s.fd .A).record 7).state = st ∧
        ((s.fd .A).record 7).settle = some 1199#16) ∧
      (heldMap []).grant .data 7 = none ∧
      ((heldMap [grant .data false true false]).grant .data 7 = some (grant .data false true false)) ∧
      checkGood 12 (withCheck (List.replicate 12 0#8)) = true ∧ checkGood 12 (List.replicate 16 0#8) = false ∧
      State.reset.upBuffer.length + 128 ≤ 128 := by decide +kernel

/-- A judged DATA burst: no settle burst, within the misplaced bound and beyond it, of a record that carries traffic and of
a LEVELLING one; a buffer with one place left takes the first good frame of two. -/
theorem test_meets_DataBurst_judged :
    let g := grant .data false false false
    let good := withCheck (List.replicate 12 0#8)
    let s : State := { upstream (rec .inService) [g] none with
      upBuffer := List.replicate 127 { tagType := 0#16, feeder := .B, handle := 1, frame := [] } }
    let t := after (.cleanBurst .A 1199#16 3200 20 (.data 7#8 [[], good, good])) s
    ((s.fd .A).record 7).settle ≠ some 1199#16 ∧ ((3712 : Int) - 8 * 400).natAbs ≤ 512 ∧
      512 < ((3713 : Int) - 8 * 400).natAbs ∧ (upstream (rec .levelling) [g] none).record .A 7 = rec .levelling ∧
      t.upBuffer.length = 128 ∧ t.feederA.counters.upstreamDropped = 2 ∧
      (after (.cleanBurst .A 1199#16 3713 20 (.data 7#8 [good])) s).upBuffer.length = 127 := by decide +kernel

theorem test_meets_GarbledBurstsAndLight :
    let g := grant .check false false false
    (let s := upstream (rec .inService) [g] none
     s.phase = .running ∧ (s.fd .A).state = .opened ∧ (s.fd .A).mapOf 1199#16 = some (heldMap [g]) ∧
      s.windowOf .A 1199#16 = none ∧
      (heldMap [g]).grants.find? (fun k => k.holds (heldMap [g]).guard 3711) = some g ∧ g.confirm = false ∧
      g.holds 16 3712 = false ∧ g.holds 16 3199 = false ∧ (8 * g.offset ≤ 3200 ∧ 3711 < 8 * (g.offset + g.length + 16))) ∧
      (let s := upstream (rec .inService) [g] (some (.callIn ⟨0, 0⟩ .s32))
       s.windowOf .A 1199#16 =
          some (newWindowRecord .A 1199#16 { use := .callIn ⟨0, 0⟩ .s32, grantOffset := 4000, spanEnd := 4576 }) ∧
        36607 < 8 * 4576) := by decide +kernel

/-- A garbled burst on a confirm grant, at a record below its fourth attempt and at it; within a probe window, and behind the
span of a window on record; a feeder without the cycle's map and one that is not open. -/
theorem test_meets_GarbledBursts_elsewhere :
    let g := grant .check true false false
    let late : Grant := { grant .check false false false with offset := 4600 }
    (∀ k ∈ [0, 3], let s := upstream { rec .confirming with eqAttempts := k } [g] none
      (heldMap [g]).grants.find? (fun x => x.holds (heldMap [g]).guard 3200) = some g ∧ g.confirm = true ∧
        ((s.fd .A).record 7).state = .confirming ∧ (s.fd .A).hunt.target ≠ some 7 ∧
        ((after (.garbledBurst .A 1199#16 (some 3200)) s).record .A 7).state =
          if k = 0 then .probing else .ejected) ∧
      ((upstream (rec .probing) [] (some (.probe 7))).windowOf .A 1199#16).map (·.window.use) = some (.probe 7) ∧
      (¬ 36800 < 8 * 4576 ∧ (heldMap [late]).grants.find? (fun x => x.holds (heldMap [late]).guard 36800) = some late) ∧
      (base openFd).feederA.mapOf 1199#16 = none ∧ State.reset.feederA.state = .closed := by decide +kernel

/-- The clean bursts that are discarded: a call-in behind the window's span and in a probe window, a probe in a call-in window
and one that is not the first, a second CHECK burst and one without a grant. -/
theorem test_meets_GarbledBursts_discards :
    let g := grant .check false true false
    (¬ 36608 < 8 * 4576) ∧ (WindowUse.probe 7 ≠ .callIn ⟨0, 0⟩ .s32) ∧ (WindowUse.probe 7 ≠ .probe (8#8).toNat) ∧
      ({ newWindowRecord .A 1199#16 ⟨.probe 7, 4000, 4576⟩ with answered := true } : WindowRecord).answered = true ∧
      ((heldMap [g]).grant .check (7#8).toNat = some g ∧ g.answered = true) ∧
      (heldMap []).grant .check (7#8).toNat = none := by decide +kernel

theorem test_meets_UnansweredCheckIsJudged :
    (∀ x ∈ [(false, false, false), (false, true, false), (false, false, true), (true, false, false)],
      let g := grant .check x.1 x.2.1 x.2.2
      ((upstream (rec .inService) [g] none).fd .A).mapOf 1199#16 = some (heldMap [g]) ∧
        (heldMap [g]).grant .check 7 = some g) ∧
      ({ openFd with dark := true } : Feeder).dark = true ∧ openFd.dark = false ∧
      0 < ((withRec { rec .inService with grace := 1 }).record 7).grace ∧
      ((withRec { rec .inService with miss := 1 }).record 7).miss + 1 < resetProfile.missLimit ∧
      resetProfile.missLimit ≤ ((withRec { rec .inService with miss := 2 }).record 7).miss + 1 ∧
      2 ≤ ((withRec { rec .suspect with suspectLeft := 2 }).record 7).suspectLeft ∧
      ((withRec { rec .suspect with suspectLeft := 1 }).record 7).suspectLeft = 1 ∧
      ((withRec { rec .levelling with miss := 1 }).record 7).state = .levelling ∧
      ((withRec (rec .confirming)).record 7).eqAttempts < 3 ∧
      (let fd := withRec { rec .confirming with eqAttempts := 3 }
       3 ≤ (fd.record 7).eqAttempts ∧ fd.hunt.target ≠ some 7) := by decide +kernel

/-- A LEVELLING record at its miss limit, with a STEP queued and without an ADMIT: the STEP makes room for the ADMIT. -/
theorem test_meets_UnansweredCheck_levelling :
    let g := grant .check false false false
    let full : Feeder := { (withRec { rec .levelling with miss := 2 }) with
      ordinary := List.replicate 23 { handle := 9, msg := .admission } ++ [{ handle := 7, msg := .step true }]
      heldMaps := [heldMap [g]] }
    let t := after (.checkSpanEnd .A 1199#16 7) (base full)
    resetProfile.missLimit ≤ (full.record 7).miss + 1 ∧
      ¬ ((∃ q ∈ full.ordinary, q.handle = 7 ∧ q.msg = .admission) ∨ (full.record 7).owed = some .admission) ∧
      t.feederA.ordinary.drop 23 = [{ handle := 7, msg := .admission }] ∧ (t.record .A 7).owed = none ∧
      (t.record .A 7).miss = 3 := by decide +kernel

theorem test_meets_WindowEndsReportOutcome :
    (∀ u ∈ [WindowUse.callIn ⟨5, 3⟩ .s32, .probe 7],
      (upstream (rec .probing) [] (some u)).windowOf .A 1199#16 =
        some (newWindowRecord .A 1199#16 { use := u, grantOffset := 4000, spanEnd := 4576 })) ∧
      22 + 2 ≤ 24 ∧ ([] : List Machine.Subgroup).length + 2 ^ 2 ≤ 24 ∧ ¬ (23 + 2 ≤ 24) ∧
      24 ≤ (List.replicate 24 (Machine.Subgroup.mk 0 0)).length ∧ ((withRec (rec .probing)).record 7).state = .probing ∧
      ((withRec (rec .probing)).record 7).eqAttempts < 3 ∧
      3 ≤ ((withRec { rec .probing with eqAttempts := 3 }).record 7).eqAttempts ∧
      (withRec { rec .probing with eqAttempts := 3 }).hunt.target ≠ some 7 := by decide +kernel

theorem test_meets_CycleEndWatchesLight :
    (let s := upstream (rec .levelling) [grant .check false false false] none
     let m := heldMap [grant .check false false false]
     s.phase = .running ∧ (s.fd .A).mapOf 1199#16 = some m ∧ m.evaluated = true ∧ (s.fd .A).stray = false ∧
      m.lightSeen = false ∧ (s.fd .A).dark = false ∧ m.burstSeen = false ∧ m.grants ≠ []) ∧
      (8 ≤ ({ openFd with darkRun := 7 } : Feeder).darkRun + 1) ∧ openFd.darkRun + 1 < openFd.settings.darkDebounce ∧
      ({ heldMap [] with evaluated := false } : HeldMap).evaluated = false ∧
      ({ openFd with dark := true, lightRun := 1 } : Feeder).lightRun = 1 ∧
      ({ heldMap [] with lightSeen := true } : HeldMap).lightSeen = true ∧
      openFd.settings.strayRun ≤ ({ openFd with strayRun := 3 } : Feeder).strayRun + 1 ∧
      openFd.strayRun + 1 < openFd.settings.strayRun := by decide +kernel

/-- A hunt with handle 7 as its target, in a phase, with its hush cycle. -/
def hunted (phase : TargetPhase) (hush : Option CycleNumber) (watch absence : Nat) : Feeder :=
  { withRec (rec .huntHeld) with
    stray := true, hunt := ⟨.hunting, some 7, some phase, 8, hush, watch, absence⟩, heldMaps := [heldMap []] }

/-- The re-hush: two records within their watch, the larger countdown at handle 9; a record that hands the decision on, and
one whose policy gives up. A hunt that is STOPPED, a hushed report that is the second dark one, one with watch left, and a
lit one at the watch's end; a report before the hush cycle, a target in each other phase, and a hunt without one. -/
theorem test_meets_CycleEnd_hunt :
    (let fd := (withRec { rec .inService with recCd := 3 }).setRecord 9 { rec .inService with recCd := 16 }
     (fd.record 9).state = .inService ∧ 0 < (fd.record 9).recCd ∧ (fd.record 7).recCd ≤ (fd.record 9).recCd ∧
      (fd.record 7).recCd < (fd.record 9).recCd ∧ fd.hunt.target ≠ some 9) ∧
      openFd.settings.strayRun ≤ 3 + 1 ∧ State.reset.profiles[(0 : Fin 8)].policy = .off ∧
      ((withRec (rec .suspect)).record 7).state ≠ .inService ∧
      ({ openFd with stray := true, hunt := { idleHunt with state := .stopped } } : Feeder).hunt.state ≠ .hunting ∧
      ((hunted .watching (some 1199#16) 4 1).hunt.hushCycle = some 1199#16 ∧ (1199#16 - 1199#16 : CycleNumber).toNat < 32768) ∧
      2 ≤ (hunted .watching (some 1199#16) 4 1).hunt.absence + 1 ∧
      (hunted .watching (some 0xFFFF#16) 2 0).hunt.absence + 1 = 1 ∧ (1#16 - 0xFFFF#16 : CycleNumber).toNat < 32768 ∧
      (hunted .watching (some 1199#16) 1 0).hunt.watchCd ≤ 1 ∧ ¬ (1199#16 - 1200#16 : CycleNumber).toNat < 32768 ∧
      (hunted .hushOffered none 0 1).hunt.phase = some .hushOffered ∧
      (hunted .releasing none 0 1).hunt.phase = some .releasing ∧
      ({ idleHunt with state := .hunting } : Hunt).target = none := by decide +kernel

/-- What the second dark hushed report and the second dark open report leave (R160, R161). -/
theorem test_hunt_ends :
    let found := after (.upstreamCycleEnd .A 1199#16) (base (hunted .watching (some 1199#16) 4 1))
    let vanished := after (.upstreamCycleEnd .A 1199#16) (base (hunted .hushOffered none 0 1))
    found.notices.map (·.kind) = [.strayFound, .ejected] ∧ found.feederA.stray = false ∧
      (found.record .A 7).ejectReason = some .stray ∧
      vanished.notices.map (·.kind) = [.strayCleared] ∧ vanished.feederA.hunt = idleHunt ∧
      vanished.feederA.urgent = [{ handle := 7, msg := .resume }] := by decide +kernel

theorem test_no_candidate (h : Nat) :
    (({ openFd with strayRun := 3 } : Feeder).record h).state ≠ .inService ∧
      (({ openFd with strayRun := 3 } : Feeder).record h).state ≠ .suspect := by
  rw [test_empty_table (fd := { openFd with strayRun := 3 }) rfl h]
  decide

theorem test_meets_FeederEventsLeaveTheRest :
    feederOf (.gapCountdownExpiry .A) = some .A ∧
      exec (.gapCountdownExpiry .A) (base { openFd with gapCd := 1 }) =
        .next (base openFd) := ⟨rfl, rfl⟩

theorem test_meets_FrozenContentsChangeOnlyByReset :
    (plannedState .lower64).freeze.holds 63 = true ∧ ¬ resetsPart .cycleStart (plannedState .lower64) ∧
      exec .cycleStart (plannedState .lower64) = .next (plannedState .lower64) := ⟨rfl, fun h => h, rfl⟩

/-! ## States that the invariants hold in -/

/-- A state with a bar entry about to end, whose next step ends it. -/
def barred : State := { base openFd with bars := [⟨1#64, 1⟩, ⟨2#64, 65535⟩], pending := [.barHoldExpiry 1#64] }

theorem test_meets_BarListKeptSound :
    barred.BarsSound ∧ step barred = .next { barred with bars := [⟨2#64, 65535⟩], pending := [] } :=
  ⟨⟨by decide, by decide, by decide⟩, rfl⟩

/-- A hunt that watches a target, and STRAY_CLEAR waiting. -/
def hunting : State :=
  { base { openFd with stray := true, hunt := ⟨.hunting, some 7, some .watching, 8, some 1200#16, 4, 0⟩ } with
    pending := [.strayClear taking 0#8] }

theorem test_meets_HuntRecordsKeptSound : hunting.HuntsSound ∧ ∃ t, step hunting = .next t := by
  refine ⟨?_, _, rfl⟩
  intro f
  cases f
  · exact ⟨by decide, by decide, by decide, by decide⟩
  · exact ⟨by decide, by decide, by decide, by decide⟩

/-- A CLOSED feeder B beside an OPEN feeder A with a bar waiting. -/
def oneOpen : State := { base openFd with pending := [.feederClose taking 0#8] }

theorem test_meets_ClosedFeedersKeptEmpty : oneOpen.ClosedSound ∧ ∃ t, step oneOpen = .next t := by
  refine ⟨?_, _, rfl⟩
  intro f hf
  cases f
  · exact absurd hf (by decide)
  · exact ⟨rfl, fun w hw => by cases hw⟩

/-- Every record of a feeder with one record is that record or FREE. -/
theorem test_mem_withRec (r x : Record) (h : x ∈ (withRec r).table.toList) : x = r ∨ x = freeRecord := by
  obtain ⟨i, hi, rfl⟩ := List.getElem_of_mem h
  by_cases e : 6 = i
  · subst e
    refine .inl ?_
    rw [Vector.getElem_toList]
    change (resetFeeder.table.setIfInBounds 6 r)[6]'(by simp) = r
    rw [Vector.getElem_setIfInBounds, if_pos rfl]
  · refine .inr ?_
    rw [Vector.getElem_toList]
    change (resetFeeder.table.setIfInBounds 6 r)[i]'(by simpa using hi) = freeRecord
    rw [Vector.getElem_setIfInBounds, if_neg e]
    exact Vector.getElem_replicate _

theorem test_mem_reset (x : Record) (h : x ∈ resetFeeder.table.toList) : x = freeRecord := by
  obtain ⟨i, hi, rfl⟩ := List.getElem_of_mem h
  rw [Vector.getElem_toList]
  exact Vector.getElem_replicate _

/-- A record with every count at its bound. -/
def extreme : Record :=
  { rec .inService with
    residue := -4, eqAttempts := 3, driftRun := -15, misplacedRun := 3, levelSetting := 7, levelRun := 4, miss := 15
    suspectLeft := 8, recAttempts := 255, owed := some (.delay 0 (some 3)) }

theorem test_extreme_in_range : extreme.InRange ∧ freeRecord.InRange := by
  refine ⟨⟨by decide, by decide, by decide, by decide, by decide, by decide, by decide, by decide, by decide, by decide, ?_⟩,
    ⟨by decide, by decide, by decide, by decide, by decide, by decide, by decide, by decide, by decide, by decide, ?_⟩⟩
  · intro m hm i hi
    cases hm
    cases hi
    exact ⟨by decide, by decide⟩
  · intro m hm
    cases hm

/-- The record with every count at its bound as the hunt's target, an arrival and a queued DELAY at the residues' bounds. -/
def extremeFd : Feeder :=
  { withRec extreme with
    arrivals := [arrival 5#64 (.readyPlan 0)], ordinary := [{ handle := 7, msg := .delay 0 (some 3) }]
    hunt := ⟨.hunting, some 7, some .watching, 8, some 9#16, 4, 0⟩ }

theorem test_meets_RecordRangesKept :
    (base extremeFd).RecordsInRange ∧
      ∃ t, step { base extremeFd with pending := [.feederPause taking 0#8] } = .next t := by
  refine ⟨?_, _, rfl⟩
  intro f
  cases f
  · refine ⟨?_, ?_, ?_, ?_⟩
    · intro r hr
      rcases test_mem_withRec extreme _ hr with rfl | rfl
      · exact test_extreme_in_range.1
      · exact test_extreme_in_range.2
    · intro a ha
      rw [List.mem_singleton.mp ha]
      exact ⟨by decide, by decide⟩
    · intro q hq i hi
      rw [List.mem_singleton.mp hq] at hi
      cases hi
      exact ⟨by decide, by decide⟩
    · intro h hh
      cases hh
      decide +kernel
  · refine ⟨?_, ?_, ?_, ?_⟩
    · intro r hr
      rw [test_mem_reset r hr]
      exact test_extreme_in_range.2
    · intro a ha
      cases ha
    · intro q hq
      cases hq
    · intro h hh
      cases hh

/-- A record linked to an EXACT entry that it claims, an arrival of another serial, a bar of a third. -/
def tied : State :=
  { (base { withRec { rec .inService with planLink := some 511 } with arrivals := [arrival 5#64 (.readyPlan 0)] }).setPlan 511
      { exactEntry 0x3D0200000000A51E#64 with claim := some (.A, 7) } with
    bars := [{ serial := 6#64, countdown := 9 }], pending := [.terminalEject taking 0#8 7#8 1#8] }

theorem test_tied_record (f : FeederId) (h : Nat) :
    (f = .A ∧ h = 7 ∧ tied.record f h = { rec .inService with planLink := some 511 }) ∨
      (¬ (f = .A ∧ h = 7) ∧ tied.record f h = freeRecord) := by
  cases f
  · by_cases e : h = 7
    · subst e
      exact .inl ⟨rfl, rfl, by decide +kernel⟩
    · exact .inr ⟨fun x => e x.2, test_one_record _ h e⟩
  · exact .inr ⟨fun x => FeederId.noConfusion x.1, test_empty_table rfl h⟩

theorem test_tied_plan (i : Nat) :
    (i = 511 ∧ tied.planAt i = { exactEntry 0x3D0200000000A51E#64 with claim := some (.A, 7) }) ∨
      (i ≠ 511 ∧ tied.planAt i = unusedEntry) := by
  by_cases e : i = 511
  · subst e
    exact .inl ⟨rfl, by decide +kernel⟩
  · refine .inr ⟨e, ?_⟩
    refine (State.planAt_setPlan (base { withRec { rec .inService with planLink := some 511 } with
      arrivals := [arrival 5#64 (.readyPlan 0)] }) 511 i
      { exactEntry 0x3D0200000000A51E#64 with claim := some (.A, 7) }).trans ?_
    rw [if_neg fun x => e x.1.symm]
    unfold State.planAt
    by_cases hb : i < 512 <;> simp [base, State.reset, State.heldReset, hb]

theorem test_meets_IdentitiesKeptSound : tied.IdentitiesSound ∧ ∃ t, step tied = .next t := by
  have holds : ∀ f h serial, tied.holds f h serial → f = .A ∧ h = 7 ∧ serial = 0x3D0200000000A51E#64 := by
    intro f h serial hh
    rcases test_tied_record f h with ⟨hf, hk, e⟩ | ⟨_, e⟩
    · have := hh.2
      rw [e] at this
      exact ⟨hf, hk, (Option.some.inj this).symm⟩
    · have := hh.1
      rw [e] at this
      cases this
  refine ⟨⟨?_, ?_, ?_, ?_, ?_, ?_, ?_, ?_, ?_⟩, _, rfl⟩
  · intro f h hs
    rcases test_tied_record f h with ⟨_, _, e⟩ | ⟨_, e⟩
    · rw [e] at hs
      cases hs
    · rw [e]
      exact ⟨rfl, rfl⟩
  · intro f h hh
    cases f <;> cases hh
  · intro f h g k serial h1 h2
    obtain ⟨a, b, _⟩ := holds f h serial h1
    obtain ⟨c, d, _⟩ := holds g k serial h2
    exact ⟨a.trans c.symm, b.trans d.symm⟩
  · intro f h serial hb hh
    rw [(holds f h serial hh).2.2] at hb
    cases hb
  · intro f
    cases f <;> decide
  · intro f a ha
    cases f
    · rw [List.mem_singleton.mp ha]
      exact ⟨by decide, fun g h hh => absurd (holds g h _ hh).2.2 (by decide)⟩
    · cases ha
  · intro f h i hl
    rcases test_tied_record f h with ⟨rfl, rfl, e⟩ | ⟨_, e⟩
    · rw [e] at hl
      cases hl
      exact ⟨by decide, by decide +kernel⟩
    · rw [e] at hl
      cases hl
  · intro i f h hc
    rcases test_tied_plan i with ⟨rfl, e⟩ | ⟨_, e⟩
    · rw [e] at hc
      cases hc
      exact ⟨by decide +kernel, by decide +kernel, by decide +kernel⟩
    · rw [e] at hc
      cases hc
  · intro i hu hk
    rcases test_tied_plan i with ⟨_, e⟩ | ⟨_, e⟩
    · rw [e] at hk
      cases hk
    · rw [e] at hu
      cases hu

/-- An OPEN feeder of reach class MID with a record and an arrival at the greatest delay. -/
def atReach : State :=
  base { withRec { rec .inService with eqd := 4000, owed := some (.delay 4000 none) } with
    arrivals := [{ arrival 5#64 (.readyPlan 0) with measured := { measured with eqd := 4000 } }] }

theorem test_meets_DelaysKeptWithinReach :
    atReach.DelaysSound ∧ ∃ t, step { atReach with pending := [.cycleStart] } = .next t := by
  refine ⟨⟨?_, ?_⟩, _, rfl⟩
  · intro f hf
    cases f
    · exact absurd hf (by decide)
    · exact ⟨rfl, fun w hw => by cases hw⟩
  · intro f
    cases f
    · refine ⟨?_, ?_, by decide, by decide⟩
      · intro r hr
        rcases test_mem_withRec _ _ hr with rfl | rfl <;> decide
      · intro r hr m hm d hd
        rcases test_mem_withRec _ _ hr with rfl | rfl
        · cases hm; cases hd; decide
        · cases hm
    · refine ⟨?_, ?_, by decide, by decide⟩
      · intro r hr
        rw [test_mem_reset r hr]
        decide
      · intro r hr m hm d hd
        rw [test_mem_reset r hr] at hm
        cases hm

/-- A header that fills the map to its end: a window, a CHECK grant behind it and a DATA grant that ends at 16,000. -/
def filled : Header :=
  { cycle := 1201#16, kind := .full, guard := 16, messages := []
    window := some { use := .callIn ⟨0, 0⟩ .s32, grantOffset := 4000, spanEnd := 4576 }
    grants :=
      [{ kind := .check, handle := 7, offset := 4592, length := 48, confirm := false, answered := false, garbled := false },
       { kind := .data, handle := 7, offset := 4656, length := 11328, confirm := false, answered := false
         garbled := false }] }

theorem test_meets_GrantMapsKeptLawful :
    (base { openFd with nextHeader := some filled }).MapsLawful ∧
      ∃ t, step { base { openFd with nextHeader := some filled } with pending := [.cycleStart] } = .next t := by
  refine ⟨?_, _, rfl⟩
  intro f
  cases f
  · refine ⟨?_, fun m hm => by cases hm⟩
    intro hd hh
    cases hh
    refine ⟨by decide, by decide, ?_, by decide, by decide, by decide⟩
    intro w hw
    cases hw
    decide
  · exact ⟨fun hd hh => (by cases hh), fun m hm => by cases hm⟩

/-- Feeder A with every list full. -/
def full : Feeder :=
  { openFd with
    arrivals := List.replicate 16 (arrival 5#64 (.readyPlan 0)), expired := List.replicate 16 9#64
    splitList := List.replicate 24 ⟨0, 0⟩, ordinary := List.replicate 24 ⟨1, .admission⟩
    urgent := List.replicate 8 ⟨1, .hush⟩, downBuffer := List.replicate 64 ⟨0, []⟩
    heldMaps := [heldMap [], heldMap []] }

theorem test_meets_CapacitiesKept :
    (base full).Bounded ∧ ∃ t, step { base full with pending := [.cycleStart] } = .next t := by
  refine ⟨⟨?_, by decide, by decide, by decide, by decide, by decide, by decide⟩, _, rfl⟩
  intro f
  cases f
  · exact ⟨by decide, by decide, by decide, by decide, by decide, by decide, by decide, fun hd h => (by cases h),
      fun hd h => by cases h⟩
  · exact ⟨by decide, by decide, by decide, by decide, by decide, by decide, by decide, fun hd h => (by cases h),
      fun hd h => by cases h⟩

end Sys2Proof.Tests
end

/-! PROOFS. Matching a serial against the plan (R92, R93): what the tests of one entry say, where the search of the plan
stops, and the outcome and link of each of the three ends of the search. -/
namespace Sys2Proof.Machine

open Sys2Proof

/-! ## The tests of one entry -/

/-- The expected feeder that names this feeder alone. -/
def Expected.only (f : FeederId) : Expected :=
  match f with
  | .A => .A
  | .B => .B

theorem Expected.admits_iff (x : Expected) (f : FeederId) : x.admits f = true ↔ x = .any ∨ x = Expected.only f := by
  cases f <;> cases x <;> simp [Expected.admits, Expected.only]

theorem PlanEntry.isExactFor_iff (e : PlanEntry) (serial : Serial) :
    e.isExactFor serial = true ↔ e.inUse = true ∧ e.kind = .exact ∧ e.serial = serial := by
  simp [PlanEntry.isExactFor, and_assoc]

/-- The masked comparison of R93. The model compares a pattern without a mask in every bit, hence the hypothesis. -/
theorem PlanEntry.isPatternFor_iff {e : PlanEntry} {m : BitVec 64} (hm : e.mask = some m) (f : FeederId)
    (serial : Serial) :
    e.isPatternFor f serial = true ↔
      e.inUse = true ∧ e.kind = .pattern ∧ (e.expected = .any ∨ e.expected = Expected.only f) ∧
        ∀ mask, e.mask = some mask → serial &&& mask = e.serial &&& mask := by
  simp [PlanEntry.isPatternFor, PlanEntry.masked, Expected.admits_iff, hm, and_assoc]

theorem PlanEntry.inUse_and_pattern_of_isPatternFor {e : PlanEntry} {f : FeederId} {serial : Serial}
    (h : e.isPatternFor f serial = true) : e.inUse = true ∧ e.kind = .pattern := by
  simp only [PlanEntry.isPatternFor, Bool.and_eq_true, decide_eq_true_eq] at h
  obtain ⟨⟨⟨hUse, hKind⟩, _⟩, _⟩ := h
  exact ⟨hUse, hKind⟩

/-! ## The outcomes of one entry -/

theorem PlanEntry.exactOutcome_eq (e : PlanEntry) (f : FeederId) (holdover : Bool) :
    e.exactOutcome f holdover =
      if ¬ (e.expected = .any ∨ e.expected = Expected.only f) then .held .wrongFeeder
      else if e.hold = true then .held .planHold
      else if holdover = true ∧ e.preAuth = false then .held .holdover
      else .ready e.profile := by
  simp [PlanEntry.exactOutcome, ← Expected.admits_iff]

theorem PlanEntry.patternOutcome_eq (e : PlanEntry) (holdover : Bool) :
    e.patternOutcome holdover =
      if e.count = e.limit then .held .patternFull
      else if e.hold = true ∨ e.auto = false then .held .planHold
      else if holdover = true ∧ e.preAuth = false then .held .holdover
      else .ready e.profile := by
  simp [PlanEntry.patternOutcome]

/-! ## The search of the plan -/

theorem State.planAt_eq_getElem (s : State) {i : Nat} (hi : i < 512) : s.planAt i = s.plan[i] := by
  simp [State.planAt, hi]

/-- The search stops at the lowest entry that passes the test. -/
theorem State.findIdx?_plan_eq_some {s : State} (p : PlanEntry → Bool) {i : Nat} (hi : i < 512)
    (hp : p (s.planAt i) = true) (hlow : ∀ j, j < i → ¬ p (s.planAt j) = true) :
    s.plan.toList.findIdx? p = some i := by
  rw [List.findIdx?_eq_some_iff_getElem]
  refine ⟨by simpa using hi, ?_, fun j hj => ?_⟩
  · simpa [s.planAt_eq_getElem hi] using hp
  · simpa [s.planAt_eq_getElem (hj.trans hi)] using hlow j hj

theorem State.findIdx?_plan_eq_none {s : State} (p : PlanEntry → Bool)
    (hnone : ∀ j, j < 512 → ¬ p (s.planAt j) = true) : s.plan.toList.findIdx? p = none := by
  rw [List.findIdx?_eq_none_iff]
  intro e he
  obtain ⟨j, hj, rfl⟩ := Vector.mem_iff_getElem.mp (Vector.mem_toList_iff.mp he)
  simpa [s.planAt_eq_getElem hj] using hnone j hj

/-! ## The three ends of the search -/

theorem State.matchPlan_of_exact {s : State} {serial : Serial} {i : Nat} (f : FeederId) (hi : i < 512)
    (hexact : (s.planAt i).isExactFor serial = true) (hlow : ∀ j, j < i → ¬ (s.planAt j).isExactFor serial = true) :
    s.matchPlan f serial = ((s.planAt i).exactOutcome f s.holdover, some { index := i, kind := .exact }) := by
  simp only [State.matchPlan, State.findIdx?_plan_eq_some (·.isExactFor serial) hi hexact hlow]

theorem State.matchPlan_of_pattern {s : State} {f : FeederId} {serial : Serial} {i : Nat} (hi : i < 512)
    (hno : ∀ j, j < 512 → ¬ (s.planAt j).isExactFor serial = true)
    (hpattern : (s.planAt i).isPatternFor f serial = true)
    (hlow : ∀ j, j < i → ¬ (s.planAt j).isPatternFor f serial = true) :
    s.matchPlan f serial = ((s.planAt i).patternOutcome s.holdover, some { index := i, kind := .pattern }) := by
  simp only [State.matchPlan, State.findIdx?_plan_eq_none (·.isExactFor serial) hno,
    State.findIdx?_plan_eq_some (·.isPatternFor f serial) hi hpattern hlow]

theorem State.matchPlan_of_no_entry {s : State} {f : FeederId} {serial : Serial}
    (hno : ∀ j, j < 512 → ¬ (s.planAt j).isExactFor serial = true)
    (hnone : ∀ j, j < 512 → ¬ (s.planAt j).isPatternFor f serial = true) :
    s.matchPlan f serial = (.held .unplanned, none) := by
  simp only [State.matchPlan, State.findIdx?_plan_eq_none (·.isExactFor serial) hno,
    State.findIdx?_plan_eq_none (·.isPatternFor f serial) hnone]

/-! ## The statement -/

/-- Settles O41: the entry's tests are the statement's conditions, and each clause is one end of the search. An entry that is
no pattern in use fails the pattern test whatever its mask; a pattern in use has a mask by the clause's hypothesis. -/
theorem planMatching : Obligations.PlanMatching := by
  unfold Obligations.PlanMatching
  intro s f serial admits isExact isPattern
  have exact_iff (j : Nat) : (s.planAt j).isExactFor serial = true ↔ isExact j := PlanEntry.isExactFor_iff _ _
  have pattern_iff (j : Nat) (m : BitVec 64) (hm : (s.planAt j).mask = some m) :
      (s.planAt j).isPatternFor f serial = true ↔ isPattern j := PlanEntry.isPatternFor_iff hm f serial
  have not_exactFor (hno : ∀ j, j < 512 → ¬ isExact j) (j : Nat) (hj : j < 512) :
      ¬ (s.planAt j).isExactFor serial = true := mt (exact_iff j).mp (hno j hj)
  refine ⟨?exact, ?pattern, ?unplanned⟩
  case exact =>
    intro i hi hexact hlow e
    rw [State.matchPlan_of_exact f hi ((exact_iff i).mpr hexact) fun j hj => mt (exact_iff j).mp (hlow j hj),
      PlanEntry.exactOutcome_eq]
    rfl
  case pattern =>
    intro i mask hi hno hmask hpattern hmasks hlow e
    have hlower (j : Nat) (hj : j < i) : ¬ (s.planAt j).isPatternFor f serial = true := by
      intro h
      obtain ⟨hUse, hKind⟩ := PlanEntry.inUse_and_pattern_of_isPatternFor h
      obtain ⟨m, hm⟩ := hmasks j hj hUse hKind
      exact hlow j hj ((pattern_iff j m hm).mp h)
    rw [State.matchPlan_of_pattern hi (not_exactFor hno) ((pattern_iff i mask hmask).mpr hpattern) hlower,
      PlanEntry.patternOutcome_eq]
  case unplanned =>
    intro hno hnone
    refine State.matchPlan_of_no_entry (not_exactFor hno) fun j hj h => ?_
    obtain ⟨hUse, hKind⟩ := PlanEntry.inUse_and_pattern_of_isPatternFor h
    obtain ⟨m, hm, hnot⟩ := hnone j hj hUse hKind
    exact hnot ((pattern_iff j m hm).mp h)

end Sys2Proof.Machine

/-! PROOFS. The offers to the Message Queue (R147 to R149): what the tests of a band say, one equation for each outcome of
an owed, an ordinary and an urgent message, and the statement assembled from them. -/
namespace Sys2Proof.Machine

open Sys2Proof

/-! ## The tests of the bands -/

theorem QMsg.isFor_iff (q : QMsg) (h : Nat) (k : MsgKind) : q.isFor h k = true ↔ q.handle = h ∧ q.msg.kind = k := by
  simp [QMsg.isFor]

theorem holdsMsg_iff (band : List QMsg) (h : Nat) (k : MsgKind) :
    holdsMsg band h k = true ↔ ∃ q ∈ band, q.handle = h ∧ q.msg.kind = k := by
  simp [holdsMsg, QMsg.isFor_iff]

theorem replaceMsg_eq_map (band : List QMsg) (h : Nat) (m : Msg) :
    replaceMsg band h m =
      band.map fun q => if q.handle = h ∧ q.msg.kind = m.kind then { handle := h, msg := m } else q := by
  simp only [replaceMsg, QMsg.isFor_iff]

theorem Feeder.ordinaryRoom_iff (fd : Feeder) :
    fd.ordinaryRoom = true ↔ fd.ordinary.length < 24 ∧ fd.urgent.length + fd.ordinary.length < 32 := by
  simp only [Feeder.ordinaryRoom, Bool.and_eq_true, decide_eq_true_eq]
  exact Iff.rfl

/-! ## The owed message (R149) -/

theorem Record.owe_of_none {r : Record} (m : Msg) (hr : r.owed = none) : r.owe m = { r with owed := some m } := by
  simp only [Record.owe, hr]

/-- An owed message gives way, unless it is urgent and the new one is not. -/
theorem Record.owe_of_replaces {r : Record} {o m : Msg} (hr : r.owed = some o)
    (hreplaces : o.kind.urgent = true → m.kind.urgent = true) : r.owe m = { r with owed := some m } := by
  have hnot : (o.kind.urgent && !m.kind.urgent) = false := by
    cases ho : o.kind.urgent with
    | false => rfl
    | true => simp [hreplaces ho]
  simp [Record.owe, hr, hnot]

theorem Record.owe_of_urgent_kept {r : Record} {o m : Msg} (hr : r.owed = some o) (ho : o.kind.urgent = true)
    (hm : m.kind.urgent = false) : r.owe m = r := by
  simp [Record.owe, hr, ho, hm]

/-! ## An ordinary message (R147) -/

section Offers

variable {fd : Feeder} {h : Nat} {m : Msg}

theorem Feeder.offerOrdinary_of_holds (hstands : holdsMsg fd.ordinary h m.kind = true) :
    fd.offerOrdinary h m = { fd with ordinary := replaceMsg fd.ordinary h m } := by
  simp only [Feeder.offerOrdinary, if_pos hstands]

theorem Feeder.offerOrdinary_of_owed (hno : ¬ holdsMsg fd.ordinary h m.kind = true)
    (howed : (fd.record h).owed ≠ none) : fd.offerOrdinary h m = fd.modRecord h (·.owe m) := by
  simp only [Feeder.offerOrdinary, if_neg hno, if_pos howed]

theorem Feeder.offerOrdinary_of_room (hno : ¬ holdsMsg fd.ordinary h m.kind = true) (howed : (fd.record h).owed = none)
    (hroom : fd.ordinaryRoom = true) :
    fd.offerOrdinary h m = { fd with ordinary := fd.ordinary ++ [{ handle := h, msg := m }] } := by
  simp only [Feeder.offerOrdinary, if_neg hno, if_neg (not_not_intro howed), if_pos hroom]

theorem Feeder.offerOrdinary_of_full (hno : ¬ holdsMsg fd.ordinary h m.kind = true) (howed : (fd.record h).owed = none)
    (hfull : ¬ fd.ordinaryRoom = true) : fd.offerOrdinary h m = (fd.modRecord h (·.owe m)).latchQueueFull := by
  simp only [Feeder.offerOrdinary, if_neg hno, if_neg (not_not_intro howed), if_neg hfull]

/-! ## An urgent message (R148) -/

theorem Feeder.offerUrgent_of_holds (hstands : holdsMsg fd.urgent h m.kind = true) :
    fd.offerUrgent h m = { fd with urgent := replaceMsg fd.urgent h m } := by
  simp only [Feeder.offerUrgent, if_pos hstands]

theorem Feeder.offerUrgent_of_room (hno : ¬ holdsMsg fd.urgent h m.kind = true)
    (hroom : fd.queued < Config.queueCapacity) :
    fd.offerUrgent h m = { fd with urgent := fd.urgent ++ [{ handle := h, msg := m }] } := by
  simp only [Feeder.offerUrgent, if_neg hno, if_pos hroom]

/-- In a full queue the youngest ordinary message gives its place and becomes the owed message of its own record. -/
theorem Feeder.offerUrgent_of_displaces {older : List QMsg} {q : QMsg} (hno : ¬ holdsMsg fd.urgent h m.kind = true)
    (hfull : ¬ fd.queued < Config.queueCapacity) (hyoungest : fd.ordinary = older ++ [q]) :
    fd.offerUrgent h m =
      Feeder.latchQueueFull
        { (fd.modRecord q.handle (·.owe q.msg)) with
          ordinary := older
          urgent := fd.urgent ++ [{ handle := h, msg := m }] } := by
  have hlast : fd.ordinary.getLast? = some q := by rw [hyoungest, List.getLast?_concat]
  have holder : fd.ordinary.dropLast = older := by rw [hyoungest, List.dropLast_concat]
  simp only [Feeder.offerUrgent, if_neg hno, if_neg hfull, hlast, holder, Feeder.modRecord_bands]

theorem Feeder.offerUrgent_of_all_urgent (hno : ¬ holdsMsg fd.urgent h m.kind = true)
    (hfull : ¬ fd.queued < Config.queueCapacity) (hempty : fd.ordinary = []) :
    fd.offerUrgent h m = (fd.modRecord h (·.owe m)).latchQueueFull := by
  simp only [Feeder.offerUrgent, if_neg hno, if_neg hfull, hempty, List.getLast?_nil]

end Offers

/-! ## The statement -/

/-- Settles O38: the model's tests of the bands are the statement's conditions, and each clause is one outcome of an owed,
an ordinary or an urgent message. -/
theorem messageOffersFillQueue : Obligations.MessageOffersFillQueue := by
  unfold Obligations.MessageOffersFillQueue
  refine ⟨fun r m => ⟨Record.owe_of_none m, fun o ho => ⟨?sameKind, ?ordinaryOwed, ?urgentKept, ?bothUrgent⟩⟩, ?offers⟩
  case sameKind => exact fun hkind => Record.owe_of_replaces ho fun hu => hkind ▸ hu
  case ordinaryOwed => exact fun hord => Record.owe_of_replaces ho fun hu => absurd hu (by simp [hord])
  case urgentKept => exact Record.owe_of_urgent_kept ho
  case bothUrgent => exact fun _ hm => Record.owe_of_replaces ho fun _ => hm
  case offers =>
    intro fd h m _ _ r stands inPlace room owes full
    have holds_iff (band : List QMsg) : holdsMsg band h m.kind = true ↔ stands band := holdsMsg_iff band h m.kind
    have replace_eq (band : List QMsg) : replaceMsg band h m = inPlace band := replaceMsg_eq_map band h m
    have absent {band : List QMsg} (hno : ¬ stands band) : ¬ holdsMsg band h m.kind = true := mt (holds_iff band).mp hno
    have room_iff : fd.ordinaryRoom = true ↔ room := fd.ordinaryRoom_iff
    refine ⟨?standing, ?owing, ?joining, ?filling, ?urgentStanding, ?urgentJoining, ?displacing, ?allUrgent⟩
    case standing =>
      intro hstands
      rw [Feeder.offerOrdinary_of_holds ((holds_iff _).mpr hstands), replace_eq]
    case owing => exact fun hno howed => Feeder.offerOrdinary_of_owed (absent hno) howed
    case joining =>
      exact fun hno howed hroom => Feeder.offerOrdinary_of_room (absent hno) howed (room_iff.mpr hroom)
    case filling =>
      exact fun hno howed hfull => Feeder.offerOrdinary_of_full (absent hno) howed (mt room_iff.mp hfull)
    case urgentStanding =>
      intro hstands
      rw [Feeder.offerUrgent_of_holds ((holds_iff _).mpr hstands), replace_eq]
    case urgentJoining => exact fun hno hroom => Feeder.offerUrgent_of_room (absent hno) hroom
    case displacing =>
      exact fun older q hno hfull hyoungest => Feeder.offerUrgent_of_displaces (absent hno) (Nat.not_lt.mpr hfull) hyoungest
    case allUrgent =>
      exact fun hno hfull hempty => Feeder.offerUrgent_of_all_urgent (absent hno) (Nat.not_lt.mpr hfull) hempty

end Sys2Proof.Machine

/-! PROOFS. What the rows do to one feeder's tables and lists, as one relation that every update of a feeder but a few keeps
to: what it says of each invariant's part is proved here once, so that an invariant need not be followed through every row. -/
namespace Sys2Proof.Machine

open Sys2Proof

/-! ## Messages and measurements within their bounds -/

/-- The residue and the delay that a message carries lie in their ranges (R105, R106). -/
structure Msg.Fits (x : Settings) (m : Msg) : Prop where
  residue : ∀ i, m.residue? = some i → residueFits i
  delay : ∀ d, m.delay? = some d → d ≤ x.reach.span

/-- The measurement of a call-in as R105 leaves it. -/
structure Measurement.Fits (x : Settings) (m : Measurement) : Prop where
  residue : residueFits m.residue
  eqd : m.eqd ≤ x.reach.span

/-- The delay and the residue that a measurement in reach gives (R105). -/
theorem delayOf_le (span : Nat) (q : Int) : delayOf span q ≤ span := by
  unfold delayOf clampDelay; omega

theorem residueFits_residueOf (span : Nat) (q : Int) : residueFits (residueOf span q) := by
  unfold residueFits residueOf delayOf clampDelay; omega

/-- A message without a delay and without a residue. -/
theorem Msg.fits_of_plain {x : Settings} {m : Msg} (hr : m.residue? = none) (hd : m.delay? = none) : m.Fits x :=
  ⟨fun i h => by simp [hr] at h, fun d h => by simp [hd] at h⟩

/-! ## A record -/

/-- `q` is `r` with its identity and its place among the free, the ejected and the active records kept, its ranges kept,
and no delay or owed message that is neither its own nor of `N`. -/
structure Record.Tuned (N : Msg → Prop) (r q : Record) : Prop where
  serial : q.serial = r.serial
  planLink : q.planLink = r.planLink
  active : q.state.active = r.state.active
  live : q.state.live = r.state.live
  eqd : q.eqd = r.eqd ∨ ∃ m, N m ∧ m.delay? = some q.eqd
  owed : ∀ m, q.owed = some m → r.owed = some m ∨ N m
  range : (∀ m, N m → ∀ i, m.residue? = some i → residueFits i) → r.InRange → q.InRange

theorem Record.Tuned.refl (N : Msg → Prop) (r : Record) : r.Tuned N r :=
  ⟨rfl, rfl, rfl, rfl, .inl rfl, fun _ h => .inl h, fun _ h => h⟩

theorem Record.Tuned.trans {N : Msg → Prop} {a b c : Record} (h : a.Tuned N b) (k : b.Tuned N c) : a.Tuned N c where
  serial := k.serial.trans h.serial
  planLink := k.planLink.trans h.planLink
  active := k.active.trans h.active
  live := k.live.trans h.live
  eqd := by
    rcases k.eqd with e | e
    · rw [e]; exact h.eqd
    · exact .inr e
  owed := fun m hm => (k.owed m hm).elim (h.owed m) .inr
  range := fun hN hr => k.range hN (h.range hN hr)

/-- A record that owes another message or none. -/
theorem Record.tuned_owed (N : Msg → Prop) (r : Record) (o : Option Msg)
    (ho : ∀ m, o = some m → r.owed = some m ∨ N m) : r.Tuned N { r with owed := o } :=
  { Record.Tuned.refl N r with
    owed := ho
    range := fun hN h => { h with owed := fun m hm i hi => (ho m hm).elim (fun e => h.owed m e i hi) fun e => hN m e i hi } }

theorem RecState.live_of_active {x : RecState} (h : x.active = true) : x.live = true := by
  cases x <;> simp_all [RecState.active, RecState.live]

/-- The states that `q` may have when `r` is active: another active one. -/
theorem Record.tuned_state (N : Msg → Prop) (r : Record) (x : RecState) (hr : r.state.active = true)
    (hx : x.active = true) : r.Tuned N { r with state := x } :=
  { Record.Tuned.refl N r with
    active := by rw [hr]; exact hx
    live := by rw [RecState.live_of_active hr]; exact RecState.live_of_active hx
    range := fun _ h => { h with activeAttempts := fun _ => h.activeAttempts hr } }

/-! ## A feeder -/

/-- The headers composed and the maps held of a feeder obey the law of grant maps. -/
def Feeder.MapsLawful (fd : Feeder) : Prop :=
  (∀ hd, fd.nextHeader = some hd → MapLawful hd.window hd.guard hd.grants) ∧
    ∀ m ∈ fd.heldMaps, MapLawful m.window m.guard m.grants

/-- `x` is `fd` with its records tuned, its arrivals kept or fewer, its messages kept, fewer or of `N`, its capacities and
its maps kept sound, its settings kept, not closed, and with its hunt's target or none. -/
structure Feeder.Softens (N : Msg → Prop) (fd x : Feeder) : Prop where
  notClosed : fd.state ≠ .closed → x.state ≠ .closed
  settings : x.settings = fd.settings
  records : ∀ k, (fd.record k).Tuned N (x.record k)
  target : x.hunt.target = fd.hunt.target ∨ x.hunt.target = none
  serials : (x.arrivals.map (·.serial)).Sublist (fd.arrivals.map (·.serial))
  measured : ∀ a ∈ x.arrivals,
    (∃ b ∈ fd.arrivals, b.serial = a.serial ∧ b.measured = a.measured) ∨ a.measured.Fits fd.settings
  queued : ∀ q ∈ x.urgent ++ x.ordinary, q ∈ fd.urgent ++ fd.ordinary ∨ N q.msg
  bounded : fd.Bounded → x.Bounded
  maps : fd.MapsLawful → x.MapsLawful

/-- The same, with the hunt record kept sound. -/
structure Feeder.Eases (N : Msg → Prop) (fd x : Feeder) : Prop extends Feeder.Softens N fd x where
  hunt : fd.HuntSound → x.HuntSound

theorem Feeder.Softens.refl (N : Msg → Prop) (fd : Feeder) : fd.Softens N fd where
  notClosed := id
  settings := rfl
  records _ := .refl N _
  target := .inl rfl
  serials := .refl _
  measured a h := .inl ⟨a, h, rfl, rfl⟩
  queued _ h := .inl h
  bounded := id
  maps := id

theorem Feeder.Softens.trans {N : Msg → Prop} {a b c : Feeder} (h : a.Softens N b) (k : b.Softens N c) :
    a.Softens N c where
  notClosed := k.notClosed ∘ h.notClosed
  settings := k.settings.trans h.settings
  records i := (h.records i).trans (k.records i)
  target := by
    rcases k.target with e | e
    · rw [e]; exact h.target
    · exact .inr e
  serials := k.serials.trans h.serials
  measured x hx := by
    rcases k.measured x hx with ⟨y, hy, e1, e2⟩ | e
    · rcases h.measured y hy with ⟨z, hz, e3, e4⟩ | e
      · exact .inl ⟨z, hz, e3.trans e1, e4.trans e2⟩
      · exact .inr (e2 ▸ e)
    · exact .inr (h.settings ▸ e)
  queued q hq := (k.queued q hq).elim (h.queued q) .inr
  bounded := k.bounded ∘ h.bounded
  maps := k.maps ∘ h.maps

theorem Feeder.Eases.refl (N : Msg → Prop) (fd : Feeder) : fd.Eases N fd := { Feeder.Softens.refl N fd with hunt := id }

theorem Feeder.Eases.trans {N : Msg → Prop} {a b c : Feeder} (h : a.Eases N b) (k : b.Eases N c) : a.Eases N c :=
  { h.toSoftens.trans k.toSoftens with hunt := k.hunt ∘ h.hunt }

/-- An update that reaches none of a feeder's records, arrivals, messages, maps, lists, hunt and settings. -/
theorem Feeder.eases_of_quiet (N : Msg → Prop) {fd x : Feeder} (hs : fd.state ≠ .closed → x.state ≠ .closed)
    (e : x = { fd with
      state := x.state, seqCount := x.seqCount, dark := x.dark, darkRun := x.darkRun, lightRun := x.lightRun
      strayRun := x.strayRun, counters := x.counters, latched := x.latched, fullArmed := x.fullArmed
      splitCounter := x.splitCounter, rootCd := x.rootCd, gapCd := x.gapCd, lastProbed := x.lastProbed
      rotation := x.rotation, checkWait := x.checkWait, line := x.line }) : fd.Eases N x := by
  rw [e]
  exact { Feeder.Eases.refl N fd with
    notClosed := hs
    bounded := fun h => { h with }
    hunt := fun h => { h with } }

/-- A table whose records are tuned. -/
theorem Feeder.eases_table (N : Msg → Prop) {fd x : Feeder} (e : x = { fd with table := x.table })
    (h : ∀ k, (fd.record k).Tuned N (x.record k)) : fd.Eases N x := by
  rw [e] at h ⊢
  exact { Feeder.Eases.refl N fd with
    records := h
    bounded := fun h => { h with }
    hunt := fun h => { h with } }

theorem Feeder.modRecord_table (fd : Feeder) (h : Nat) (g : Record → Record) :
    fd.modRecord h g = { fd with table := (fd.modRecord h g).table } := by
  unfold Feeder.modRecord Feeder.setRecord
  split <;> rfl

theorem Feeder.eases_modRecord {N : Msg → Prop} {fd : Feeder} {h : Nat} {g : Record → Record}
    (hg : (fd.record h).Tuned N (g (fd.record h))) : fd.Eases N (fd.modRecord h g) := by
  refine Feeder.eases_table N (fd.modRecord_table h g) fun k => ?_
  rw [Feeder.modRecord_eq, Feeder.record_setRecord]
  split
  · next e => rw [← e.1]; exact hg
  · exact .refl N _

/-- Both bands fewer, and the downstream buffer. -/
theorem Feeder.eases_bands (N : Msg → Prop) (fd : Feeder) {u o : List QMsg} (hu : u.Sublist fd.urgent)
    (ho : o.Sublist fd.ordinary) : fd.Eases N { fd with urgent := u, ordinary := o } :=
  { Feeder.Eases.refl N fd with
    queued := fun _ hq => .inl ((hu.append ho).subset hq)
    bounded := fun h =>
      { h with ordinary := ho.length_le.trans h.ordinary
               queue := (Nat.add_le_add hu.length_le ho.length_le).trans h.queue }
    hunt := fun h => { h with } }

theorem Feeder.eases_downBuffer (N : Msg → Prop) (fd : Feeder) (l : List DownFrame)
    (hl : fd.downBuffer.length ≤ 64 → l.length ≤ 64) : fd.Eases N { fd with downBuffer := l } :=
  { Feeder.Eases.refl N fd with
    bounded := fun h => { h with downBuffer := hl h.downBuffer }
    hunt := fun h => { h with } }

theorem Feeder.eases_splitList (N : Msg → Prop) (fd : Feeder) (l : List Subgroup)
    (hl : fd.splitList.length ≤ 24 → l.length ≤ 24) : fd.Eases N { fd with splitList := l } :=
  { Feeder.Eases.refl N fd with
    bounded := fun h => { h with splitList := hl h.splitList }
    hunt := fun h => { h with } }

theorem Feeder.eases_expired (N : Msg → Prop) (fd : Feeder) (l : List Serial)
    (hl : fd.expired.length ≤ 16 → l.length ≤ 16) : fd.Eases N { fd with expired := l } :=
  { Feeder.Eases.refl N fd with
    bounded := fun h => { h with expired := hl h.expired }
    hunt := fun h => { h with } }

/-- The hunt record written, with its target kept or gone. -/
theorem Feeder.eases_hunt (N : Msg → Prop) (fd : Feeder) (hh : Hunt) (st : Bool) (r : Nat)
    (ht : hh.target = fd.hunt.target ∨ hh.target = none)
    (hs : fd.HuntSound → Feeder.HuntSound { fd with stray := st, strayRun := r, hunt := hh }) :
    fd.Eases N { fd with stray := st, strayRun := r, hunt := hh } :=
  { Feeder.Eases.refl N fd with
    target := ht
    bounded := fun h => { h with }
    hunt := hs }

/-- Arrivals removed. -/
theorem Feeder.eases_dropArrival (N : Msg → Prop) (fd : Feeder) (n : Serial) : fd.Eases N (fd.dropArrival n) :=
  { Feeder.Eases.refl N fd with
    serials := (List.filter_sublist).map _
    measured := fun a ha => .inl ⟨a, List.mem_of_mem_filter ha, rfl, rfl⟩
    bounded := fun h => { h with arrivals := (List.length_filter_le _ _).trans h.arrivals }
    hunt := fun h => { h with } }

/-- Arrivals changed in their places, their serials kept. -/
theorem Feeder.eases_mapArrivals (N : Msg → Prop) (fd : Feeder) (g : Arrival → Arrival)
    (hg : ∀ a, (g a).serial = a.serial)
    (hm : ∀ a ∈ fd.arrivals, (g a).measured = a.measured ∨ (g a).measured.Fits fd.settings) :
    fd.Eases N { fd with arrivals := fd.arrivals.map g } :=
  { Feeder.Eases.refl N fd with
    serials := by simp [Function.comp_def, hg]
    measured := fun a ha => by
      obtain ⟨b, hb, rfl⟩ := List.mem_map.mp ha
      exact (hm b hb).imp (fun e => ⟨b, hb, (hg b).symm, e.symm⟩) id
    bounded := fun h => { h with arrivals := by simpa using h.arrivals }
    hunt := fun h => { h with } }

/-- Held maps fewer or changed in their places, their laws kept. -/
theorem Feeder.eases_heldMaps (N : Msg → Prop) (fd : Feeder) (l : List HeldMap)
    (hl : l.length ≤ fd.heldMaps.length)
    (hm : ∀ m ∈ l, ∃ k ∈ fd.heldMaps, MapLawful k.window k.guard k.grants → MapLawful m.window m.guard m.grants) :
    fd.Eases N { fd with heldMaps := l } :=
  { Feeder.Eases.refl N fd with
    bounded := fun h => { h with heldMaps := hl.trans h.heldMaps }
    hunt := fun h => { h with }
    maps := fun ⟨hd, hh⟩ => ⟨hd, fun m hm' => by
      obtain ⟨k, hk, e⟩ := hm m hm'
      exact e (hh k hk)⟩ }

/-- A lawful header composed. -/
theorem Feeder.eases_nextHeader (N : Msg → Prop) (fd : Feeder) (hd : Header)
    (hl : MapLawful hd.window hd.guard hd.grants) (hm : hd.messages.length ≤ 4) :
    fd.Eases N { fd with nextHeader := some hd } :=
  { Feeder.Eases.refl N fd with
    bounded := fun h =>
      { h with
        grants := by rintro _ ⟨⟩; exact hl.count
        messages := by rintro _ ⟨⟩; exact hm }
    hunt := fun h => { h with }
    maps := fun ⟨_, hh⟩ => ⟨by rintro _ ⟨⟩; exact hl, hh⟩ }

/-! ## What a feeder says -/

/-- Every message queued or owed is of `N`. -/
structure Feeder.Says (N : Msg → Prop) (fd : Feeder) : Prop where
  queued : ∀ q ∈ fd.urgent ++ fd.ordinary, N q.msg
  owed : ∀ k m, (fd.record k).owed = some m → N m

theorem Feeder.Softens.says {N : Msg → Prop} {fd x : Feeder} (h : fd.Softens N x) (hs : fd.Says N) : x.Says N where
  queued q hq := (h.queued q hq).elim (hs.queued q) id
  owed k m hm := ((h.records k).owed m hm).elim (hs.owed k m) id

theorem Record.tuned_owe {N : Msg → Prop} (r : Record) {m : Msg} (hm : N m) : r.Tuned N (r.owe m) := by
  unfold Record.owe
  split
  · exact r.tuned_owed N _ fun k hk => .inr (Option.some.inj hk ▸ hm)
  · split
    · exact .refl N r
    · exact r.tuned_owed N _ fun k hk => .inr (Option.some.inj hk ▸ hm)

theorem Record.tuned_clearOwed (N : Msg → Prop) (r : Record) (k : MsgKind) : r.Tuned N (r.clearOwed k) := by
  unfold Record.clearOwed
  split
  · split
    · exact r.tuned_owed N _ fun _ hk => by cases hk
    · exact .refl N r
  · exact .refl N r

/-! ## Offers (R147 to R151) -/

/-- Both bands written, with messages that stood in them or are of `N`, and within their places. -/
theorem Feeder.eases_says {N : Msg → Prop} (fd : Feeder) (u o : List QMsg)
    (hq : ∀ q ∈ u ++ o, q ∈ fd.urgent ++ fd.ordinary ∨ N q.msg)
    (hb : fd.ordinary.length ≤ 24 → fd.urgent.length + fd.ordinary.length ≤ 32 →
      o.length ≤ 24 ∧ u.length + o.length ≤ 32) : fd.Eases N { fd with urgent := u, ordinary := o } :=
  { Feeder.Eases.refl N fd with
    queued := hq
    bounded := fun h => { h with ordinary := (hb h.ordinary h.queue).1, queue := (hb h.ordinary h.queue).2 }
    hunt := fun h => { h with } }

theorem mem_replaceMsg {band : List QMsg} {h : Nat} {m : Msg} {q : QMsg} (hq : q ∈ replaceMsg band h m) :
    q ∈ band ∨ q.msg = m := by
  obtain ⟨p, hp, rfl⟩ := List.mem_map.mp hq
  split
  · exact .inr rfl
  · exact .inl hp

theorem length_replaceMsg (band : List QMsg) (h : Nat) (m : Msg) : (replaceMsg band h m).length = band.length := by
  simp [replaceMsg]

theorem Feeder.eases_latchQueueFull (N : Msg → Prop) (fd : Feeder) : fd.Eases N fd.latchQueueFull :=
  Feeder.eases_of_quiet N id rfl

theorem Feeder.eases_owe {N : Msg → Prop} (fd : Feeder) (h : Nat) {m : Msg} (hm : N m) :
    fd.Eases N (fd.modRecord h (·.owe m)) :=
  Feeder.eases_modRecord (Record.tuned_owe _ hm)

theorem Feeder.eases_offerOrdinary {N : Msg → Prop} (fd : Feeder) (h : Nat) {m : Msg} (hm : N m) :
    fd.Eases N (fd.offerOrdinary h m) := by
  unfold Feeder.offerOrdinary
  split
  · refine fd.eases_says fd.urgent _ (fun q hq => ?_) fun h1 h2 => by rw [length_replaceMsg]; exact ⟨h1, h2⟩
    rcases List.mem_append.mp hq with hq | hq
    · exact .inl (List.mem_append_left _ hq)
    · exact (mem_replaceMsg hq).imp (List.mem_append_right _) fun e => by rwa [e]
  · split
    · exact fd.eases_owe h hm
    · split
      · next hroom =>
        obtain ⟨h1, h2⟩ := fd.ordinaryRoom_iff.mp hroom
        refine fd.eases_says fd.urgent _ (fun q hq => ?_) fun _ _ => by simp; omega
        simp only [List.mem_append, List.mem_singleton] at hq ⊢
        rcases hq with hq | hq | rfl
        · exact .inl (.inl hq)
        · exact .inl (.inr hq)
        · exact .inr hm
      · exact (fd.eases_owe h hm).trans (Feeder.eases_latchQueueFull N _)

theorem Feeder.eases_offerUrgent {N : Msg → Prop} (fd : Feeder) (hs : fd.Says N) (h : Nat) {m : Msg} (hm : N m) :
    fd.Eases N (fd.offerUrgent h m) := by
  unfold Feeder.offerUrgent
  split
  · refine fd.eases_says _ fd.ordinary (fun q hq => ?_) fun h1 h2 => by rw [length_replaceMsg]; exact ⟨h1, h2⟩
    rcases List.mem_append.mp hq with hq | hq
    · exact (mem_replaceMsg hq).imp (List.mem_append_left _) fun e => by rwa [e]
    · exact .inl (List.mem_append_right _ hq)
  · split
    · next hroom =>
      have hroom : fd.urgent.length + fd.ordinary.length < 32 := hroom
      refine fd.eases_says _ fd.ordinary (fun q hq => ?_) fun h1 _ => ⟨h1, by simp; omega⟩
      simp only [List.mem_append, List.mem_singleton] at hq ⊢
      rcases hq with (hq | rfl) | hq
      · exact .inl (.inl hq)
      · exact .inr hm
      · exact .inl (.inr hq)
    · split
      · next q hlast =>
        have hq : q ∈ fd.ordinary := List.mem_of_getLast? hlast
        have hmoved : N q.msg := hs.queued q (List.mem_append_right _ hq)
        have hpos := List.length_pos_of_mem hq
        refine (Feeder.Eases.trans (fd.eases_says (fd.urgent ++ [{ handle := h, msg := m }]) fd.ordinary.dropLast
          (fun p hp => ?_) fun _ _ => by simp; omega) (Feeder.eases_owe _ q.handle hmoved)).trans
          (Feeder.eases_latchQueueFull N _)
        simp only [List.mem_append, List.mem_singleton] at hp ⊢
        rcases hp with (hp | rfl) | hp
        · exact .inl (.inl hp)
        · exact .inr hm
        · exact .inl (.inr (List.mem_of_mem_dropLast hp))
      · exact (fd.eases_owe h hm).trans (Feeder.eases_latchQueueFull N _)

theorem Feeder.eases_offer {N : Msg → Prop} (fd : Feeder) (hs : fd.Says N) (h : Nat) {m : Msg} (hm : N m) :
    fd.Eases N (fd.offer h m) := by
  unfold Feeder.offer
  split
  · exact fd.eases_offerUrgent hs h hm
  · exact fd.eases_offerOrdinary h hm

theorem Feeder.eases_clearOwed (N : Msg → Prop) (fd : Feeder) (h : Nat) (k : MsgKind) :
    fd.Eases N (fd.modRecord h (·.clearOwed k)) :=
  Feeder.eases_modRecord (Record.tuned_clearOwed N _ k)

theorem Feeder.eases_offerHush {N : Msg → Prop} (fd : Feeder) (hs : fd.Says N) (h : Nat) (hm : N .hush) :
    fd.Eases N (fd.offerHush h) :=
  have he := fd.eases_clearOwed N h .resume
  he.trans (Feeder.eases_offerUrgent _ (he.says hs) h hm)

theorem Feeder.eases_offerResume {N : Msg → Prop} (fd : Feeder) (hs : fd.Says N) (h : Nat) (hm : N .resume) :
    fd.Eases N (fd.offerResume h) :=
  have he := fd.eases_clearOwed N h .hush
  he.trans (Feeder.eases_offerUrgent _ (he.says hs) h hm)

theorem Feeder.eases_reoffer {N : Msg → Prop} (fd : Feeder) (hs : fd.Says N) (h : Nat) :
    fd.Eases N (fd.reoffer h) := by
  unfold Feeder.reoffer
  split
  · exact .refl N fd
  · next m hm =>
    have he : fd.Eases N (fd.modRecord h fun r => { r with owed := none }) :=
      Feeder.eases_modRecord (Record.tuned_owed N _ none fun _ hk => by cases hk)
    exact he.trans (Feeder.eases_offer _ (he.says hs) h (hs.owed h m hm))

theorem Feeder.eases_reofferAll {N : Msg → Prop} (fd : Feeder) (hs : fd.Says N) : fd.Eases N fd.reofferAll := by
  unfold Feeder.reofferAll
  generalize List.range' 1 255 = l
  induction l generalizing fd with
  | nil => exact .refl N fd
  | cons h l ih =>
    have he := fd.eases_reoffer hs h
    exact he.trans (ih _ (he.says hs))

theorem Feeder.eases_removeOrdinary (N : Msg → Prop) (fd : Feeder) (h : Nat) : fd.Eases N (fd.removeOrdinary h) :=
  fd.eases_bands N (.refl _) List.filter_sublist

theorem Feeder.eases_removeUnsent (N : Msg → Prop) (fd : Feeder) (h : Nat) (k : MsgKind) :
    fd.Eases N (fd.removeUnsent h k) :=
  (fd.eases_bands N (.refl _) List.filter_sublist).trans (Feeder.eases_clearOwed N _ h k)

/-! ## The hunt (R160 to R165) -/

theorem Feeder.eases_endStray (N : Msg → Prop) (fd : Feeder) : fd.Eases N fd.endStray :=
  fd.eases_hunt N idleHunt false 0 (.inr rfl) fun _ => by constructor <;> simp [idleHunt]

theorem Feeder.eases_releaseHeld {N : Msg → Prop} (fd : Feeder) (hs : fd.Says N) (hm : N .resume) :
    fd.Eases N fd.releaseHeld := by
  unfold Feeder.releaseHeld
  split
  · exact .refl N fd
  · split
    · exact .refl N fd
    · exact fd.eases_offerResume hs _ hm

theorem Feeder.eases_endHunt {N : Msg → Prop} (fd : Feeder) (hs : fd.Says N) (hm : N .resume) :
    fd.Eases N fd.endHunt :=
  (fd.eases_releaseHeld hs hm).trans (Feeder.eases_endStray N _)

theorem Feeder.Talked.hunt {a b : Feeder} (h : a.Talked b) : b.hunt = a.hunt := by rw [h.rest]

theorem Feeder.Talked.stray {a b : Feeder} (h : a.Talked b) : b.stray = a.stray := by rw [h.rest]

/-- The hunt record written with its state and its target kept, and a phase where it had one. -/
theorem Feeder.eases_huntPhase (N : Msg → Prop) (fd : Feeder) (hh : Hunt) (hs : hh.state = fd.hunt.state)
    (ht : hh.target = fd.hunt.target)
    (hp : fd.hunt.phase.isSome = fd.hunt.target.isSome → hh.phase.isSome = fd.hunt.phase.isSome)
    (hc : fd.HuntSound → (hh.hushCycle.isSome = true ↔ hh.phase = some .watching)) :
    fd.Eases N { fd with hunt := hh } :=
  fd.eases_hunt N hh fd.stray fd.strayRun (.inl ht) fun k =>
    { idle := by rw [← k.idle]; simp [hs]
      target := by simpa [hs, ht] using k.target
      phase := by simpa [hp k.phase, ht] using k.phase
      hushCycle := hc k }

theorem Feeder.eases_releaseTarget {N : Msg → Prop} (fd : Feeder) (hs : fd.Says N) (hm : N .resume) (h : Nat)
    (ht : fd.hunt.target = some h) : fd.Eases N (fd.releaseTarget h) := by
  have hh : (fd.offerResume h).hunt = fd.hunt := (Feeder.talked_offerUrgent _ h _).hunt.trans (by simp)
  refine (fd.eases_offerResume hs h hm).trans (Feeder.eases_huntPhase N _ _ (by rw [hh]) (by rw [hh])
    (fun e => ?_) fun _ => by simp)
  rw [e, hh, ht]
  rfl

/-- The dispatch of a HUSH (R159). -/
theorem Feeder.eases_hushSent (N : Msg → Prop) (fd : Feeder) (n : CycleNumber) (h : Nat) :
    fd.Eases N (fd.hushSent n h) := by
  unfold Feeder.hushSent
  split
  · next e =>
    obtain ⟨_, _, hp⟩ := e
    exact fd.eases_huntPhase N _ rfl rfl (fun _ => by simp [hp]) fun _ => by simp
  · exact .refl N fd

/-! ## Windows and subgroups (R62, R66 to R71) -/

theorem Fan.bits_le (x : Fan) : 2 ^ x.bits ≤ 8 := by cases x <;> decide

theorem length_pollChildren (o : PollOrder) (f s : Nat) : (pollChildren o f s).length = f := by simp [pollChildren]

theorem Feeder.eases_count (N : Msg → Prop) (fd : Feeder) (n : CounterName) (k : Nat) : fd.Eases N (fd.count n k) :=
  Feeder.eases_of_quiet N id rfl

theorem Feeder.eases_split (N : Msg → Prop) (fd : Feeder) (g : Subgroup) : fd.Eases N (fd.split g) := by
  unfold Feeder.split
  simp only
  split
  · split
    · next h =>
      have h : fd.splitList.length < 24 := h
      exact fd.eases_splitList N _ fun _ => by simpa using h
    · exact .refl N fd
  · next h =>
    have hroom : fd.splitList.length + 2 ^ fd.settings.fan.bits ≤ 24 := Nat.le_of_not_lt fun e => h (.inr e)
    have hlen : ((pollChildren fd.settings.pollOrder (2 ^ fd.settings.fan.bits)
        (fd.splitCounter % 2 ^ fd.settings.fan.bits)).map (g.child fd.settings.fan.bits) ++ fd.splitList).length ≤ 24 := by
      rw [List.length_append, List.length_map, length_pollChildren, Nat.add_comm]; exact hroom
    exact (fd.eases_splitList N _ fun _ => hlen).trans (Feeder.eases_of_quiet N id rfl)

theorem Feeder.eases_takeOutcome (N : Msg → Prop) (fd : Feeder) (o : WindowOutcome) (g : Subgroup) :
    fd.Eases N (fd.takeOutcome o g) := by
  cases o with
  | collided => exact (fd.eases_count N _ _).trans (Feeder.eases_split N _ g)
  | clean => exact .refl N fd
  | silent => exact .refl N fd

theorem Feeder.eases_placeCallIn (N : Msg → Prop) (fd : Feeder) (g : Subgroup) : fd.Eases N (fd.placeCallIn g) :=
  (fd.eases_splitList N fd.splitList.tail fun h => by simp; omega).trans (Feeder.eases_of_quiet N id rfl)

/-! ## Levels (R124) -/

theorem Feeder.eases_endWalk {N : Msg → Prop} (fd : Feeder) (hm : N .admission) (h : Nat) : fd.Eases N (fd.endWalk h) := by
  unfold Feeder.endWalk
  simp only
  refine (fd.eases_removeUnsent N h .step).trans ?_
  split
  · exact Feeder.eases_offerOrdinary _ h hm
  · exact Feeder.eases_modRecord { Record.Tuned.refl N _ with range := fun _ k => { k with levelRun := Nat.zero_le _ } }

/-! ## Arrivals (R91, R96, R100) -/

theorem Feeder.eases_mergeArrival (N : Msg → Prop) (fd : Feeder) (n : Serial) {m : Measurement}
    (hm : m.Fits fd.settings) : fd.Eases N (fd.mergeArrival n m) :=
  fd.eases_mapArrivals N _ (fun a => by split <;> rfl) fun a _ => by
    split
    · exact .inr hm
    · exact .inl rfl

theorem Feeder.eases_readyArrival (N : Msg → Prop) (fd : Feeder) (n : Serial) (p : Fin 8) :
    fd.Eases N (fd.readyArrival n p) :=
  fd.eases_mapArrivals N _ (fun a => by split <;> rfl) fun a _ => .inl (by split <;> rfl)

theorem Feeder.eases_rehold (N : Msg → Prop) (fd : Feeder) (n : Serial) (r : HeldReason) (l : Option ArrivalLink) :
    fd.Eases N (fd.rehold n r l) :=
  fd.eases_mapArrivals N _ (fun a => by split <;> rfl) fun a _ => .inl (by split <;> rfl)

theorem length_addExpired (l : List Serial) (n : Serial) : l.length ≤ 16 → (addExpired l n).length ≤ 16 := by
  intro h
  have hk : (l.filter fun x => decide (x ≠ n)).length ≤ 16 := (List.length_filter_le _ _).trans h
  unfold addExpired Config.expiryCapacity
  simp only [List.length_append, List.length_singleton]
  split
  · omega
  · simp only [List.length_drop]; omega

/-! ## Held maps (R132, R139) -/

theorem MapLawful.of_map {w : Option Window} {guard : Nat} {gs : List Grant} (c : Grant → Grant)
    (hc : ∀ g, (c g).offset = g.offset ∧ (c g).length = g.length ∧ (c g).kind = g.kind ∧ (c g).handle = g.handle)
    (h : MapLawful w guard gs) : MapLawful w guard (gs.map c) where
  count := by simpa using h.count
  apart := List.pairwise_map.mpr (h.apart.imp fun {a b} k => by
    obtain ⟨e1, e2, -, -⟩ := hc a
    obtain ⟨e3, -, -, -⟩ := hc b
    rw [e1, e2, e3]; exact k)
  behindWindow v hv g hg := by
    obtain ⟨k, hk, rfl⟩ := List.mem_map.mp hg
    rw [(hc k).1]; exact h.behindWindow v hv k hk
  ends g hg := by
    obtain ⟨k, hk, rfl⟩ := List.mem_map.mp hg
    obtain ⟨e1, e2, -, -⟩ := hc k
    rw [e1, e2]; exact h.ends k hk
  distinct := by
    have : (gs.map c).map (fun g => (g.kind, g.handle)) = gs.map fun g => (g.kind, g.handle) := by
      simp only [List.map_map, Function.comp_def, fun g => (hc g).2.2.1, fun g => (hc g).2.2.2]
    rw [this]; exact h.distinct
  whole g hg := by
    obtain ⟨k, hk, rfl⟩ := List.mem_map.mp hg
    rw [(hc k).2.1]; exact h.whole k hk

theorem Feeder.eases_modMap (N : Msg → Prop) (fd : Feeder) (n : CycleNumber) (g : HeldMap → HeldMap)
    (hg : ∀ m, MapLawful m.window m.guard m.grants → MapLawful (g m).window (g m).guard (g m).grants) :
    fd.Eases N (fd.modMap n g) :=
  fd.eases_heldMaps N _ (by simp) fun m hm => by
    obtain ⟨k, hk, rfl⟩ := List.mem_map.mp hm
    refine ⟨k, hk, ?_⟩
    split
    · exact hg k
    · exact id

theorem HeldMap.lawful_modGrant (m : HeldMap) (kind : GrantKind) (h : Nat) (c : Grant → Grant)
    (hc : ∀ g, (c g).offset = g.offset ∧ (c g).length = g.length ∧ (c g).kind = g.kind ∧ (c g).handle = g.handle)
    (hm : MapLawful m.window m.guard m.grants) :
    MapLawful (m.modGrant kind h c).window (m.modGrant kind h c).guard (m.modGrant kind h c).grants :=
  hm.of_map _ fun g => by
    split
    · exact hc g
    · exact ⟨rfl, rfl, rfl, rfl⟩

theorem length_lastTwo {α : Type} (l : List α) : (lastTwo l).length ≤ 2 := by
  unfold lastTwo; rw [List.length_drop]; omega

theorem mem_of_mem_lastTwo {α : Type} {l : List α} {a : α} (h : a ∈ lastTwo l) : a ∈ l := List.mem_of_mem_drop h

/-- A header sent: its map becomes a held map (R132). -/
theorem Feeder.eases_send (N : Msg → Prop) (fd : Feeder) : fd.Eases N fd.send := by
  unfold Feeder.send
  split
  · exact .refl N fd
  · next hd e =>
    exact { Feeder.Eases.refl N fd with
      bounded := fun h =>
        { h with heldMaps := length_lastTwo _, grants := fun _ k => (by cases k), messages := fun _ k => by cases k }
      hunt := fun h => { h with }
      maps := fun ⟨h1, h2⟩ => ⟨fun _ k => (by cases k), fun m hm => by
        rcases List.mem_append.mp (mem_of_mem_lastTwo hm) with hm | hm
        · exact h2 m hm
        · rw [List.mem_singleton.mp hm]; exact h1 hd e⟩ }

/-! ## A cycle start (R28, R29) -/

theorem Record.tuned_tick (N : Msg → Prop) (r : Record) : r.Tuned N r.tick :=
  { Record.Tuned.refl N r with range := fun _ h => { h with } }

theorem Feeder.record_map (fd : Feeder) (g : Record → Record) (hg : g freeRecord = freeRecord) (k : Nat) :
    Feeder.record { fd with table := fd.table.map g } k = g (fd.record k) := by
  unfold Feeder.record
  split
  · exact hg.symm
  · simp only [Vector.getElem?_map]
    cases fd.table[k - 1]? <;> simp [hg]

theorem Feeder.eases_tick (N : Msg → Prop) (fd : Feeder) : fd.Eases N fd.tick := by
  have ht : fd.Eases N { fd with table := fd.table.map (·.tick) } :=
    Feeder.eases_table N rfl fun k => by
      rw [Feeder.record_map fd _ rfl k]; exact Record.tuned_tick N _
  refine (ht.trans (Feeder.eases_mapArrivals N _ (fun a => if fd.state = .opened then a.tick else a) (fun a => ?_)
    fun a _ => .inl ?_)).trans (Feeder.eases_of_quiet N id ?_)
  · unfold Arrival.tick; split <;> (try split) <;> rfl
  · unfold Arrival.tick; split <;> (try split) <;> rfl
  · unfold Feeder.tick
    by_cases h : fd.state = .opened <;> simp [h]

theorem Feeder.eases_startCycle (N : Msg → Prop) (fd : Feeder) : fd.Eases N fd.startCycle := by
  unfold Feeder.startCycle
  split
  · exact (fd.eases_send N).trans (Feeder.eases_tick N _)
  · exact .refl N fd

theorem Feeder.eases_endSequence (N : Msg → Prop) (fd : Feeder) : fd.Eases N fd.endSequence := by
  unfold Feeder.endSequence
  split
  · split
    · exact Feeder.eases_of_quiet N (fun _ => by simp [Feeder.endQuiet]) rfl
    · exact Feeder.eases_of_quiet N (fun _ => by simp [Feeder.endPurge]) rfl
    · exact .refl N fd
  · exact .refl N fd

theorem Feeder.length_drainDown (fd : Feeder) (l : List DownFrame) (n : Nat) : (fd.drainDown l n).2.1.length ≤ l.length := by
  induction l generalizing n with
  | nil => simp [Feeder.drainDown]
  | cons d l ih =>
    unfold Feeder.drainDown
    split
    · exact (ih n).trans (Nat.le_succ _)
    · split
      · exact (ih _).trans (Nat.le_succ _)
      · exact le_refl _

theorem Feeder.eases_sendDown (N : Msg → Prop) (fd : Feeder) : fd.Eases N fd.sendDown := by
  unfold Feeder.sendDown
  split
  · exact .refl N fd
  · next c _ =>
    exact (fd.eases_downBuffer N _ fun h => (fd.length_drainDown fd.downBuffer c.budget).trans h).trans
      (Feeder.eases_of_quiet N id rfl)

/-! ## One countdown's end -/

theorem Feeder.eases_quietEnd (N : Msg → Prop) (fd : Feeder) : fd.Eases N fd.quietEnd := by
  unfold Feeder.quietEnd
  split
  · exact Feeder.eases_of_quiet N (fun _ => by simp [Feeder.endQuiet]) rfl
  · exact .refl N fd

theorem Feeder.eases_purgeEnd (N : Msg → Prop) (fd : Feeder) : fd.Eases N fd.purgeEnd := by
  unfold Feeder.purgeEnd
  split
  · exact Feeder.eases_of_quiet N (fun _ => by simp [Feeder.endPurge]) rfl
  · exact .refl N fd

theorem Feeder.eases_gapEnd (N : Msg → Prop) (fd : Feeder) : fd.Eases N fd.gapEnd := by
  unfold Feeder.gapEnd
  split
  · exact Feeder.eases_of_quiet N id rfl
  · exact .refl N fd

theorem Feeder.eases_rootEnd (N : Msg → Prop) (fd : Feeder) : fd.Eases N fd.rootEnd := by
  unfold Feeder.rootEnd
  split
  · exact Feeder.eases_of_quiet N id rfl
  · exact .refl N fd

/-- The ends of a record's own countdowns reach nothing but the countdown. -/
theorem Record.tuned_countdownEnds (N : Msg → Prop) (r : Record) :
    r.Tuned N r.watchEnd ∧ r.Tuned N r.checkEnd ∧ r.Tuned N r.dataEnd ∧ r.Tuned N r.paceEnd := by
  unfold Record.watchEnd Record.checkEnd Record.dataEnd Record.paceEnd
  refine ⟨?_, ?_, ?_, ?_⟩ <;> split <;>
    exact { Record.Tuned.refl N r with range := fun _ h => { h with } }

end Sys2Proof.Machine

/-! PROOFS. The updates of the state that an invariant has to be followed through, as one structure, and the shared operations
assembled from them: a property that has the structure's fields is kept by every event of a feeder. -/
namespace Sys2Proof.Machine

open Sys2Proof

/-! ## What an update finds -/

/-- The serial may be barred: an EJECTED record holds it, or no active record does, or it waits in a list of arrivals. -/
def State.Barrable (s : State) (n : Serial) : Prop :=
  (∃ f h, (s.record f h).serial = some n ∧ (s.record f h).state = .ejected) ∨ s.heldActive n = false ∨
    ∃ f, ∃ a ∈ (s.fd f).arrivals, a.serial = n

/-- The serial may join the arrivals of a feeder (R90, R91). -/
structure State.Joinable (s : State) (f : FeederId) (n : Serial) : Prop where
  unbarred : s.isBarred n = false
  unheld : ∀ g k, ¬ s.holds g k n
  fresh : ∀ a ∈ (s.fd f).arrivals, a.serial ≠ n
  room : (s.fd f).arrivals.length < 16

/-- The arrival may be named with the link: no live record holds its serial, and the entry stands for it (R92, R100). -/
structure State.Nameable (s : State) (a : Arrival) (link : Option Nat) : Prop where
  unheld : ∀ g k, ¬ s.holds g k a.serial
  linked : ∀ i, link = some i → (s.planAt i).inUse = true ∧
    ((s.planAt i).kind = .exact → (s.planAt i).serial = a.serial) ∧
    ((s.planAt i).kind = .pattern → (s.planAt i).count ≠ (s.planAt i).limit)

/-- The arrival named, before its NAME is offered: the record filled, the plan's link taken, its arrivals gone (R101). -/
def State.named (s : State) (f : FeederId) (h : Nat) (a : Arrival) (link : Option Nat) (p : Fin 8) : State :=
  (((s.modFd f (·.setRecord h (a.record link p))).takeLink link f h).dropArrivals a.serial)

/-- The hunt record with a target chosen (R158). -/
def Hunt.choose (t : Hunt) (h : Nat) : Hunt :=
  { t with target := some h, phase := some .hushOffered, nextHandle := h + 1, hushCycle := none, watchCd := 0 }

/-- The hunt record without a target. -/
def Hunt.noTarget (t : Hunt) : Hunt := { t with target := none, phase := none, hushCycle := none, watchCd := 0 }

/-- The count of equalisation attempts written. -/
def Record.attempted (n : Nat) (r : Record) : Record := { r with eqAttempts := n }

/-- STRAY set with its flag and its notice, and a hunt started (R45, R158). -/
def State.beginStray (s : State) (f : FeederId) : State :=
  ((s.modFd f fun fd => Feeder.latchStray { fd with stray := true }).raise .stray { feeder := some f }).startHunt f

/-- `P` is kept when a frame joins the upstream buffer. -/
def KeepsForward (P : State → Prop) : Prop :=
  ∀ s u, P s → s.upBuffer.length < 128 → P { s with upBuffer := s.upBuffer ++ [u] }

/-- `P` is kept by every update that an event of a feeder makes, the forwarding of frames aside. `L` says which feeders
have events, `M` which messages a feeder may hold, `A` which arrivals may be named. -/
structure Keeps (L : FeederId → Prop) (M : Settings → Msg → Prop) (A : List BarEntry → Settings → Arrival → Prop)
    (P : State → Prop) : Prop where
  fits : ∀ x m, m.Fits x → M x m
  names : ∀ b x a, A b x a → M x (.name a.serial a.measured.eqd)
  tells : ∀ s f, P s → (s.fd f).Says (M (s.fd f).settings)
  arrival : ∀ s f a, P s → a ∈ (s.fd f).arrivals → A s.bars (s.fd f).settings a
  raise : ∀ s k n, P s → P (s.raise k n)
  ease : ∀ s f x, L f → P s → (s.fd f).Eases (M (s.fd f).settings) x → P (s.setFd f x)
  culprit : ∀ s f h, L f → P s → (s.fd f).hunt.target = some h →
    P (s.modRecord f h fun r => { r with state := .hushed, heldFrom := none })
  chooseTarget : ∀ s f, L f → P s → (s.fd f).hunt.target.isSome = true → P (s.chooseTarget f)
  beginStray : ∀ s f, L f → P s → (s.fd f).stray = false → P (s.beginStray f)
  eject : ∀ s f h n reason, L f → P s → (s.record f h).state.active = true → n ≤ (s.record f h).eqAttempts + 1 →
    P ((s.modRecord f h (.attempted n)).eject f h reason)
  bar : ∀ s n, P s → s.Barrable n → P (s.bar n)
  join : ∀ s f (a : Arrival), L f → P s → s.Joinable f a.serial → a.measured.Fits (s.fd f).settings →
    P (s.modFd f fun fd => { fd with arrivals := fd.arrivals ++ [a] })
  name : ∀ s f h a link p, L f → P s → A s.bars (s.fd f).settings a → s.Nameable a link → 1 ≤ h → h ≤ 255 →
    (s.record f h).state = .free → P (s.named f h a link p)
  tearDown : ∀ s f h, L f → P s → (s.record f h).state = .ejected → P (s.tearDown f h)
  windows : ∀ s ws, P s → ws.length ≤ s.windows.length →
    (∀ w ∈ ws, ∃ v ∈ s.windows, v.feeder = w.feeder) → P { s with windows := ws }
  addWindow : ∀ s f n w, L f → P s → P { s with windows := lastTwo (s.windows ++ [newWindowRecord f n w]) }
  award : ∀ s a l, P s → P (s.withAward a l)

/-! ## Updates of one feeder -/

section

variable {L : FeederId → Prop} {M : Settings → Msg → Prop} {A : List BarEntry → Settings → Arrival → Prop}
  {P : State → Prop} {s : State} {f : FeederId}

theorem Keeps.plain (K : Keeps L M A P) (x : Settings) {m : Msg} (hr : m.residue? = none) (hd : m.delay? = none) : M x m :=
  K.fits x m (Msg.fits_of_plain hr hd)

theorem Keeps.easeFd (K : Keeps L M A P) (hL : L f) (hs : P s) {g : Feeder → Feeder}
    (h : (s.fd f).Says (M (s.fd f).settings) → (s.fd f).Eases (M (s.fd f).settings) (g (s.fd f))) :
    P (s.modFd f g) :=
  K.ease s f _ hL hs (h (K.tells s f hs))

theorem Keeps.tune (K : Keeps L M A P) (hL : L f) (hs : P s) {h : Nat} {g : Record → Record}
    (hg : (s.record f h).Tuned (M (s.fd f).settings) (g (s.record f h))) : P (s.modRecord f h g) :=
  K.ease s f _ hL hs (Feeder.eases_modRecord hg)

/-- A record's fields written that lie in no identity, with its ranges kept. -/
theorem Keeps.tuneRange (K : Keeps L M A P) (hL : L f) (hs : P s) (h : Nat) {g : Record → Record}
    (hg : ∀ r : Record, (g r).serial = r.serial ∧ (g r).planLink = r.planLink ∧ (g r).state = r.state ∧
      (g r).eqd = r.eqd ∧ (g r).owed = r.owed)
    (hr : (s.record f h).InRange → (g (s.record f h)).InRange) : P (s.modRecord f h g) := by
  obtain ⟨h1, h2, h3, h4, h5⟩ := hg (s.record f h)
  exact K.tune hL hs
    { serial := h1, planLink := h2, active := by rw [h3], live := by rw [h3], eqd := .inl h4
      owed := fun m hm => .inl (h5 ▸ hm), range := fun _ => hr }

/-! ## Ejection and barring (R12 to R25) -/

end

theorem RecState.bounds_of_active {s : State} {f : FeederId} {h : Nat} (ha : (s.record f h).state.active = true) :
    1 ≤ h ∧ h ≤ 255 := by
  by_contra hb
  rw [State.record_of_out s f h (by omega)] at ha
  cases ha

theorem Feeder.says_true (fd : Feeder) : fd.Says fun _ => True := ⟨fun _ _ => trivial, fun _ _ _ => trivial⟩

theorem State.chooseTarget_of_some {s : State} {f : FeederId} {k : Nat}
    (e : (s.fd f).firstFrom (s.fd f).hunt.nextHandle (·.state.carriesTraffic) = some k) :
    s.chooseTarget f =
      s.setFd f (Feeder.offerHush
        { ((s.fd f).modRecord k fun r => { r.endWatch with state := .huntHeld, heldFrom := r.state.heldFrom }) with
          hunt := (s.fd f).hunt.choose k } k) := by
  simp only [State.chooseTarget, e]
  rfl

theorem State.chooseTarget_of_none {s : State} {f : FeederId}
    (e : (s.fd f).firstFrom (s.fd f).hunt.nextHandle (·.state.carriesTraffic) = none) :
    s.chooseTarget f =
      (s.setFd f { s.fd f with hunt := { (s.fd f).hunt.noTarget with state := .stopped } }).raise .strayUnresolved
        { feeder := some f } := by
  simp only [State.chooseTarget, e]
  rfl

/-- The same terminal stands in both records: its serial, its plan link, and whether there is one. -/
structure Record.SameHolder (r q : Record) : Prop where
  serial : q.serial = r.serial
  planLink : q.planLink = r.planLink
  live : q.state.live = r.state.live

theorem Record.Tuned.sameHolder {N : Msg → Prop} {r q : Record} (h : r.Tuned N q) : r.SameHolder q :=
  ⟨h.serial, h.planLink, h.live⟩

theorem Record.SameHolder.trans {a b c : Record} (h : a.SameHolder b) (k : b.SameHolder c) : a.SameHolder c :=
  ⟨k.serial.trans h.serial, k.planLink.trans h.planLink, k.live.trans h.live⟩

/-- A record of a table written by one that holds the same terminal. -/
theorem Feeder.sameHolder_modRecord (fd : Feeder) (h k : Nat) (g : Record → Record)
    (hg : (fd.record h).SameHolder (g (fd.record h))) : (fd.record k).SameHolder ((fd.modRecord h g).record k) := by
  rw [Feeder.modRecord_eq, Feeder.record_setRecord]
  split
  · next e => rw [← e.1]; exact hg
  · exact ⟨rfl, rfl, rfl⟩

/-- A candidate becomes the hunt's target: it stays the record it was (R158). -/
theorem Record.tuned_huntHeld (N : Msg → Prop) (r : Record) (hr : r.state.carriesTraffic = true) :
    r.Tuned N { r.endWatch with state := .huntHeld, heldFrom := r.state.heldFrom } := by
  have ha : r.state.active = true := by
    cases e : r.state <;> simp_all [RecState.carriesTraffic, RecState.active]
  unfold Record.endWatch
  split <;> exact { Record.tuned_state N r .huntHeld ha rfl with
    range := fun _ k => { k with activeAttempts := fun _ => k.activeAttempts ha } }

theorem Feeder.firstFrom_test {fd : Feeder} {start h : Nat} {p : Record → Bool} (e : fd.firstFrom start p = some h) :
    1 ≤ h ∧ h ≤ 255 ∧ p (fd.record h) = true := by
  have e' : fd.firstFrom (max start 1) p = some h := by
    rw [← e]
    unfold Feeder.firstFrom
    rw [show max start 1 - 1 = start - 1 by omega, show max (max start 1) 1 = max start 1 by omega]
  obtain ⟨h1, h2, h3, -⟩ := Feeder.firstFrom_eq_some fd _ p h (by omega) e'
  exact ⟨by omega, h2, h3⟩

/-- A choice of the hunt's target moves no terminal. -/
theorem State.sameHolder_chooseTarget (s : State) (f : FeederId) (k : Nat) :
    (s.record f k).SameHolder ((s.chooseTarget f).record f k) := by
  cases e : (s.fd f).firstFrom (s.fd f).hunt.nextHandle (·.state.carriesTraffic) with
  | none =>
    rw [State.chooseTarget_of_none e, State.record_raise]
    unfold State.record
    rw [State.fd_setFd]
    exact ⟨rfl, rfl, rfl⟩
  | some j =>
    rw [State.chooseTarget_of_some e]
    unfold State.record
    rw [State.fd_setFd]
    refine Record.SameHolder.trans ?_ ((Feeder.eases_offerHush _ (Feeder.says_true _) j trivial).records k).sameHolder
    exact (s.fd f).sameHolder_modRecord j k _
      (Record.tuned_huntHeld (fun _ => True) _ (Feeder.firstFrom_test e).2.2).sameHolder

theorem Feeder.eases_ejectRecord {N : Msg → Prop} (fd : Feeder) (h : Nat) (reason : EjectReason)
    (hs : (fd.modRecord h (·.ejectFor reason)).Says N) (hm : ∀ r, N (.eject r)) :
    (fd.modRecord h (·.ejectFor reason)).Eases N (fd.ejectRecord h reason) := by
  have he := (fd.modRecord h (·.ejectFor reason)).eases_removeOrdinary N h
  unfold Feeder.ejectRecord
  simp only
  split
  · exact he
  · exact he.trans (Feeder.eases_offerUrgent _ (he.says hs) h (hm _))

/-- The ejection of an active record, its two parts in a row (R12, R164). -/
theorem State.eject_of_active {s : State} {f : FeederId} {h : Nat} {reason : EjectReason}
    (ha : (s.record f h).state.active = true) :
    s.eject f h reason =
      State.huntEjected ((s.modFd f (·.ejectRecord h reason)).raise .ejected
        { feeder := some f, handle := some h, serial := (s.record f h).serial
          dwelling := s.dwellingOf (s.record f h).planLink, reason := some (.eject reason) }) f h := by
  simp only [State.eject, ha, if_true]

/-- An ejection moves no terminal. -/
theorem State.sameHolder_eject (s : State) (f : FeederId) (h : Nat) (reason : EjectReason) (k : Nat) :
    (s.record f k).SameHolder ((s.eject f h reason).record f k) := by
  cases ha : (s.record f h).state.active with
  | false => rw [State.eject_of_inactive s f h reason ha]; exact ⟨rfl, rfl, rfl⟩
  | true =>
    have he : (s.record f k).SameHolder ((s.modFd f (·.ejectRecord h reason)).record f k) := by
      unfold State.record
      rw [State.fd_modFd]
      refine Record.SameHolder.trans ?_
        (((s.fd f).eases_ejectRecord h reason (Feeder.says_true _) fun _ => trivial).records k).sameHolder
      exact (s.fd f).sameHolder_modRecord h k _ ⟨rfl, rfl, (RecState.live_of_active ha).symm⟩
    rw [State.eject_of_active ha]
    unfold State.huntEjected
    split
    · refine Record.SameHolder.trans ?_ (State.sameHolder_chooseTarget _ f k)
      unfold State.record at he ⊢
      rw [State.fd_modFd, State.fd_raise]
      exact he
    · rw [State.record_raise]; exact he

section

variable {L : FeederId → Prop} {M : Settings → Msg → Prop} {A : List BarEntry → Settings → Arrival → Prop}
  {P : State → Prop} {s : State} {f : FeederId}

theorem Keeps.ejectAndBar (K : Keeps L M A P) (hL : L f) (hs : P s) {h n : Nat} (reason : EjectReason)
    (ha : (s.record f h).state.active = true) (hn : n ≤ (s.record f h).eqAttempts + 1) :
    P ((s.modRecord f h (.attempted n)).ejectAndBar f h reason) := by
  obtain ⟨h1, h2⟩ := RecState.bounds_of_active ha
  have he := K.eject s f h n reason hL hs ha hn
  have ha' : ((s.modRecord f h (.attempted n)).record f h).state.active = true := by
    rw [State.record_modRecord_self s f h _ h1 h2]; exact ha
  unfold State.ejectAndBar State.barHeld
  split
  · next m hm =>
    refine K.bar _ m he (.inl ⟨f, h, ?_, State.eject_state _ f h h1 h2 reason ha'⟩)
    rw [(State.sameHolder_eject _ f h reason h).serial]; exact hm
  · exact he

theorem State.modRecord_attempted_self (s : State) (f : FeederId) (h : Nat) :
    s.modRecord f h (.attempted (s.record f h).eqAttempts) = s := by
  rw [State.modRecord_eq]
  show s.setFd f ((s.fd f).setRecord h ((s.fd f).record h)) = s
  rw [Feeder.setRecord_record, State.setFd_fd]

theorem Keeps.ejectPlain (K : Keeps L M A P) (hL : L f) (hs : P s) {h : Nat} (reason : EjectReason)
    (ha : (s.record f h).state.active = true) : P (s.eject f h reason) := by
  have := K.eject s f h (s.record f h).eqAttempts reason hL hs ha (Nat.le_succ _)
  rwa [State.modRecord_attempted_self] at this

theorem Keeps.ejectAndBarPlain (K : Keeps L M A P) (hL : L f) (hs : P s) {h : Nat} (reason : EjectReason)
    (ha : (s.record f h).state.active = true) : P (s.ejectAndBar f h reason) := by
  have := K.ejectAndBar hL hs reason ha (Nat.le_succ (s.record f h).eqAttempts)
  rwa [State.modRecord_attempted_self] at this

/-! ## Supervision (chapter 8) -/

theorem incUpTo_le (b n m : Nat) (h : n ≤ m) (hb : b ≤ m) : incUpTo b n ≤ m := by unfold incUpTo; split <;> omega

theorem Keeps.entryDecision (K : Keeps L M A P) (hL : L f) (hs : P s) {h : Nat}
    (ha : (s.record f h).state.active = true) : P (s.entryDecision f h) := by
  unfold State.entryDecision
  split
  · exact K.ejectAndBarPlain hL hs .stray ha
  · exact K.tuneRange hL hs h (fun _ => ⟨rfl, rfl, rfl, rfl, rfl⟩) fun k => { k with }

theorem Keeps.recoveryDecision (K : Keeps L M A P) (hL : L f) (hs : P s) {h : Nat}
    (ha : (s.record f h).state.active = true) : P (s.recoveryDecision f h) := by
  unfold State.recoveryDecision
  split
  · exact K.ejectAndBarPlain hL hs .stray ha
  · exact K.easeFd hL hs fun hsay =>
      ((s.fd f).eases_offerResume hsay h (K.plain _ rfl rfl)).trans
        (Feeder.eases_modRecord { Record.Tuned.refl _ _ with
          range := fun _ k => { k with attempts := incUpTo_le _ _ _ k.attempts (le_refl _) } })

theorem Feeder.watched_state {fd : Feeder} {h : Nat} (e : fd.watched = some h) : (fd.record h).state = .inService := by
  unfold Feeder.watched at e
  have hm := List.mem_of_find?_eq_some e
  obtain ⟨-, -, hw⟩ := (Feeder.mem_handlesWhere fd _ h).mp hm
  simp only [Record.withinWatch, Bool.and_eq_true, decide_eq_true_eq] at hw
  exact hw.1

theorem Record.Tuned.state {N : Msg → Prop} {r q : Record} (h : r.Tuned N q) (ha : r.state.active = true) :
    q.state.active = true := h.active.trans ha

theorem Keeps.reHush (K : Keeps L M A P) (hL : L f) (hs : P s) {h : Nat}
    (hi : (s.record f h).state = .inService) : P (s.reHush f h) := by
  have ha : (s.record f h).state.active = true := by rw [hi]; rfl
  have hx : (s.fd f).Says (M (s.fd f).settings) → (s.fd f).Eases (M (s.fd f).settings)
      (((s.fd f).modRecord h fun r => { r with state := .hushed, recCd := 0 }).offerHush h) := fun hsay =>
    have he : (s.fd f).Eases (M (s.fd f).settings)
        ((s.fd f).modRecord h fun r => { r with state := .hushed, recCd := 0 }) :=
      Feeder.eases_modRecord { Record.tuned_state _ _ .hushed ha rfl with
        range := fun _ k => { k with activeAttempts := fun _ => k.activeAttempts ha } }
    he.trans (Feeder.eases_offerHush _ (he.says hsay) h (K.plain _ rfl rfl))
  have h1 := K.easeFd (g := fun fd => (fd.modRecord h fun r => { r with state := .hushed, recCd := 0 }).offerHush h) hL hs hx
  have ha1 : ((s.modFd f fun fd => (fd.modRecord h fun r => { r with state := .hushed, recCd := 0 }).offerHush h).record f
      h).state.active = true := by
    unfold State.record
    rw [State.fd_modFd]
    exact ((hx (K.tells s f hs)).records h).state ha
  unfold State.reHush
  exact K.easeFd hL (K.entryDecision hL h1 ha1) fun _ => Feeder.eases_of_quiet _ id rfl

theorem Keeps.strayVanished (K : Keeps L M A P) (hL : L f) (hs : P s) : P (s.strayVanished f) :=
  K.raise _ _ _ (K.easeFd hL hs fun hsay => (s.fd f).eases_endHunt hsay (K.plain _ rfl rfl))

theorem State.modRecord_of_out (s : State) (f : FeederId) {h : Nat} (g : Record → Record) (e : h = 0 ∨ 255 < h) :
    s.modRecord f h g = s := by
  have hfd : (s.fd f).setRecord h (g ((s.fd f).record h)) = s.fd f := by
    unfold Feeder.setRecord
    split
    · rfl
    · rw [Vector.setIfInBounds_eq_of_size_le (by omega)]
  show s.setFd f ((s.fd f).setRecord h (g ((s.fd f).record h))) = s
  rw [hfd, State.setFd_fd]

/-- A handle without a record is decided about without an effect. -/
theorem State.entryDecision_of_out (s : State) (f : FeederId) {h : Nat} (e : h = 0 ∨ 255 < h) :
    s.entryDecision f h = s := by
  unfold State.entryDecision
  split
  · unfold State.ejectAndBar
    rw [State.eject_of_inactive _ _ _ _ (by rw [State.record_of_out s f h e]; rfl), State.record_of_out s f h e]
    rfl
  · exact State.modRecord_of_out s f _ e

theorem Keeps.culpritFound (K : Keeps L M A P) (hL : L f) (hs : P s) {h : Nat}
    (ht : (s.fd f).hunt.target = some h) : P (s.culprit f h) := by
  have h1 := K.easeFd (g := Feeder.endStray) hL (K.raise _ .strayFound
    { feeder := some f, handle := some h, serial := (s.record f h).serial
      dwelling := s.dwellingOf (s.record f h).planLink } (K.culprit s f h hL hs ht))
    fun _ => Feeder.eases_endStray _ _
  unfold State.culprit
  by_cases hb : 1 ≤ h ∧ h ≤ 255
  · refine K.entryDecision hL h1 ?_
    unfold State.record
    rw [State.fd_modFd, State.fd_raise, State.fd_modRecord]
    show ((Feeder.modRecord (s.fd f) h _).record h).state.active = true
    rw [Feeder.record_modRecord_self _ _ _ hb.1 hb.2]
    rfl
  · rw [State.entryDecision_of_out _ f (by omega)]
    exact h1

theorem Keeps.hushedReport (K : Keeps L M A P) (hL : L f) (hs : P s) {h : Nat} (light : Bool)
    (ht : (s.fd f).hunt.target = some h) : P (s.hushedReport f h light) := by
  unfold State.hushedReport
  extract_lets t absence watch
  split
  · exact K.culpritFound hL hs ht
  · have hx : (s.fd f).Eases (M (s.fd f).settings)
        { s.fd f with hunt := { t with absence := absence, watchCd := watch } } :=
      Feeder.eases_huntPhase _ _ _ rfl rfl (fun _ => rfl) fun k => k.hushCycle
    refine K.easeFd hL hs fun hsay => ?_
    extract_lets fd1
    split
    · exact hx.trans (Feeder.eases_releaseTarget _ (hx.says hsay) (K.plain _ rfl rfl) h ht)
    · exact hx

theorem Keeps.openReport (K : Keeps L M A P) (hL : L f) (hs : P s) (light : Bool) : P (s.openReport f light) := by
  unfold State.openReport
  extract_lets t absence
  split
  · exact K.strayVanished hL hs
  · exact K.easeFd hL hs fun _ => Feeder.eases_huntPhase _ _ _ rfl rfl (fun _ => rfl) fun k => k.hushCycle

theorem Keeps.strayReport (K : Keeps L M A P) (hL : L f) (hs : P s) (n : CycleNumber) (light : Bool) :
    P (s.strayReport f n light) := by
  unfold State.strayReport
  simp only
  split
  · exact hs
  · split
    · next h ht =>
      split
      · exact K.hushedReport hL hs light ht
      · exact K.openReport hL hs light
    · exact K.openReport hL hs light

theorem Keeps.takeCondition (K : Keeps L M A P) (hL : L f) (hs : P s) (h : Nat) (w : Byte) :
    P (s.takeCondition f h w) := by
  have hmains : P (s.takeMains f h w) := by
    have h1 := K.tuneRange hL hs h (g := fun r => { r with mainsFailing := w.getLsbD 0 })
      (fun _ => ⟨rfl, rfl, rfl, rfl, rfl⟩) fun k => { k with }
    unfold State.takeMains
    simp only
    split
    · exact K.raise _ _ _ h1
    · exact h1
  unfold State.takeCondition
  generalize s.takeMains f h w = t at hmains
  unfold State.debounce
  simp only
  split
  · exact K.tuneRange hL hmains h (fun _ => ⟨rfl, rfl, rfl, rfl, rfl⟩) fun k => { k with }
  · split
    · have h1 := K.tuneRange hL hmains h (g := fun r => { r with confirmed := w, candidate := none })
        (fun _ => ⟨rfl, rfl, rfl, rfl, rfl⟩) fun k => { k with }
      split
      · exact K.raise _ _ _ h1
      · exact h1
    · exact K.tuneRange hL hmains h (fun _ => ⟨rfl, rfl, rfl, rfl, rfl⟩) fun k => { k with }

/-! ## Equalisation (chapter 5) -/

theorem Record.tuned_toProbing (N : Msg → Prop) (r : Record) (hr : r.state.active = true) : r.Tuned N r.toProbing :=
  { Record.tuned_state N r .probing hr rfl with
    serial := by unfold Record.toProbing Record.endWatch; split <;> rfl
    planLink := by unfold Record.toProbing Record.endWatch; split <;> rfl
    eqd := .inl (by unfold Record.toProbing Record.endWatch; split <;> rfl)
    owed := fun m hm => .inl (Option.mem_filter_iff.mp hm).1
    range := fun _ k => by
      have ho : ∀ m, r.owed.filter (fun m => m.kind.urgent) = some m → ∀ i, m.residue? = some i → residueFits i :=
        fun m hm => k.owed m (Option.mem_filter_iff.mp hm).1
      unfold Record.toProbing Record.endWatch
      split <;> exact { k with
        activeAttempts := fun _ => k.activeAttempts hr, drift := Nat.zero_le 15, misplaced := Nat.zero_le _
        levelRun := Nat.zero_le _, owed := ho } }

/-- An attempt counted of an active record: an ejection that bars, or what goes on below the fourth (R111, R113). -/
theorem Keeps.countAttempt (K : Keeps L M A P) (hL : L f) (hs : P s) {h : Nat} {next : State → State}
    (ha : (s.record f h).state.active = true)
    (hn : ∀ t, t = s.modRecord f h (.attempted ((s.record f h).eqAttempts + 1)) → P t → P (next t)) :
    P (s.countAttempt f h next) := by
  obtain ⟨h1, h2⟩ := RecState.bounds_of_active ha
  have hm : (s.modRecord f h fun r => { r with eqAttempts := r.eqAttempts + 1 }) =
      s.modRecord f h (.attempted ((s.record f h).eqAttempts + 1)) := rfl
  rcases s.countAttempt_cases f h next with ⟨-, e⟩ | ⟨hlt, e⟩
  · rw [e, hm]
    exact K.ejectAndBar hL hs .noConfirm ha (le_refl _)
  · rw [e, hm]
    rw [hm, State.record_modRecord_self s f h _ h1 h2] at hlt
    have hlt : (s.record f h).eqAttempts + 1 < 4 := hlt
    exact hn _ rfl (K.tuneRange hL hs h (fun _ => ⟨rfl, rfl, rfl, rfl, rfl⟩) fun k =>
      { k with eqAttempts := Nat.le_of_lt hlt, activeAttempts := fun _ => Nat.le_of_lt_succ hlt })

theorem Keeps.enterProbing (K : Keeps L M A P) (hL : L f) (hs : P s) {h : Nat}
    (ha : (s.record f h).state.active = true) : P (s.enterProbing f h) := by
  obtain ⟨h1, h2⟩ := RecState.bounds_of_active ha
  refine K.countAttempt hL hs ha fun t ht hp => ?_
  have hat : (t.record f h).state.active = true := by
    rw [ht, State.record_modRecord_self s f h _ h1 h2]; exact ha
  exact K.easeFd hL hp fun _ => (Feeder.eases_modRecord (Record.tuned_toProbing _ _ hat)).trans
    (Feeder.eases_removeOrdinary _ _ h)

theorem Keeps.failProbe (K : Keeps L M A P) (hL : L f) (hs : P s) (h : Nat) : P (s.failProbe f h) := by
  unfold State.failProbe
  split
  · next e => exact K.countAttempt hL hs (by rw [e]; rfl) fun _ _ hp => hp
  · exact hs

theorem Keeps.failConfirm (K : Keeps L M A P) (hL : L f) (hs : P s) (h : Nat) : P (s.failConfirm f h) := by
  unfold State.failConfirm
  split
  · next e => exact K.enterProbing hL hs (by rw [e]; rfl)
  · exact hs

/-- An update of the feeder that keeps the record's state, and then what `P` and the state allow. -/
theorem State.settings_modRecord (s : State) (f : FeederId) (h : Nat) (g : Record → Record) :
    ((s.modRecord f h g).fd f).settings = (s.fd f).settings := by
  rw [State.fd_modRecord, Feeder.modRecord_settings]

theorem Keeps.judgeProbe (K : Keeps L M A P) (hL : L f) (hs : P s) (h : Nat) (serial : Serial)
    (grantOffset m8 level : Nat) : P (s.judgeProbe f h serial grantOffset m8 level) := by
  unfold State.judgeProbe
  simp only
  split
  · exact hs
  · next hp =>
    have hp : (s.record f h).state = .probing := not_not.mp hp
    obtain ⟨h1, h2⟩ := RecState.bounds_of_active (s := s) (f := f) (h := h) (by rw [hp]; rfl)
    split
    · exact K.failProbe hL hs h
    · have ht := K.tuneRange hL hs h (g := fun r => { r with lastLevel := some level })
        (fun _ => ⟨rfl, rfl, rfl, rfl, rfl⟩) fun k => { k with }
      split
      · refine K.raise _ _ _ (K.ejectPlain hL ht .outOfReach ?_)
        rw [State.record_modRecord_self s f h _ h1 h2, hp]
        rfl
      · exact K.failProbe hL ht h
      · refine K.easeFd hL ht fun _ => Feeder.eases_offerOrdinary _ h (K.fits _ _ ⟨?_, ?_⟩)
        · rintro _ ⟨⟩; exact residueFits_residueOf _ _
        · rintro _ ⟨⟩; rw [State.settings_modRecord]; exact delayOf_le _ _

theorem Keeps.count (K : Keeps L M A P) (hL : L f) (hs : P s) (n : CounterName) (k : Nat) : P (s.modFd f (·.count n k)) :=
  K.easeFd hL hs fun _ => Feeder.eases_count _ _ n k

theorem Keeps.judgeConfirm (K : Keeps L M A P) (hL : L f) (hs : P s) {h : Nat} (d8 : Int)
    (hc : (s.record f h).state = .confirming) : P (s.judgeConfirm f h d8) := by
  have ha : (s.record f h).state.active = true := by rw [hc]; rfl
  unfold State.judgeConfirm
  split
  · exact K.tune hL hs { Record.tuned_state _ _ .levelling ha rfl with
      range := fun _ k =>
        { k with activeAttempts := fun _ => k.activeAttempts ha, drift := Nat.zero_le 15, misplaced := Nat.zero_le _ } }
  · split
    · exact K.enterProbing hL (K.count hL hs .misplaced 1) (by unfold State.record; rw [State.fd_modFd]; exact ha)
    · exact K.enterProbing hL hs ha

theorem RecState.active_of_judged {x : RecState} (h : x.judged = true) : x.active = true := by
  cases x <;> simp_all [RecState.active, RecState.judged]

theorem Keeps.misplace (K : Keeps L M A P) (hL : L f) (hs : P s) {h : Nat}
    (ha : (s.record f h).state.active = true) : P (s.misplace f h) := by
  obtain ⟨h1, h2⟩ := RecState.bounds_of_active ha
  have ht : P (s.modFd f fun fd =>
      (fd.count .misplaced 1).modRecord h fun r => { r with misplacedRun := incUpTo 3 r.misplacedRun }) :=
    K.easeFd hL hs fun _ => (Feeder.eases_count _ _ _ _).trans (Feeder.eases_modRecord
      { Record.Tuned.refl _ _ with
        range := fun _ k => { k with misplaced := incUpTo_le _ _ _ k.misplaced (le_refl _) } })
  unfold State.misplace
  simp only
  split
  · refine K.enterProbing hL ht ?_
    unfold State.record
    rw [State.fd_modFd, Feeder.record_modRecord_self _ _ _ h1 h2]
    exact ha
  · exact ht

theorem natAbs_driftRunAfter_le (trip : Nat) (run d8 : Int) :
    (driftRunAfter trip run d8).natAbs ≤ 15 := by
  unfold driftRunAfter; split <;> (try split) <;> (try split) <;> omega

theorem Keeps.reachEdge (K : Keeps L M A P) (hL : L f) (hs : P s) (h : Nat) : P (s.reachEdge f h) := by
  have ht := K.tuneRange hL hs h (g := fun r => { r with reachEdge := true })
    (fun _ => ⟨rfl, rfl, rfl, rfl, rfl⟩) fun k => { k with }
  unfold State.reachEdge
  simp only
  split
  · exact ht
  · exact K.raise _ _ _ ht

theorem State.settings_reachEdge (s : State) (f : FeederId) (h : Nat) :
    ((s.reachEdge f h).fd f).settings = (s.fd f).settings := by
  unfold State.reachEdge
  simp only
  split
  · exact State.settings_modRecord s f h _
  · rw [State.fd_raise]; exact State.settings_modRecord s f h _

theorem Keeps.correctDrift (K : Keeps L M A P) (hL : L f) (hs : P s) (h : Nat) (d8 : Int) :
    P (s.correctDrift f h d8) := by
  unfold State.correctDrift
  extract_lets span r raw new s1
  have h1 : P s1 ∧ (s1.fd f).settings = (s.fd f).settings := by
    by_cases hn : new ≠ raw
    · simp only [s1, if_pos hn]
      exact ⟨K.reachEdge hL hs h, State.settings_reachEdge s f h⟩
    · simp only [s1, if_neg hn]
      exact ⟨hs, trivial⟩
  obtain ⟨hp, hset⟩ := h1
  split
  · refine K.easeFd hL hp fun _ => Feeder.eases_offerOrdinary _ h (K.fits _ _ ⟨?_, ?_⟩)
    · rintro _ ⟨⟩
    · rintro _ ⟨⟩
      rw [hset]
      show new.toNat ≤ span
      omega
  · exact K.tuneRange hL hp h (fun _ => ⟨rfl, rfl, rfl, rfl, rfl⟩) fun k => { k with drift := Nat.zero_le 15 }

theorem Keeps.watchDrift (K : Keeps L M A P) (hL : L f) (hs : P s) (h : Nat) (d8 : Int) : P (s.watchDrift f h d8) := by
  unfold State.watchDrift
  extract_lets x run s1
  have h1 : P s1 := K.tuneRange hL hs h (fun _ => ⟨rfl, rfl, rfl, rfl, rfl⟩) fun k =>
    { k with drift := natAbs_driftRunAfter_le _ _ _ }
  split
  · exact K.correctDrift hL h1 h d8
  · exact h1

theorem Keeps.judgeTiming (K : Keeps L M A P) (hL : L f) (hs : P s) {h : Nat} (d8 : Int)
    (ha : (s.record f h).state.active = true) : P (s.judgeTiming f h d8).1 := by
  unfold State.judgeTiming
  split
  · exact K.misplace hL hs ha
  · exact K.watchDrift hL (K.tuneRange hL hs h (g := fun r => { r with misplacedRun := 0 })
      (fun _ => ⟨rfl, rfl, rfl, rfl, rfl⟩) fun k => { k with misplaced := Nat.zero_le _ }) h d8

/-! ## Levels (chapter 6) -/

theorem Keeps.levelEdge (K : Keeps L M A P) (hL : L f) (hs : P s) (h : Nat) : P (s.levelEdge f h) := by
  have ht := K.tuneRange hL hs h (g := fun r => { r with levelEdge := true })
    (fun _ => ⟨rfl, rfl, rfl, rfl, rfl⟩) fun k => { k with }
  unfold State.levelEdge
  simp only
  split
  · exact ht
  · exact K.raise _ _ _ ht

theorem Keeps.endWalk (K : Keeps L M A P) (hL : L f) (hs : P s) (h : Nat) : P (s.modFd f (·.endWalk h)) :=
  K.easeFd hL hs fun _ => Feeder.eases_endWalk _ (K.plain _ rfl rfl) h

theorem Keeps.walk (K : Keeps L M A P) (hL : L f) (hs : P s) (h c : Nat) : P (s.walk f h c) := by
  unfold State.walk
  simp only
  split
  · exact K.endWalk hL hs h
  · exact K.endWalk hL (K.levelEdge hL hs h) h
  · exact K.easeFd hL hs fun _ => Feeder.eases_offerOrdinary _ h (K.plain _ rfl rfl)
  · exact K.easeFd hL hs fun _ => Feeder.eases_offerOrdinary _ h (K.plain _ rfl rfl)
  · exact hs

theorem Keeps.watchLevel (K : Keeps L M A P) (hL : L f) (hs : P s) (h c : Nat) : P (s.watchLevel f h c) := by
  unfold State.watchLevel
  simp only
  split
  · split
    · exact K.walk hL (K.tuneRange hL hs h (g := fun r => { r with walking := true, levelRun := 0 })
        (fun _ => ⟨rfl, rfl, rfl, rfl, rfl⟩) fun k => { k with levelRun := Nat.zero_le _ }) h c
    · next e => exact K.tuneRange hL hs h (fun _ => ⟨rfl, rfl, rfl, rfl, rfl⟩) fun k =>
        { k with levelRun := Nat.le_of_not_le e }
  · exact K.tuneRange hL hs h (fun _ => ⟨rfl, rfl, rfl, rfl, rfl⟩) fun k => { k with levelRun := Nat.zero_le _ }

theorem Keeps.takeLevel (K : Keeps L M A P) (hL : L f) (hs : P s) (h : Nat) (before : RecState) (c : Nat) :
    P (s.takeLevel f h before c) := by
  have ht := K.tuneRange hL hs h (g := fun r => { r with lastLevel := some c })
    (fun _ => ⟨rfl, rfl, rfl, rfl, rfl⟩) fun k => { k with }
  unfold State.takeLevel
  simp only
  split
  · split
    · exact ht
    · exact K.walk hL ht h c
  · split
    · exact ht
    · split
      · exact K.walk hL ht h c
      · exact K.watchLevel hL ht h c
  · exact ht
  · exact ht
  · exact hs

end

end Sys2Proof.Machine

/-! PROOFS. The events of a feeder, assembled from the updates that `Keeps` names: admission, dispatch, build, and upstream. -/
namespace Sys2Proof.Machine

open Sys2Proof

/-! ## Admission (chapter 4) -/

theorem Feeder.not_holds_of_holderOf {fd : Feeder} {n : Serial} (e : (fd.holderOf n).isSome = false) (k : Nat) :
    ¬ ((fd.record k).state.live = true ∧ (fd.record k).serial = some n) := by
  rintro ⟨hl, hn⟩
  have hb : 1 ≤ k ∧ k ≤ 255 := by
    by_contra hb
    rw [Feeder.record_of_out fd k (by omega)] at hl
    cases hl
  have hnone : fd.holderOf n = none := by simpa using e
  have := (Feeder.firstFrom_eq_none fd 1 _ (le_refl _)).mp hnone k hb.1 hb.2
  simp [hl, hn] at this

theorem State.not_holds_of_holderOf {s : State} {f : FeederId} {n : Serial}
    (h1 : ((s.fd f).holderOf n).isSome = false) (h2 : ((s.fd f.other).holderOf n).isSome = false) (g : FeederId)
    (k : Nat) : ¬ s.holds g k n := by
  have hg : g = f ∨ g = f.other := by cases g <;> cases f <;> simp [FeederId.other]
  rcases hg with rfl | rfl
  · exact Feeder.not_holds_of_holderOf h1 k
  · exact Feeder.not_holds_of_holderOf h2 k

/-- The link of an outcome READY of the plan stands for the serial (R92, R93). -/
theorem State.matchPlan_linked {s : State} {f : FeederId} {n : Serial} {p : Fin 8} {link : Option ArrivalLink}
    (e : s.matchPlan f n = (.ready p, link)) (i : Nat) (hi : link.map (·.index) = some i) :
    (s.planAt i).inUse = true ∧ ((s.planAt i).kind = .exact → (s.planAt i).serial = n) ∧
      ((s.planAt i).kind = .pattern → (s.planAt i).count ≠ (s.planAt i).limit) := by
  have planAt_of (q : PlanEntry → Bool) (j : Nat) (hj : s.plan.toList.findIdx? q = some j) :
      q (s.planAt j) = true := by
    obtain ⟨hlt, hq, -⟩ := List.findIdx?_eq_some_iff_getElem.mp hj
    rw [State.planAt_eq_getElem s (by simpa using hlt)]
    simpa using hq
  unfold State.matchPlan at e
  split at e
  · next j hj =>
    obtain ⟨h1, h2, h3⟩ := (PlanEntry.isExactFor_iff _ n).mp (planAt_of _ j hj)
    obtain ⟨-, rfl⟩ := Prod.mk.inj e
    obtain rfl : j = i := by simpa using hi
    exact ⟨h1, fun _ => h3, fun h => absurd (h2.symm.trans h) (by decide)⟩
  · split at e
    · next j hj =>
      obtain ⟨h1, h2⟩ := PlanEntry.inUse_and_pattern_of_isPatternFor (planAt_of _ j hj)
      obtain ⟨ho, rfl⟩ := Prod.mk.inj e
      obtain rfl : j = i := by simpa using hi
      refine ⟨h1, fun h => absurd (h2.symm.trans h) (by decide), fun _ hc => ?_⟩
      rw [PlanEntry.patternOutcome, if_pos hc] at ho
      cases ho
    · cases e

/-- The link of an arrival of source COMMAND that stands (R100). -/
theorem State.linkStands_linked {s : State} {n : Serial} {l : ArrivalLink} (e : s.linkStands n l = true) :
    (s.planAt l.index).inUse = true ∧ ((s.planAt l.index).kind = .exact → (s.planAt l.index).serial = n) ∧
      ((s.planAt l.index).kind = .pattern → (s.planAt l.index).count ≠ (s.planAt l.index).limit) := by
  simp only [State.linkStands, Bool.and_eq_true, decide_eq_true_eq] at e
  obtain ⟨⟨hu, -⟩, hk⟩ := e
  refine ⟨hu, fun h => ?_, fun h hc => ?_⟩
  · rw [h] at hk
    simp only [Bool.and_eq_true, decide_eq_true_eq] at hk
    exact hk.1
  · rw [h] at hk
    simp only [Bool.and_eq_true, decide_eq_true_eq] at hk
    rw [hc] at hk
    exact absurd hk.2 (Nat.lt_irrefl _)

/-- An offer and the removal of arrivals pass each other by. -/
theorem Feeder.offerOrdinary_dropArrival (fd : Feeder) (h : Nat) (m : Msg) (n : Serial) :
    (fd.dropArrival n).offerOrdinary h m = (fd.offerOrdinary h m).dropArrival n := by
  have hrec : (fd.dropArrival n).record h = fd.record h := rfl
  have hmod : (fd.dropArrival n).modRecord h (·.owe m) = (fd.modRecord h (·.owe m)).dropArrival n := by
    unfold Feeder.modRecord Feeder.setRecord
    split <;> rfl
  have hroom : (fd.dropArrival n).ordinaryRoom = fd.ordinaryRoom := rfl
  have hord : (fd.dropArrival n).ordinary = fd.ordinary := rfl
  unfold Feeder.offerOrdinary
  rw [hrec, hmod, hroom, hord]
  split
  · rfl
  · split
    · rfl
    · split <;> rfl

theorem State.dropArrivals_modFd (s : State) (f : FeederId) (g : Feeder → Feeder) (n : Serial)
    (hg : (g (s.fd f)).dropArrival n = g ((s.fd f).dropArrival n)) :
    (s.modFd f g).dropArrivals n = (s.dropArrivals n).modFd f g := by
  cases f <;>
    simp only [State.dropArrivals, State.modFd, State.setFd, State.fd] at hg ⊢ <;> rw [hg]

theorem State.joinArrivals_eq (s : State) (f : FeederId) (n : Serial) (m : Measurement) :
    s.joinArrivals f n m =
      let x := s.matchPlan f n
      let fd1 : Feeder := { s.fd f with
        arrivals := (s.fd f).arrivals ++ [⟨n, x.1.status (s.fd f).settings.decisionCycles, x.2, m⟩]
        expired := (s.fd f).expired.filter fun x => decide (x ≠ n) }
      (s.setFd f (if 16 ≤ fd1.arrivals.length then fd1.latchArrivalsFull else fd1)).noteHeld f n x.1 x.2 := rfl

section

variable {L : FeederId → Prop} {M : Settings → Msg → Prop} {A : List BarEntry → Settings → Arrival → Prop}
  {P : State → Prop} {s : State} {f : FeederId}

theorem Keeps.ejectAny (K : Keeps L M A P) (hL : L f) (hs : P s) (h : Nat) (reason : EjectReason) :
    P (s.eject f h reason) := by
  cases ha : (s.record f h).state.active with
  | false => rw [State.eject_of_inactive s f h reason ha]; exact hs
  | true => exact K.ejectPlain hL hs reason ha

theorem Keeps.noteHeld (K : Keeps L M A P) (hs : P s) (n : Serial) (o : MatchOutcome) (link : Option ArrivalLink) :
    P (s.noteHeld f n o link) := by
  unfold State.noteHeld
  split
  · exact hs
  · exact K.raise _ _ _ hs

theorem Keeps.callInOfHolder (K : Keeps L M A P) (hL : L f) (hs : P s) (h : Nat) (n : CycleNumber) :
    P (s.callInOfHolder f h n) := by
  unfold State.callInOfHolder
  simp only
  split
  · exact hs
  · exact hs
  · split
    · exact hs
    · exact K.raise _ _ _ (K.ejectAny hL hs h .rebooted)

theorem Keeps.joinArrivals (K : Keeps L M A P) (hL : L f) (hs : P s) (n : Serial) (m : Measurement)
    (hj : s.Joinable f n) (hm : m.Fits (s.fd f).settings) : P (s.joinArrivals f n m) := by
  rw [State.joinArrivals_eq]
  extract_lets x y fd1
  refine K.noteHeld ?_ _ _ _
  have h1 := K.join s f ⟨n, x.1.status (s.fd f).settings.decisionCycles, x.2, m⟩ hL hs hj hm
  have h2 : P (s.setFd f fd1) := by
    have := K.easeFd (g := fun fd => { fd with expired := fd.expired.filter fun x => decide (x ≠ n) }) hL h1 fun _ =>
      Feeder.eases_expired _ _ _ ((List.length_filter_le _ _).trans)
    rw [State.modFd_modFd] at this
    exact this
  split
  · have := K.easeFd (g := Feeder.latchArrivalsFull) hL h2 fun _ => Feeder.eases_of_quiet _ id rfl
    rw [State.modFd, State.fd_setFd, State.setFd_setFd] at this
    exact this
  · exact h2

theorem Keeps.admitCallIn (K : Keeps L M A P) (hL : L f) (hs : P s) (n : Serial) (m : Measurement)
    (hm : m.Fits (s.fd f).settings) : P (s.admitCallIn f n m) := by
  unfold State.admitCallIn
  split
  · exact K.count hL hs _ _
  · next hbar =>
    split
    · exact K.callInOfHolder hL hs _ _
    · next hown =>
      split
      · exact K.raise _ _ _ hs
      · next hother =>
        split
        · exact K.easeFd hL hs fun _ => Feeder.eases_mergeArrival _ _ n hm
        · next hfresh =>
          split
          · exact K.easeFd hL hs fun _ => (Feeder.eases_count _ _ _ _).trans (Feeder.eases_of_quiet _ id rfl)
          · next hroom =>
            refine K.joinArrivals hL hs n m ⟨by simpa using hbar, ?_, by simpa using hfresh, Nat.lt_of_not_le hroom⟩ hm
            exact State.not_holds_of_holderOf (f := f) (by simp [hown]) (by simpa using hother)

theorem Keeps.nameAs (K : Keeps L M A P) (hL : L f) (hs : P s) (a : Arrival) (link : Option Nat) (p : Fin 8)
    (hA : A s.bars (s.fd f).settings a) (hn : s.Nameable a link) : P (s.nameAs f a link p) := by
  unfold State.nameAs
  split
  · exact hs
  · next h hfree =>
    obtain ⟨h1, h2, hf⟩ := Feeder.firstFrom_test hfree
    have h3 := K.name s f h a link p hL hs hA hn h1 h2 (of_decide_eq_true hf)
    simp only
    refine K.raise _ _ _ ?_
    rw [State.dropArrivals_modFd _ _ _ _ (Feeder.offerOrdinary_dropArrival _ h _ _).symm]
    refine K.easeFd hL h3 fun _ => Feeder.eases_offerOrdinary _ h ?_
    have hset : ((s.named f h a link p).fd f).settings = (s.fd f).settings := by
      have hfd : ∀ t : State, ((t.takeLink link f h).fd f) = t.fd f := fun t => by
        unfold State.takeLink; split <;> simp
      have hdrop : ∀ t : State, ((t.dropArrivals a.serial).fd f).settings = (t.fd f).settings := fun t => by
        cases f <;> rfl
      unfold State.named
      rw [hdrop, hfd, State.fd_modFd, Feeder.setRecord_settings]
    show M ((s.named f h a link p).fd f).settings _
    rw [hset]
    exact K.names _ _ _ hA

theorem Keeps.nameOne (K : Keeps L M A P) (hL : L f) (hs : P s) (a : Arrival) (hA : A s.bars (s.fd f).settings a) :
    P (s.nameOne f a) := by
  unfold State.nameOne
  split
  · exact K.raise _ _ _ (K.easeFd hL hs fun _ => Feeder.eases_dropArrival _ _ _)
  · next hheld =>
    have hun : ∀ g k, ¬ s.holds g k a.serial := by
      rw [Bool.not_eq_true, Bool.or_eq_false_iff] at hheld
      exact State.not_holds_of_holderOf hheld.1 hheld.2
    split
    · exact hs
    · refine K.nameAs hL hs a _ _ hA ⟨hun, fun i hi => ?_⟩
      obtain ⟨l, hl, rfl⟩ := Option.map_eq_some_iff.mp hi
      exact State.linkStands_linked (Option.mem_filter_iff.mp hl).2
    · split
      · next o link e =>
        split
        · exact K.nameAs hL hs a _ _ hA ⟨hun, State.matchPlan_linked e⟩
        · exact K.noteHeld (K.easeFd hL hs fun _ => Feeder.eases_rehold _ _ _ _ _) _ _ _

theorem Keeps.feederFull (K : Keeps L M A P) (hL : L f) (hs : P s) : P (s.feederFull f) := by
  unfold State.feederFull
  split
  · exact K.raise _ _ _ (K.easeFd hL hs fun _ => Feeder.eases_of_quiet _ id rfl)
  · exact hs

theorem State.Naming.bars {s t : State} (h : s.Naming f t) : t.bars = s.bars := by rw [h.rest]

theorem State.Naming.settings {s t : State} (h : s.Naming f t) : (t.fd f).settings = (s.fd f).settings := by rw [h.own]

theorem Keeps.nameAll (K : Keeps L M A P) (hL : L f) (l : List Arrival) :
    ∀ s, P s → (∀ a ∈ l, A s.bars (s.fd f).settings a) → P (s.nameAll f l) := by
  induction l with
  | nil => exact fun s hs _ => hs
  | cons a l ih =>
    intro s hs hA
    have hl : ∀ b ∈ l, A s.bars (s.fd f).settings b := fun b hb => hA b (List.mem_cons_of_mem _ hb)
    unfold State.nameAll
    split
    · exact ih s hs hl
    · split
      · exact K.feederFull hL hs
      · split
        · exact hs
        · have hn := State.naming_nameOne f s a
          refine ih _ (K.nameOne hL hs a (hA a (List.mem_cons_self ..))) fun b hb => ?_
          rw [hn.bars, hn.settings]
          exact hl b hb

theorem Keeps.naming (K : Keeps L M A P) (hL : L f) (hs : P s) : P (s.name f) := by
  unfold State.name
  split
  · exact K.nameAll hL _ s hs fun a ha => K.arrival s f a hs ha
  · exact hs

theorem Keeps.nameAt (K : Keeps L M A P) (hL : L f) (hs : P s) (here point : NamingPoint) :
    P (s.nameAt f here point) := by
  unfold State.nameAt
  split
  · exact K.naming hL hs
  · exact hs

theorem Keeps.expireArrival (K : Keeps L M A P) (hL : L f) (hs : P s) (a : Arrival) : P (s.expireArrival f a) :=
  K.raise _ _ _ (K.easeFd hL hs fun _ => (Feeder.eases_dropArrival _ _ _).trans
    (Feeder.eases_expired _ _ _ (length_addExpired _ _)))

/-! ## Dispatch (R150, R151) -/

theorem RecState.active_of_takesCorrection {x : RecState} (h : x.takesCorrection = true) : x.active = true := by
  cases x <;> simp_all [RecState.active, RecState.takesCorrection]

theorem Record.tuned_nameSent (N : Msg → Prop) (r : Record) (n : CycleNumber) : r.Tuned N (r.nameSent n) := by
  unfold Record.nameSent
  split
  · next e =>
    have ha : r.state.active = true := by rw [e]; rfl
    exact { Record.tuned_state N r .confirming ha rfl with
      range := fun _ k => { k with activeAttempts := fun _ => k.activeAttempts ha } }
  · exact .refl N r

theorem Record.tuned_delaySent {N : Msg → Prop} (r : Record) (n : CycleNumber) (d : Nat) (c : Option Int)
    (hm : N (.delay d c)) : r.Tuned N (r.delaySent n d c) := by
  have hd : d = r.eqd ∨ ∃ m, N m ∧ m.delay? = some d := .inr ⟨_, hm, rfl⟩
  unfold Record.delaySent
  split
  · next e =>
    have ha : r.state.active = true := by rw [e]; rfl
    exact { Record.tuned_state N r .confirming ha rfl with
      eqd := hd
      range := fun hN k => { k with
        activeAttempts := fun _ => k.activeAttempts ha, drift := Nat.zero_le 15
        residue := by
          cases hc : c with
          | none => exact k.residue
          | some i => exact hN _ hm i hc } }
  · split
    · exact { Record.Tuned.refl N r with eqd := hd, range := fun _ k => { k with drift := Nat.zero_le 15 } }
    · exact .refl N r

theorem stepLevel_le (up : Bool) (n : Nat) (h : n ≤ 7) : stepLevel up n ≤ 7 := by
  unfold stepLevel
  split
  · exact incUpTo_le _ _ _ h (le_refl _)
  · omega

theorem Record.tuned_stepSent (N : Msg → Prop) (r : Record) (n : CycleNumber) (up : Bool) (pace : Nat) :
    r.Tuned N (r.stepSent n up pace) := by
  unfold Record.stepSent
  split
  · exact { Record.Tuned.refl N r with range := fun _ k => { k with level := stepLevel_le _ _ k.level } }
  · exact .refl N r

theorem Record.tuned_admitted (N : Msg → Prop) (r : Record) (p : Profile) (hr : r.state = .levelling) :
    r.Tuned N (r.admitted p) :=
  have ha : r.state.active = true := by rw [hr]; rfl
  { Record.tuned_state N r .inService ha rfl with
    range := fun _ k => { k with
      activeAttempts := fun _ => k.activeAttempts ha, miss := Nat.zero_le _, suspect := Nat.zero_le _
      levelRun := Nat.zero_le _ } }

theorem Record.tuned_released (N : Msg → Prop) (r : Record) (hr : r.state = .huntHeld) : r.Tuned N r.released :=
  have ha : r.state.active = true := by rw [hr]; rfl
  have hx : (r.heldFrom.getD .inService).toState.active = true := by
    cases r.heldFrom.getD .inService <;> rfl
  { Record.tuned_state N r _ ha hx with
    range := fun _ k => { k with activeAttempts := fun _ => k.activeAttempts ha } }

theorem Record.tuned_recovered (N : Msg → Prop) (r : Record) (hr : r.state = .hushed) : r.Tuned N r.recovered :=
  have ha : r.state.active = true := by rw [hr]; rfl
  { Record.tuned_state N r .inService ha rfl with
    range := fun _ k => { k with
      activeAttempts := fun _ => k.activeAttempts ha, miss := Nat.zero_le _, suspect := Nat.zero_le _ } }

theorem Record.tuned_ejectSent (N : Msg → Prop) (r : Record) : r.Tuned N r.ejectSent := by
  unfold Record.ejectSent
  split
  · exact { Record.Tuned.refl N r with range := fun _ k => { k with } }
  · exact .refl N r

theorem Keeps.resumeSent (K : Keeps L M A P) (hL : L f) (hs : P s) (h : Nat) : P (s.resumeSent f h) := by
  unfold State.resumeSent
  split
  · next e =>
    have h1 := K.tune hL hs (h := h) (g := Record.released) (Record.tuned_released _ _ e)
    simp only
    split
    · next ht =>
      refine K.chooseTarget _ f hL h1 ?_
      rw [State.fd_modRecord, Feeder.modRecord_hunt, ht.1]
      rfl
    · exact h1
  · next e => exact K.tune hL hs (Record.tuned_recovered _ _ e)
  · exact hs

theorem Keeps.report (K : Keeps L M A P) (hL : L f) (hs : P s) (n : CycleNumber) (q : QMsg)
    (hq : M (s.fd f).settings q.msg) : P (s.report f n q) := by
  unfold State.report
  split
  · exact K.tune hL hs (Record.tuned_nameSent _ _ _)
  · next e => exact K.tune hL hs (Record.tuned_delaySent _ _ _ _ (e ▸ hq))
  · exact K.tune hL hs (Record.tuned_stepSent _ _ _ _ _)
  · unfold State.admitSent
    simp only
    split
    · next e => exact K.raise _ _ _ (K.tune hL hs (Record.tuned_admitted _ _ _ e))
    · exact hs
  · exact K.easeFd hL hs fun _ => Feeder.eases_hushSent _ _ _ _
  · exact K.resumeSent hL hs q.handle
  · exact K.tune hL hs (Record.tuned_ejectSent _ _)

theorem State.Spoken.settings {s t : State} (h : s.Spoken f t) : (t.fd f).settings = (s.fd f).settings := by rw [h.2]

theorem Feeder.takeMessage_eases (N : Msg → Prop) {fd x : Feeder} {q : QMsg} (e : fd.takeMessage = some (q, x)) :
    fd.Eases N x ∧ q ∈ fd.urgent ++ fd.ordinary := by
  unfold Feeder.takeMessage at e
  split at e
  · next p l hu =>
    obtain ⟨rfl, rfl⟩ := Prod.mk.inj (Option.some.inj e)
    exact ⟨fd.eases_bands N (by rw [hu]; exact List.sublist_cons_self ..) (.refl _), by simp [hu]⟩
  · split at e
    · next p l ho =>
      obtain ⟨rfl, rfl⟩ := Prod.mk.inj (Option.some.inj e)
      exact ⟨fd.eases_bands N (.refl _) (by rw [ho]; exact List.sublist_cons_self ..), by simp [ho]⟩
    · cases e

theorem Keeps.dispatchJoined (K : Keeps L M A P) (hL : L f) (n : CycleNumber) (k : Nat) :
    ∀ s, P s → P (s.dispatchJoined f n k).1 := by
  induction k with
  | zero => exact fun s hs => hs
  | succ k ih =>
    intro s hs
    unfold State.dispatchJoined
    split
    · exact hs
    · next q fd e =>
      obtain ⟨he, hq⟩ := Feeder.takeMessage_eases (M (s.fd f).settings) e
      have h1 : P (s.setFd f fd) := K.ease s f fd hL hs he
      have h2 : P ((s.setFd f fd).report f n q) :=
        K.report hL h1 n q (by rw [State.fd_setFd, he.settings]; exact (K.tells s f hs).queued q hq)
      exact ih _ h2

theorem Keeps.reportAll (K : Keeps L M A P) (hL : L f) (n : CycleNumber) (l : List QMsg) :
    ∀ s, P s → (∀ q ∈ l, M (s.fd f).settings q.msg) → P (s.reportAll f n l).1 := by
  induction l with
  | nil => exact fun s hs _ => hs
  | cons q l ih =>
    intro s hs hq
    unfold State.reportAll
    refine ih _ (K.report hL hs n q (hq q (List.mem_cons_self ..))) fun p hp => ?_
    show M ((s.report f n q).fd f).settings p.msg
    rw [(State.spoken_report f s n q).settings]
    exact hq p (List.mem_cons_of_mem _ hp)

theorem Keeps.dispatch (K : Keeps L M A P) (hL : L f) (hs : P s) (n : CycleNumber) (joins : Bool) :
    P (s.dispatch f n joins).1 := by
  unfold State.dispatch
  split
  · exact K.dispatchJoined hL n 4 s hs
  · rw [Feeder.takeMessages_eq]
    have he := (s.fd f).eases_bands (M (s.fd f).settings) (List.drop_sublist 4 (s.fd f).urgent)
      (List.drop_sublist (4 - (s.fd f).urgent.length) (s.fd f).ordinary)
    refine K.reportAll hL n _ _ (K.ease s f _ hL hs he) fun q hq => ?_
    rw [State.fd_setFd]
    exact (K.tells s f hs).queued q (List.mem_of_mem_take hq)

theorem State.length_dispatchJoined (f : FeederId) (n : CycleNumber) (k : Nat) :
    ∀ s : State, (s.dispatchJoined f n k).2.1.length ≤ k := by
  induction k with
  | zero => exact fun s => le_refl _
  | succ k ih =>
    intro s
    unfold State.dispatchJoined
    split
    · exact Nat.zero_le _
    · exact Nat.succ_le_succ (ih _)

theorem State.length_dispatch (s : State) (f : FeederId) (n : CycleNumber) (joins : Bool) :
    (s.dispatch f n joins).2.1.length ≤ 4 := by
  unfold State.dispatch
  split
  · exact State.length_dispatchJoined f n 4 s
  · rw [Feeder.takeMessages_eq]; exact List.length_take_le ..

end

end Sys2Proof.Machine

/-! PROOFS. The build of a header keeps what `Keeps` keeps, and every map it places is lawful. -/
namespace Sys2Proof.Machine

open Sys2Proof

/-! ## Maps as they are filled (R134) -/

/-- A grant map being filled obeys the law, and its next offset lies behind all that it holds. -/
structure GrantMap.Lawful (w : Option Window) (guard : Nat) (m : GrantMap) : Prop where
  count : m.grants.length ≤ 64
  apart : m.grants.Pairwise fun g k => g.offset + g.length + guard ≤ k.offset
  before : ∀ g ∈ m.grants, g.offset + g.length + guard ≤ m.next
  start : firstOffset guard w ≤ m.next
  behind : ∀ g ∈ m.grants, firstOffset guard w ≤ g.offset
  ends : ∀ g ∈ m.grants, g.offset + g.length + guard ≤ 16000
  distinct : (m.grants.map fun g => (g.kind, g.handle)).Nodup
  whole : ∀ g ∈ m.grants, g.length % 4 = 0

theorem GrantMap.Lawful.mapLawful {w : Option Window} {guard : Nat} {m : GrantMap} (h : m.Lawful w guard) :
    MapLawful w guard m.grants where
  count := h.count
  apart := h.apart
  behindWindow := by rintro v rfl g hg; exact h.behind g hg
  ends := h.ends
  distinct := h.distinct
  whole := h.whole

theorem GrantMap.lawful_empty (w : Option Window) (guard : Nat) :
    GrantMap.Lawful w guard { next := firstOffset guard w, grants := [] } where
  count := Nat.zero_le _
  apart := .nil
  before := nofun
  start := le_refl _
  behind := nofun
  ends := nofun
  distinct := .nil
  whole := nofun

/-- A grant that fits, placed for a handle that has none of its kind yet (R134). -/
theorem GrantMap.Lawful.place {w : Option Window} {guard : Nat} {m : GrantMap} (hm : m.Lawful w guard)
    {kind : GrantKind} {h len : Nat} (confirm : Bool) (hf : m.fits guard len = true) (h4 : len % 4 = 0)
    (hn : ∀ g ∈ m.grants, g.kind = kind → g.handle ≠ h) : (m.place guard kind h len confirm).Lawful w guard := by
  obtain ⟨hf1, hf2⟩ := (GrantMap.fits_iff m guard len).mp hf
  have mem {g : Grant} (hg : g ∈ (m.place guard kind h len confirm).grants) : g ∈ m.grants ∨
      g = { kind := kind, handle := h, offset := m.next, length := len, confirm := confirm, answered := false,
            garbled := false } := by
    simpa [GrantMap.place] using hg
  have hnext : (m.place guard kind h len confirm).next = m.next + len + guard := rfl
  exact
    { count := by simp only [GrantMap.place, List.length_append, List.length_singleton]; omega
      apart := List.pairwise_append.mpr ⟨hm.apart, List.pairwise_singleton _ _, fun a ha b hb => by
        rw [List.mem_singleton.mp hb]; exact hm.before a ha⟩
      before := fun g hg => by
        rw [hnext]
        rcases mem hg with hg | rfl
        · have := hm.before g hg; omega
        · exact le_refl _
      start := by rw [hnext]; have := hm.start; omega
      behind := fun g hg => by
        rcases mem hg with hg | rfl
        · exact hm.behind g hg
        · exact hm.start
      ends := fun g hg => by
        rcases mem hg with hg | rfl
        · exact hm.ends g hg
        · exact hf1
      distinct := by
        show ((m.grants ++ _).map fun g => (g.kind, g.handle)).Nodup
        rw [List.map_append, List.nodup_append]
        refine ⟨hm.distinct, List.nodup_singleton _, fun a ha b hb e => ?_⟩
        obtain ⟨g, hg, rfl⟩ := List.mem_map.mp ha
        rw [List.map_singleton, List.mem_singleton] at hb
        rw [hb] at e
        exact hn g hg (Prod.mk.inj e).1 (Prod.mk.inj e).2
      whole := fun g hg => by
        rcases mem hg with hg | rfl
        · exact hm.whole g hg
        · exact h4 }

theorem State.lawful_placeChecks (f : FeederId) (guard : Nat) (w : Option Window) (hs : List Nat) (hn : hs.Nodup) :
    ∀ (s : State) (m : GrantMap), m.Lawful w guard →
      (∀ g ∈ m.grants, g.kind = .check ∧ g.handle ∉ hs) →
      (s.placeChecks f guard hs m).2.1.Lawful w guard ∧
        ∀ g ∈ (s.placeChecks f guard hs m).2.1.grants, g.kind = .check := by
  induction hs with
  | nil => exact fun s m hm hk => ⟨hm, fun g hg => (hk g hg).1⟩
  | cons h rest ih =>
    intro s m hm hk
    obtain ⟨hnr, hn'⟩ := List.nodup_cons.mp hn
    unfold State.placeChecks
    split
    · next hf =>
      refine ih hn' _ _ (hm.place _ hf rfl fun g hg _ e => (hk g hg).2 (by simp [e])) fun g hg => ?_
      rcases List.mem_append.mp hg with hg | hg
      · exact ⟨(hk g hg).1, fun e => (hk g hg).2 (List.mem_cons_of_mem _ e)⟩
      · rw [List.mem_singleton.mp hg]; exact ⟨rfl, hnr⟩
    · exact ⟨hm, fun g hg => (hk g hg).1⟩

theorem State.lawful_placeData (f : FeederId) (guard : Nat) (w : Option Window) (hs : List Nat) (hn : hs.Nodup) :
    ∀ (s : State) (m : GrantMap), m.Lawful w guard →
      (∀ g ∈ m.grants, g.kind = .data → g.handle ∉ hs) → (s.placeData f guard hs m).2.1.Lawful w guard := by
  induction hs with
  | nil => exact fun s m hm _ => hm
  | cons h rest ih =>
    intro s m hm hk
    obtain ⟨hnr, hn'⟩ := List.nodup_cons.mp hn
    unfold State.placeData
    simp only
    split
    · next hf =>
      refine ih hn' _ _ (hm.place _ hf (by unfold roundUp4; omega) fun g hg hd e => hk g hg hd (by simp [e]))
        fun g hg hd => ?_
      rcases List.mem_append.mp hg with hg | hg
      · exact fun e => hk g hg hd (List.mem_cons_of_mem _ e)
      · rw [List.mem_singleton.mp hg]; exact hnr
    · exact hm

theorem Feeder.nodup_checksDue (fd : Feeder) (moved : List Nat) : (fd.checksDue moved).Nodup :=
  (orderByWait_spec fd.wait _ (fd.pairwise_handlesWhere fun h r => r.checkDue && !moved.contains h)).2.imp
    fun {j k} h e => by rcases h with h | ⟨-, h⟩ <;> rw [e] at h <;> omega

theorem nodup_rotateFrom (pointer : Nat) (hs : List Nat) (hp : hs.Pairwise (· < ·)) : (rotateFrom pointer hs).Nodup :=
  (rotateFrom_spec pointer hs hp).2.imp fun {j k} h e => by
    subst e
    split at h <;> omega

theorem State.lawful_dataStage (s : State) (f : FeederId) (guard : Nat) (moved : List Nat) (d : Bool) (m : GrantMap)
    (w : Option Window) (hm : m.Lawful w guard) (hk : ∀ g ∈ m.grants, g.kind = .check) :
    (s.dataStage f guard moved d m).2.Lawful w guard := by
  have hd : ∀ due : List Nat, ∀ g ∈ m.grants, g.kind = .data → g.handle ∉ due := fun _ g hg e => by
    rw [hk g hg] at e; cases e
  unfold State.dataStage
  simp only
  cases d
  · exact State.lawful_placeData f guard w _ (nodup_rotateFrom _ _ (Feeder.pairwise_handlesWhere ..)) s m hm (hd _)
  · exact hm

/-- The grants of every header placed obey the law (R134). -/
theorem State.lawful_placeGrants (s : State) (f : FeederId) (guard : Nat) (moved : List Nat) (w : Option Window) :
    MapLawful w guard (s.placeGrants f guard moved w).2 := by
  obtain ⟨h1, h2⟩ := State.lawful_placeChecks f guard w _ ((s.fd f).nodup_checksDue moved) s _
    (GrantMap.lawful_empty w guard) nofun
  exact (State.lawful_dataStage _ f guard moved _ _ w h1 h2).mapLawful

theorem mapLawful_nil (guard : Nat) : MapLawful none guard [] := (GrantMap.lawful_empty none guard).mapLawful

/-! ## The build (R29, R133) -/

section

variable {L : FeederId → Prop} {M : Settings → Msg → Prop} {A : List BarEntry → Settings → Arrival → Prop}
  {P : State → Prop} {s : State} {f : FeederId}

theorem Feeder.eases_updateWaits (N : Msg → Prop) (fd : Feeder) (l : List Nat) : fd.Eases N (fd.updateWaits l) := by
  unfold Feeder.updateWaits
  generalize Vector.ofFn _ = x
  exact Feeder.eases_of_quiet N id rfl

theorem State.makeAward_eq (s : State) (n : CycleNumber) : ∃ a l, s.makeAward n = s.withAward a l := by
  unfold State.makeAward
  cases h : s.award with
  | some a => exact ⟨s.award, s.lastServed, rfl⟩
  | none => exact ⟨_, _, rfl⟩

theorem Keeps.makeAward (K : Keeps L M A P) (hs : P s) (n : CycleNumber) : P (s.makeAward n) := by
  obtain ⟨a, l, e⟩ := s.makeAward_eq n
  rw [e]
  exact K.award s a l hs

theorem Keeps.windowStage (K : Keeps L M A P) (hL : L f) (hs : P s) (n : CycleNumber) : P (s.windowStage f n).1 := by
  unfold State.windowStage
  split
  · unfold State.placeWindow
    extract_lets fd span
    split
    · next h _ =>
      exact K.ease _ f { fd with lastProbed := h } hL (K.addWindow s f n _ hL hs) (Feeder.eases_of_quiet _ id rfl)
    · split
      · next g _ => exact K.ease _ f (fd.placeCallIn g) hL (K.addWindow s f n _ hL hs) (Feeder.eases_placeCallIn _ _ _)
      · exact hs
  · exact hs

theorem Keeps.placeChecks (K : Keeps L M A P) (hL : L f) (guard : Nat) (hs : List Nat) :
    ∀ (s : State) (m : GrantMap), P s → P (s.placeChecks f guard hs m).1 := by
  induction hs with
  | nil => exact fun s m h => h
  | cons h rest ih =>
    intro s m hp
    unfold State.placeChecks
    split
    · refine ih _ _ ?_
      split
      · exact K.tuneRange hL hp h (fun _ => ⟨rfl, rfl, rfl, rfl, rfl⟩) fun k => { k with }
      · exact hp
    · exact hp

theorem Keeps.placeData (K : Keeps L M A P) (hL : L f) (guard : Nat) (hs : List Nat) :
    ∀ (s : State) (m : GrantMap), P s → P (s.placeData f guard hs m).1 := by
  induction hs with
  | nil => exact fun s m h => h
  | cons h rest ih =>
    intro s m hp
    unfold State.placeData
    simp only
    split
    · exact ih _ _ (K.tuneRange hL hp h (fun _ => ⟨rfl, rfl, rfl, rfl, rfl⟩) fun k => { k with })
    · exact hp

theorem Keeps.placeGrants (K : Keeps L M A P) (hL : L f) (hs : P s) (guard : Nat) (moved : List Nat)
    (w : Option Window) : P (s.placeGrants f guard moved w).1 := by
  have hdata : ∀ (t : State) (d : Bool) (m : GrantMap), P t → P (t.dataStage f guard moved d m).1 := by
    intro t d m ht
    unfold State.dataStage
    simp only
    cases d
    · exact K.easeFd hL (K.placeData hL guard _ t m ht) fun _ => Feeder.eases_of_quiet _ id rfl
    · exact K.easeFd hL ht fun _ => Feeder.eases_of_quiet _ id rfl
  unfold State.placeGrants
  exact hdata _ _ _ (K.easeFd hL (K.placeChecks hL guard _ s _ hs) fun _ => Feeder.eases_updateWaits _ _ _)

theorem Keeps.buildFull (K : Keeps L M A P) (hL : L f) (hs : P s) (n : CycleNumber) (order : BuildOrder) :
    P (s.buildFull f n order) := by
  unfold State.buildFull
  extract_lets guard s1
  have h1 : P s1 := K.nameAt hL hs _ _
  have h2 := K.dispatch hL h1 n order.reportsJoin
  have hm := s1.length_dispatch f n order.reportsJoin
  generalize s1.dispatch f n order.reportsJoin = d at h2 hm
  obtain ⟨s2, messages, moved⟩ := d
  dsimp -zeta only at h2 hm ⊢
  extract_lets s3 s4 s5 s8
  have h3 : P s3 := K.nameAt hL h2 _ _
  have h4 : P s4 := K.easeFd hL h3 fun hsay => Feeder.eases_reofferAll _ hsay
  have h5 : P s5 := K.nameAt hL h4 _ _
  have h6 := K.windowStage hL h5 n
  have h8 : P s8 := K.nameAt hL (K.placeGrants hL h6 guard moved _) _ _
  exact K.easeFd hL h8 fun _ => Feeder.eases_nextHeader _ _ _ (State.lawful_placeGrants ..) hm

theorem Keeps.build (K : Keeps L M A P) (hL : L f) (hs : P s) (order : BuildOrder) : P (s.build f order) := by
  unfold State.build
  extract_lets n
  split
  · exact hs
  · next s1 _ =>
    have h1 : P s1 := K.makeAward (K.nameAt hL hs _ _) n
    have hbare : ∀ kind, P (s1.modFd f (·.writeBare n kind)) := fun kind =>
      K.easeFd hL h1 fun _ => Feeder.eases_nextHeader _ _ _ (mapLawful_nil _) (Nat.zero_le _)
    split
    · exact h1
    · exact hbare .quiet
    · exact hbare .purge
    · exact K.buildFull hL h1 n order
    · exact K.buildFull hL h1 n order

end

end Sys2Proof.Machine

/-! PROOFS. The expiries of a cycle start and the reports of the upstream keep what `Keeps` keeps. -/
namespace Sys2Proof.Machine

open Sys2Proof

/-! ## What an expiry leaves of the records -/

theorem State.sameHolder_barHeld (s : State) (n : Option Serial) (f : FeederId) (k : Nat) :
    (s.record f k).SameHolder ((s.barHeld n).record f k) := by
  cases n <;> cases f <;> exact ⟨rfl, rfl, rfl⟩

theorem State.sameHolder_recoveryDecision (s : State) (f : FeederId) (h k : Nat) :
    (s.record f k).SameHolder ((s.recoveryDecision f h).record f k) := by
  unfold State.recoveryDecision
  split
  · exact (State.sameHolder_eject s f h .stray k).trans (State.sameHolder_barHeld _ _ f k)
  · unfold State.record
    rw [State.fd_modFd]
    refine Record.SameHolder.trans ?_ (Feeder.sameHolder_modRecord _ h k _ ⟨rfl, rfl, rfl⟩)
    exact (((s.fd f).eases_offerResume (Feeder.says_true _) h trivial).records k).sameHolder

theorem RecState.ejected_of_live {x : RecState} (hl : x.live = true) (ha : x.active = false) : x = .ejected := by
  cases x <;> simp_all [RecState.live, RecState.active]

theorem State.record_expireArrival (s : State) (f : FeederId) (a : Arrival) (k : Nat) :
    (s.expireArrival f a).record f k = s.record f k := by
  unfold State.expireArrival
  rw [State.record_raise]
  unfold State.record
  rw [State.fd_modFd]
  rfl

section

variable {L : FeederId → Prop} {M : Settings → Msg → Prop} {A : List BarEntry → Settings → Arrival → Prop}
  {P : State → Prop} {s : State} {f : FeederId}

/-- The decision about a record that may have been ejected since its countdown was found (R167). -/
theorem Keeps.recoveryDecisionLive (K : Keeps L M A P) (hL : L f) (hs : P s) {h : Nat}
    (hl : (s.record f h).state.live = true) : P (s.recoveryDecision f h) := by
  cases ha : (s.record f h).state.active with
  | true => exact K.recoveryDecision hL hs ha
  | false =>
    unfold State.recoveryDecision
    split
    · unfold State.ejectAndBar State.barHeld
      rw [State.eject_of_inactive s f h _ ha]
      split
      · next n hn => exact K.bar s n hs (.inl ⟨f, h, hn, RecState.ejected_of_live hl ha⟩)
      · exact hs
    · exact K.easeFd hL hs fun hsay =>
        ((s.fd f).eases_offerResume hsay h (K.plain _ rfl rfl)).trans
          (Feeder.eases_modRecord { Record.Tuned.refl _ _ with
            range := fun _ k => { k with attempts := incUpTo_le _ _ _ k.attempts (le_refl _) } })

theorem Keeps.tearDowns (K : Keeps L M A P) (hL : L f) (l : List Nat) (hn : l.Nodup) :
    ∀ s, P s → (∀ h ∈ l, (s.record f h).state = .ejected) →
      P (l.foldl (fun t h => t.tearDown f h) s) ∧
        ∀ k, k ∉ l → (l.foldl (fun t h => t.tearDown f h) s).record f k = s.record f k := by
  induction l with
  | nil => exact fun s hs _ => ⟨hs, fun _ _ => rfl⟩
  | cons h l ih =>
    intro s hs he
    obtain ⟨hh, hn'⟩ := List.nodup_cons.mp hn
    have hrec : ∀ k, h ≠ k → (s.tearDown f h).record f k = s.record f k := fun k e => by
      rw [State.record_tearDown, if_neg e]
    obtain ⟨h1, h2⟩ := ih hn' (s.tearDown f h) (K.tearDown s f h hL hs (he h (List.mem_cons_self ..))) fun k hk => by
      rw [hrec k fun e => hh (e ▸ hk)]
      exact he k (List.mem_cons_of_mem _ hk)
    refine ⟨h1, fun k hk => ?_⟩
    rw [List.foldl_cons, h2 k fun e => hk (List.mem_cons_of_mem _ e), hrec k fun e => hk (e ▸ List.mem_cons_self ..)]

theorem Keeps.expireArrivals (K : Keeps L M A P) (hL : L f) (l : List Arrival) :
    ∀ s, P s → P (l.foldl (fun t a => t.expireArrival f a) s) ∧
      ∀ k, (l.foldl (fun t a => t.expireArrival f a) s).record f k = s.record f k := by
  induction l with
  | nil => exact fun s hs => ⟨hs, fun _ => rfl⟩
  | cons a l ih =>
    intro s hs
    obtain ⟨h1, h2⟩ := ih _ (K.expireArrival hL hs a)
    exact ⟨h1, fun k => (h2 k).trans (State.record_expireArrival s f a k)⟩

theorem Keeps.recoveryDecisions (K : Keeps L M A P) (hL : L f) (l : List Nat) :
    ∀ s, P s → (∀ h ∈ l, (s.record f h).state.live = true) → P (l.foldl (fun t h => t.recoveryDecision f h) s) := by
  induction l with
  | nil => exact fun s hs _ => hs
  | cons h l ih =>
    intro s hs hl
    refine ih _ (K.recoveryDecisionLive hL hs (hl h (List.mem_cons_self ..))) fun k hk => ?_
    rw [(State.sameHolder_recoveryDecision s f h k).live]
    exact hl k (List.mem_cons_of_mem _ hk)

theorem Feeder.mem_drained {fd : Feeder} {h : Nat} (hd : h ∈ fd.drained) : (fd.record h).state = .ejected := by
  obtain ⟨-, -, hp⟩ := (Feeder.mem_handlesWhere fd _ h).mp hd
  simp only [Bool.and_eq_true, decide_eq_true_eq] at hp
  exact hp.1

/-- The expiries of a feeder behind its decrements, in which the records whose recovery ends are HUSHED (R17, R95, R167). -/
theorem Keeps.expireAll (K : Keeps L M A P) (hL : L f) (hs : P s) (before : Feeder)
    (hr : ∀ h ∈ before.recoveryDue, (s.record f h).state = .hushed) : P (s.expireAll f before) := by
  unfold State.expireAll
  extract_lets s1 s2 s3
  have h1 : P s1 := K.easeFd hL hs fun _ => Feeder.eases_endSequence _ _
  have hrec1 : ∀ k, s1.record f k = s.record f k := fun k => by
    show ((s.modFd f Feeder.endSequence).fd f).record k = _
    rw [State.fd_modFd]
    unfold Feeder.endSequence
    split
    · split <;> rfl
    · rfl
  obtain ⟨h2, hrec2⟩ := K.tearDowns hL (s1.fd f).drained ((Feeder.pairwise_handlesWhere ..).imp (Nat.ne_of_lt)) s1 h1
    fun h hh => Feeder.mem_drained hh
  have h3 : P s3 ∧ ∀ k, s3.record f k = s2.record f k := by
    simp only [s3]
    split
    · exact K.expireArrivals hL _ s2 h2
    · exact ⟨h2, fun _ => rfl⟩
  refine K.recoveryDecisions hL _ s3 h3.1 fun h hh => ?_
  have hnd : h ∉ (s1.fd f).drained := fun hd => by
    have he : (s1.record f h).state = .ejected := Feeder.mem_drained hd
    rw [hrec1, hr h hh] at he
    cases he
  rw [h3.2, hrec2 h hnd, hrec1, hr h hh]
  rfl

theorem Keeps.afterStart (K : Keeps L M A P) (hL : L f) (hs : P s) (before : Feeder)
    (hr : ∀ h ∈ before.recoveryDue, (s.record f h).state = .hushed) : P (s.afterStart f before) := by
  unfold State.afterStart
  simp only
  split
  · split
    · exact K.easeFd hL (K.expireAll hL hs before hr) fun _ => Feeder.eases_sendDown _ _
    · exact K.expireAll hL hs before hr
  · exact hs

theorem Keeps.drainEnd (K : Keeps L M A P) (hL : L f) (hs : P s) (h : Nat) : P (s.drainEnd f h) := by
  unfold State.drainEnd
  simp only
  split
  · next e => exact K.tearDown s f h hL hs e.1
  · exact hs

theorem Keeps.decisionEnd (K : Keeps L M A P) (hL : L f) (hs : P s) (n : Serial) : P (s.decisionEnd f n) := by
  unfold State.decisionEnd
  split
  · split
    · exact hs
    · split
      · split
        · exact K.expireArrival hL hs _
        · exact hs
      · exact hs
  · exact hs

theorem Keeps.recoveryEnd (K : Keeps L M A P) (hL : L f) (hs : P s) (h : Nat) : P (s.recoveryEnd f h) := by
  unfold State.recoveryEnd
  simp only
  split
  · next e =>
    have ha : (s.record f h).state.active = true := by rw [e.1]; rfl
    obtain ⟨h1, h2⟩ := RecState.bounds_of_active ha
    refine K.recoveryDecision hL (K.tuneRange hL hs h (g := fun r => { r with recCd := 0 })
      (fun _ => ⟨rfl, rfl, rfl, rfl, rfl⟩) fun k => { k with }) ?_
    rw [State.record_modRecord_self s f h _ h1 h2]
    exact ha
  · exact hs

/-! ## Windows (R64 to R67) -/

theorem Keeps.modWindow (K : Keeps L M A P) (hs : P s) (n : CycleNumber) {g : WindowRecord → WindowRecord}
    (hg : ∀ w, (g w).feeder = w.feeder) : P (s.modWindow f n g) := by
  refine K.windows s _ hs (by rw [List.length_map]) fun w hw => ?_
  obtain ⟨v, hv, rfl⟩ := List.mem_map.mp hw
  refine ⟨v, hv, ?_⟩
  split
  · exact (hg v).symm
  · rfl

theorem Keeps.dropWindow (K : Keeps L M A P) (hs : P s) (n : CycleNumber) : P (s.dropWindow f n) :=
  K.windows s _ hs (List.length_filter_le _ _) fun w hw => ⟨w, (List.mem_filter.mp hw).1, rfl⟩

theorem Keeps.judgeCallIn (K : Keeps L M A P) (hL : L f) (hs : P s) (n : CycleNumber) (w : Window) (m8 level : Nat)
    (serial : Serial) (slot attempts firmware : Byte) :
    P (s.judgeCallIn f n w m8 level serial slot attempts firmware) := by
  unfold State.judgeCallIn
  simp only
  split
  · exact K.raise _ _ _ hs
  · exact K.count hL hs _ _
  · exact K.admitCallIn hL hs serial _ ⟨residueFits_residueOf _ _, delayOf_le _ _⟩

theorem Keeps.callInBurst (K : Keeps L M A P) (hL : L f) (hs : P s) (n : CycleNumber) (m8 level : Nat)
    (serial : Serial) (slot attempts firmware : Byte) :
    P (s.callInBurst f n m8 level serial slot attempts firmware) := by
  unfold State.callInBurst
  split
  · exact hs
  · split
    · exact K.judgeCallIn hL (K.modWindow hs n (g := fun w => { w with clean := w.clean + 1 }) fun _ => rfl) n _ m8 level
        serial slot attempts firmware
    · exact hs

theorem Keeps.probeBurst (K : Keeps L M A P) (hL : L f) (hs : P s) (n : CycleNumber) (m8 level h : Nat)
    (serial : Serial) : P (s.probeBurst f n m8 level h serial) := by
  unfold State.probeBurst
  split
  · exact hs
  · split
    · exact K.judgeProbe hL (K.modWindow hs n (g := fun w => { w with answered := true }) fun _ => rfl) h serial _ m8 level
    · exact hs

/-! ## Checks (R109, R115, R140) -/

theorem Record.tuned_answer (N : Msg → Prop) (r : Record) (p : Nat) : r.Tuned N (r.answer p) := by
  unfold Record.answer
  split
  · exact { Record.Tuned.refl N r with range := fun _ k => { k with miss := Nat.zero_le _ } }
  · exact { Record.Tuned.refl N r with range := fun _ k => { k with miss := Nat.zero_le _ } }
  · next e =>
    have ha : r.state.active = true := by rw [e]; rfl
    exact { Record.tuned_state N r .inService ha rfl with
      range := fun _ k => { k with
        activeAttempts := fun _ => k.activeAttempts ha, miss := Nat.zero_le _, suspect := Nat.zero_le _ } }
  · exact .refl N r

theorem Keeps.answerCheck (K : Keeps L M A P) (hL : L f) (hs : P s) (h : Nat) : P (s.answerCheck f h) :=
  K.tune hL hs (Record.tuned_answer _ _ _)

theorem Keeps.takeCheck (K : Keeps L M A P) (hL : L f) (hs : P s) (h : Nat) (before : RecState) (level : Nat)
    (w : Byte) : P (s.takeCheck f h before level w) := by
  unfold State.takeCheck
  simp only
  split
  · exact K.takeCondition hL (K.takeLevel hL hs h before level) h w
  · exact K.takeLevel hL hs h before level

theorem Keeps.judgeCheck (K : Keeps L M A P) (hL : L f) (hs : P s) (h : Nat) (d8 : Int) (level : Nat) (w : Byte) :
    P (s.judgeCheck f h d8 level w) := by
  unfold State.judgeCheck
  simp only
  split
  · next e =>
    split
    · exact K.takeCheck hL (K.judgeConfirm hL hs d8 e) h _ level w
    · exact K.judgeConfirm hL hs d8 e
  · split
    · next e =>
      exact K.answerCheck hL (K.takeCheck hL (K.judgeTiming hL hs d8 (RecState.active_of_judged e)) h _ level w) h
    · exact hs

theorem Keeps.modMap (K : Keeps L M A P) (hL : L f) (hs : P s) (n : CycleNumber) {g : HeldMap → HeldMap}
    (hg : ∀ m, MapLawful m.window m.guard m.grants → MapLawful (g m).window (g m).guard (g m).grants) :
    P (s.modFd f (·.modMap n g)) :=
  K.easeFd hL hs fun _ => Feeder.eases_modMap _ _ n g hg

theorem Keeps.markAnswered (K : Keeps L M A P) (hL : L f) (hs : P s) (n : CycleNumber) (kind : GrantKind) (h : Nat) :
    P (s.markAnswered f n kind h) :=
  K.modMap hL hs n fun m => m.lawful_modGrant kind h _ fun _ => ⟨rfl, rfl, rfl, rfl⟩

theorem Keeps.checkBurst (K : Keeps L M A P) (hL : L f) (hs : P s) (m : HeldMap) (m8 level h : Nat) (w : Byte) :
    P (s.checkBurst f m m8 level h w) := by
  unfold State.checkBurst
  split
  · exact hs
  · split
    · exact hs
    · have h1 := K.markAnswered hL hs m.cycle .check h
      simp only
      split
      · exact K.answerCheck hL h1 h
      · exact K.judgeCheck hL h1 h _ level w

/-! ## Data (R180, R181) -/

theorem Keeps.forwardFrame (K : Keeps L M A P) (hf : KeepsForward P) (hL : L f) (hs : P s) (h : Nat) (frame : Bytes) :
    P (s.forwardFrame f h frame) := by
  unfold State.forwardFrame
  split
  · next e =>
    simp only [Bool.and_eq_true, decide_eq_true_eq] at e
    exact hf s _ hs e.2
  · exact K.count hL hs _ _

theorem Keeps.dataBurst (K : Keeps L M A P) (hf : KeepsForward P) (hL : L f) (hs : P s) (m : HeldMap) (m8 h : Nat)
    (frames : List Bytes) :
    P (s.dataBurst f m m8 h frames) := by
  have hdrop : ∀ t, P t → P (t.dropFrames f frames) := fun t ht => K.count hL ht _ _
  have hfold : ∀ (l : List Bytes) t, P t → P (l.foldl (fun t frame => t.forwardFrame f h frame) t) := by
    intro l
    induction l with
    | nil => exact fun t ht => ht
    | cons x l ih => exact fun t ht => ih _ (K.forwardFrame hf hL ht h x)
  unfold State.dataBurst
  split
  · exact hdrop s hs
  · next g _ =>
    split
    · exact hdrop s hs
    · have h1 : P ((s.markAnswered f m.cycle .data h).judgeData f h m.cycle (deviation m8 g.offset)).1 := by
        have h0 := K.markAnswered hL hs m.cycle .data h
        unfold State.judgeData
        simp only
        split
        · next e =>
          rw [Bool.and_eq_true] at e
          exact K.judgeTiming hL h0 _ (RecState.active_of_judged e.1)
        · exact h0
      simp only
      split
      · exact hfold _ _ h1
      · exact hdrop _ h1

/-! ## Burst reports (R31, R139, R210) -/

theorem Keeps.cleanBurst (K : Keeps L M A P) (hf : KeepsForward P) (hL : L f) (hs : P s) (n : CycleNumber)
    (m8 level : Nat) (content : BurstContent) : P (s.cleanBurst f n m8 level content) := by
  unfold State.cleanBurst
  split
  · exact hs
  · next m _ =>
    have h1 := K.modMap hL hs n (g := fun m => { m with burstSeen := true }) fun _ h => h
    simp only
    split
    · exact K.callInBurst hL h1 n m8 level _ _ _ _
    · exact K.probeBurst hL h1 n m8 level _ _
    · exact K.checkBurst hL h1 m m8 level _ _
    · exact K.dataBurst hf hL h1 m m8 _ _
    · exact h1

theorem Keeps.garbleGrant (K : Keeps L M A P) (hL : L f) (hs : P s) (n : CycleNumber) (g : Grant) :
    P (s.garbleGrant f n g) := by
  have h1 := K.modMap hL hs n (g := (·.modGrant g.kind g.handle fun g => { g with garbled := true })) fun m =>
    m.lawful_modGrant _ _ _ fun _ => ⟨rfl, rfl, rfl, rfl⟩
  unfold State.garbleGrant
  simp only
  split
  · exact K.failConfirm hL h1 _
  · exact h1

theorem Keeps.garbledBurst (K : Keeps L M A P) (hL : L f) (hs : P s) (n : CycleNumber) (m8 : Option Nat) :
    P (s.garbledBurst f n m8) := by
  unfold State.garbledBurst
  split
  · exact hs
  · have h1 := K.modMap hL hs n (g := fun m => { m with burstSeen := true }) fun _ h => h
    simp only
    split
    · unfold State.garbleAt
      split
      · split
        · split
          · exact K.modWindow h1 n (g := fun w => { w with collided := true }) fun _ => rfl
          · exact h1
        · split
          · exact K.garbleGrant hL h1 n _
          · exact h1
      · split
        · exact K.garbleGrant hL h1 n _
        · exact h1
    · exact h1

theorem Keeps.unassignedLight (K : Keeps L M A P) (hL : L f) (hs : P s) (n : CycleNumber) (m8 : Option Nat) :
    P (s.unassignedLight f n m8) := by
  unfold State.unassignedLight
  split
  · exact hs
  · have h1 := K.modMap hL hs n (g := fun m => { m with lightSeen := true }) fun _ h => h
    cases m8 with
    | none => exact h1
    | some p =>
      simp only
      split
      · exact h1
      · exact hs

/-! ## The end of a CHECK span (R110, R141 to R144) -/

theorem Record.tuned_missService (N : Msg → Prop) (r : Record) (limit : Nat) (hr : r.state = .inService) :
    r.Tuned N (r.missService limit) := by
  have ha : r.state.active = true := by rw [hr]; rfl
  unfold Record.missService
  split
  · exact { Record.Tuned.refl N r with range := fun _ k => { k with } }
  · simp only
    split
    · unfold Record.toSuspect Record.endWatch
      split <;> exact { Record.tuned_state N r .suspect ha rfl with
        range := fun _ k => { k with
          activeAttempts := fun _ => k.activeAttempts ha, suspect := le_refl 8
          miss := incUpTo_le _ _ _ k.miss (le_refl _) } }
    · exact { Record.Tuned.refl N r with range := fun _ k => { k with miss := incUpTo_le _ _ _ k.miss (le_refl _) } }

theorem Keeps.missLevelling (K : Keeps L M A P) (hL : L f) (hs : P s) (h : Nat) : P (s.missLevelling f h) := by
  have h1 := K.tuneRange hL hs h (g := fun r => { r with miss := incUpTo 15 r.miss })
    (fun _ => ⟨rfl, rfl, rfl, rfl, rfl⟩) fun k => { k with miss := incUpTo_le _ _ _ k.miss (le_refl _) }
  unfold State.missLevelling
  simp only
  split
  · exact K.easeFd hL h1 fun _ => (Feeder.eases_removeUnsent _ _ h .step).trans
      (Feeder.eases_offerOrdinary _ h (K.plain _ rfl rfl))
  · exact h1

theorem Keeps.missSuspect (K : Keeps L M A P) (hL : L f) (hs : P s) (h : Nat) : P (s.missSuspect f h) := by
  have h1 := K.tuneRange hL hs h (g := fun r => { r with suspectLeft := r.suspectLeft - 1 })
    (fun _ => ⟨rfl, rfl, rfl, rfl, rfl⟩) fun k => { k with suspect := (Nat.sub_le _ _).trans k.suspect }
  unfold State.missSuspect
  simp only
  split
  · exact K.ejectAny hL h1 h _
  · exact h1

theorem Keeps.missCheck (K : Keeps L M A P) (hL : L f) (hs : P s) (h : Nat) : P (s.missCheck f h) := by
  unfold State.missCheck
  split
  · exact K.missLevelling hL hs h
  · next e => exact K.tune hL hs (Record.tuned_missService _ _ _ e)
  · exact K.missSuspect hL hs h
  · exact hs

theorem Keeps.checkSpanEnd (K : Keeps L M A P) (hL : L f) (hs : P s) (n : CycleNumber) (h : Nat) :
    P (s.checkSpanEnd f n h) := by
  unfold State.checkSpanEnd
  split
  · exact hs
  · split
    · exact hs
    · next g _ =>
      unfold State.judgeSpan
      split
      · split
        · exact hs
        · exact K.failConfirm hL hs _
      · split
        · exact hs
        · split
          · exact hs
          · split
            · exact hs
            · exact K.missCheck hL hs _

/-! ## Ends of windows and cycles (R31, R43 to R45, R66, R67) -/

theorem Keeps.callInWindowEnd (K : Keeps L M A P) (hL : L f) (hs : P s) (n : CycleNumber) :
    P (s.callInWindowEnd f n) := by
  unfold State.callInWindowEnd
  split
  · exact hs
  · split
    · exact K.easeFd hL (K.dropWindow hs n) fun _ => Feeder.eases_takeOutcome _ _ _ _
    · exact hs

theorem Keeps.probeWindowEnd (K : Keeps L M A P) (hL : L f) (hs : P s) (n : CycleNumber) :
    P (s.probeWindowEnd f n) := by
  unfold State.probeWindowEnd
  split
  · exact hs
  · split
    · exact hs
    · split
      · exact K.dropWindow hs n
      · exact K.failProbe hL (K.dropWindow hs n) _

theorem Keeps.watchDark (K : Keeps L M A P) (hL : L f) (hs : P s) (m : HeldMap) : P (s.watchDark f m) := by
  have quiet : ∀ x : Feeder, (s.fd f).Eases (M (s.fd f).settings) x → P (s.setFd f x) := fun x hx =>
    K.ease s f x hL hs hx
  unfold State.watchDark
  extract_lets fd
  split
  · split
    · exact K.raise _ _ _ (quiet _ (Feeder.eases_of_quiet _ id rfl))
    · exact quiet _ (Feeder.eases_of_quiet _ id rfl)
  · split
    · exact K.raise _ _ _ (quiet _ (Feeder.eases_of_quiet _ id rfl))
    · exact quiet _ (Feeder.eases_of_quiet _ id rfl)

theorem Keeps.strayReached (K : Keeps L M A P) (hL : L f) (hs : P s) (hstray : (s.fd f).stray = false) :
    P (s.strayReached f) := by
  unfold State.strayReached
  split
  · next h e => exact K.reHush hL hs (Feeder.watched_state e)
  · exact K.beginStray s f hL hs hstray

theorem Keeps.watchStray (K : Keeps L M A P) (hL : L f) (hs : P s) (m : HeldMap) : P (s.watchStray f m) := by
  unfold State.watchStray
  extract_lets fd run s1
  have h1 : P s1 := K.ease s f _ hL hs (Feeder.eases_of_quiet _ id rfl)
  split
  · exact K.strayReport hL h1 _ _
  · next hf =>
    split
    · refine K.strayReached hL h1 ?_
      show ((s.setFd f { fd with strayRun := run }).fd f).stray = false
      rw [State.fd_setFd]
      simpa using hf
    · exact h1

theorem Keeps.upstreamCycleEnd (K : Keeps L M A P) (hL : L f) (hs : P s) (n : CycleNumber) :
    P (s.upstreamCycleEnd f n) := by
  unfold State.upstreamCycleEnd
  split
  · exact hs
  · next m _ =>
    have h1 := K.easeFd (g := fun fd => { fd with heldMaps := fd.heldMaps.filter fun x => decide (x.cycle ≠ n) }) hL hs
      fun _ => Feeder.eases_heldMaps _ _ _ (List.length_filter_le _ _) fun x hx => ⟨x, (List.mem_filter.mp hx).1, id⟩
    simp only
    split
    · exact K.watchStray hL (K.watchDark hL h1 m) m
    · exact h1

end

end Sys2Proof.Machine

/-! PROOFS. The commands and the trunk added to `Keeps`: a property that has all the fields is kept by every step. -/
namespace Sys2Proof.Machine

open Sys2Proof

/-! ## A CLOSED feeder that holds nothing -/

theorem Feeder.record_of_resetTable {fd : Feeder} (e : fd.table = resetFeeder.table) (h : Nat) :
    fd.record h = freeRecord := by
  unfold Feeder.record
  rw [e]
  unfold resetFeeder
  split
  · rfl
  · by_cases hb : h - 1 < 255
    · simp [hb]
    · simp [hb]

/-- A CLOSED feeder at its reset values, without a window record: no event finds anything in it. -/
structure State.Dormant (s : State) (f : FeederId) : Prop where
  closed : (s.fd f).state = .closed
  emptied : (s.fd f).Emptied
  windows : ∀ w ∈ s.windows, w.feeder ≠ f

theorem Feeder.Emptied.eq {fd : Feeder} (h : fd.Emptied) :
    fd = { resetFeeder with settings := fd.settings, watch := fd.watch, counters := fd.counters, line := fd.line } := h

theorem Feeder.Emptied.record {fd : Feeder} (h : fd.Emptied) (k : Nat) : fd.record k = freeRecord :=
  Feeder.record_of_resetTable (have e := congrArg Feeder.table h.eq; e) k

theorem Feeder.Emptied.arrivals {fd : Feeder} (h : fd.Emptied) : fd.arrivals = [] := have e := congrArg Feeder.arrivals h.eq; e

theorem Feeder.Emptied.stray {fd : Feeder} (h : fd.Emptied) : fd.stray = false := have e := congrArg Feeder.stray h.eq; e

theorem Feeder.Emptied.nextHeader {fd : Feeder} (h : fd.Emptied) : fd.nextHeader = none :=
  have e := congrArg Feeder.nextHeader h.eq; e

theorem Feeder.Emptied.heldMaps {fd : Feeder} (h : fd.Emptied) : fd.heldMaps = [] := have e := congrArg Feeder.heldMaps h.eq; e

/-! ## Updates beside the feeders -/

/-- `t` is `s` with fields of the device, the protection and the Management Unit written, as the commands write them. -/
def State.Served (s t : State) : Prop :=
  t = { s with
    cycle := t.cycle, lastServed := t.lastServed, award := t.award, freeze := t.freeze, freezeLock := t.freezeLock
    guardEnable := t.guardEnable, profiles := t.profiles, allLock := t.allLock, badTags := t.badTags
    mgmtDropped := t.mgmtDropped, holdover := t.holdover, wdMode := t.wdMode, wdPeriod := t.wdPeriod
    wdArmed := t.wdArmed, wdCd := t.wdCd, noticeMask := t.noticeMask, noticeOverrun := t.noticeOverrun
    holdoverEntered := t.holdoverEntered, resetPending := t.resetPending }

/-- The same, with the phase, the pins, the receipt count, the manager's address, the transmitter and
the queues between the part and the trunk written too, the queues within their capacities. -/
structure State.Housekept (s t : State) : Prop where
  rest : t = { s with
    phase := t.phase
    pins := t.pins, cycle := t.cycle, lastServed := t.lastServed, award := t.award, freeze := t.freeze
    freezeLock := t.freezeLock, guardEnable := t.guardEnable, profiles := t.profiles, allLock := t.allLock
    badTags := t.badTags, mgmtDropped := t.mgmtDropped, receipt := t.receipt, holdover := t.holdover
    wdMode := t.wdMode, wdPeriod := t.wdPeriod, wdArmed := t.wdArmed, wdCd := t.wdCd, noticeMask := t.noticeMask
    noticeOverrun := t.noticeOverrun, holdoverEntered := t.holdoverEntered, resetPending := t.resetPending
    lastManager := t.lastManager, upBuffer := t.upBuffer, mgmtBuffer := t.mgmtBuffer, replies := t.replies
    notices := t.notices, transmitting := t.transmitting, lastSent := t.lastSent, lastReplySource := t.lastReplySource }
  upBuffer : s.upBuffer.length ≤ 128 → t.upBuffer.length ≤ 128
  mgmtBuffer : s.mgmtBuffer.length ≤ 8 → t.mgmtBuffer.length ≤ 8
  replies : s.replies.length ≤ 16 → t.replies.length ≤ 16
  notices : s.notices.length ≤ 64 → t.notices.length ≤ 64

theorem State.Served.housekept {s t : State} (h : s.Served t) : s.Housekept t := by
  unfold State.Served at h
  rw [h]
  exact ⟨rfl, id, id, id, id⟩

theorem State.Housekept.fd {s t : State} (h : s.Housekept t) (f : FeederId) : t.fd f = s.fd f := by
  rw [h.rest]; cases f <;> rfl

theorem State.Housekept.windows {s t : State} (h : s.Housekept t) : t.windows = s.windows := by rw [h.rest]

theorem State.Housekept.dormant {s t : State} (h : s.Housekept t) {f : FeederId} (hd : s.Dormant f) : t.Dormant f :=
  ⟨by rw [h.fd]; exact hd.closed, by rw [h.fd]; exact hd.emptied, by rw [h.windows]; exact hd.windows⟩

theorem State.housekept_opened (s : State) (t : Taking) : s.Housekept (s.opened t) := by
  rw [State.opened_eq]; exact ⟨rfl, id, id, id, id⟩

/-- `P` is kept by every update that an event of a feeder or a command makes; `Q` follows from it and is what a FEEDER_CLOSE
leaves. `F` says which plan entries may be written. -/
structure KeepsCommands (L : FeederId → Prop) (M : Settings → Msg → Prop) (A : List BarEntry → Settings → Arrival → Prop)
    (F : Nat → Prop) (P Q : State → Prop) : Prop extends Keeps L M A P where
  sound : ∀ s, P s → Q s
  service : ∀ s t, P s → s.Served t → P t
  settings : ∀ s f x, P s → x.reach = (s.fd f).settings.reach ∨ (s.fd f).state = .closed →
    P (s.modFd f fun fd => { fd with settings := x })
  tally : ∀ s f c, P s → P (s.modFd f fun fd => { fd with counters := c })
  clear : ∀ s f, P s → P (s.modFd f fun fd => { fd with counters := zeroCounters, latched := clearLatched })
  watch : ∀ s f w, P s → P (s.modFd f fun fd => { fd with watch := w })
  opens : ∀ s f, P s → (s.fd f).state = .closed →
    P (s.modFd f fun fd => { fd with state := .quieting, seqCount := some 64 })
  close : ∀ s f, L f → P s → Q (s.closeFeeder f)
  rewrite : ∀ s i a kind expected profile, P s → F i → i < 512 →
    (s.planAt i).claimedAgainst ((s.planAt i).rewrite a kind expected profile) = false →
    P (s.setPlan i ((s.planAt i).rewrite a kind expected profile))
  erase : ∀ s i, P s → F i → i < 512 → (s.planAt i).held = false → P (s.setPlan i unusedEntry)
  barHold : ∀ s n, P s → 1024 ≤ n → n ≤ 65535 → P { s with barHold := n }
  unbar : ∀ s l, P s → l.Sublist s.bars → P { s with bars := l }

/-- `P` and `Q` are kept by the trunk and by the cycle start too. -/
structure KeepsSteps (L : FeederId → Prop) (M : Settings → Msg → Prop) (A : List BarEntry → Settings → Arrival → Prop)
    (F : Nat → Prop) (P Q : State → Prop) : Prop extends KeepsCommands L M A F P Q where
  forward : KeepsForward P
  trunk : ∀ s t, P s → s.Housekept t → P t
  reply : ∀ s t, Q s → s.Housekept t → Q t
  tickBars : ∀ s, P s → P { s with bars := tickBars s.bars }

section

variable {L : FeederId → Prop} {M : Settings → Msg → Prop} {A : List BarEntry → Settings → Arrival → Prop}
  {F : Nat → Prop} {P Q : State → Prop} {s : State} {f : FeederId}

/-! ## The commands (chapter 10) -/

/-- Every feeder that has no events is dormant. -/
def State.Awake (L : FeederId → Prop) (s : State) : Prop := ∀ f, L f ∨ s.Dormant f

theorem State.Awake.of_state (h : s.Awake L) (e : (s.fd f).state ≠ .closed) : L f :=
  (h f).resolve_right fun d => e d.closed

theorem State.Awake.of_record (h : s.Awake L) {k : Nat} (e : (s.record f k).state ≠ .free) : L f :=
  (h f).resolve_right fun d => e (by rw [State.record, d.emptied.record]; rfl)

theorem State.Awake.of_arrival (h : s.Awake L) {a : Arrival} (e : a ∈ (s.fd f).arrivals) : L f :=
  (h f).resolve_right fun d => by rw [d.emptied.arrivals] at e; cases e

theorem State.Housekept.awake {t : State} (h : s.Housekept t) (hw : s.Awake L) : t.Awake L :=
  fun f => (hw f).imp id h.dormant

theorem reach_of_writeNumber {x y : Settings} {lo hi : Nat} {value : Word16} {put : Nat → Settings} {clamped : Bool}
    (e : writeNumber lo hi value put = .written y clamped) (hp : ∀ n, (put n).reach = x.reach) : y.reach = x.reach := by
  obtain ⟨rfl, -⟩ := SettingWrite.written.inj e
  exact hp _

theorem reach_of_writeChoice {α : Type} {x y : Settings} {c : Option α} {put : α → Settings} {clamped : Bool}
    (e : writeChoice c put = .written y clamped) (hp : ∀ n, (put n).reach = x.reach) : y.reach = x.reach := by
  unfold writeChoice at e
  split at e
  · obtain ⟨rfl, -⟩ := SettingWrite.written.inj e
    exact hp _
  · cases e

theorem reach_of_writeLevelWindow {x y : Settings} {low high : Word16} {clamped : Bool}
    (e : writeLevelWindow x low high = .written y clamped) : y.reach = x.reach := by
  unfold writeLevelWindow at e
  simp only at e
  split at e
  · cases e
  · obtain ⟨rfl, -⟩ := SettingWrite.written.inj e
    rfl

/-- Only REACH writes the reach class (R32). -/
theorem Settings.reach_of_write {x y : Settings} {id : Byte} {value high : Word16} {clamped : Bool}
    (e : x.write id value high = .written y clamped) (hid : id ≠ 0#8) : y.reach = x.reach := by
  have hid : id.toNat ≠ 0 := fun h => hid (BitVec.eq_of_toNat_eq h)
  unfold Settings.write at e
  split at e
  case h_1 h => exact absurd h hid
  case h_4 | h_5 | h_6 => exact reach_of_writeChoice e fun _ => rfl
  case h_10 => exact reach_of_writeLevelWindow e
  case h_15 => cases e
  all_goals exact reach_of_writeNumber e fun _ => rfl

theorem KeepsCommands.feederSet (K : KeepsCommands L M A F P Q) (hs : P s) (feeder setting : Byte)
    (value high : Word16) : P (s.cmdFeederSet feeder setting value high).1 := by
  unfold State.cmdFeederSet
  split
  · exact hs
  · next g _ =>
    split
    · exact hs
    · split <;> exact hs
    · next x clamped e =>
      split
      · exact hs
      · split
        · exact hs
        · next h =>
          refine K.settings s g x hs ?_
          by_cases hid : setting = 0#8
          · exact .inr (not_not.mp fun hc => h ⟨hid, hc⟩)
          · exact .inl (Settings.reach_of_write e hid)

theorem KeepsCommands.feederOpen (K : KeepsCommands L M A F P Q) (hs : P s) (feeder : Byte) :
    P (s.cmdFeederOpen feeder).1 := by
  unfold State.cmdFeederOpen
  split
  · exact hs
  · next g _ =>
    split
    · next e =>
      unfold done State.openFeeder
      split
      · exact K.opens s g hs e
      · exact K.opens _ g (K.service s { s with cycle := s.cycle + 1#16, award := none } hs rfl)
          (by cases g <;> exact e)
    · exact hs
    · exact hs
    · exact hs
    · exact hs

theorem KeepsCommands.feederClose (K : KeepsCommands L M A F P Q) (hs : P s) (hw : s.Awake L) (feeder : Byte) :
    Q (s.cmdFeederClose feeder).1 := by
  unfold State.cmdFeederClose
  split
  · exact K.sound s hs
  · next g _ =>
    split
    · exact K.sound s hs
    · next e => exact K.close s g (hw.of_state e) hs

theorem KeepsCommands.feederPause (K : KeepsCommands L M A F P Q) (hs : P s) (hw : s.Awake L) (feeder : Byte) :
    P (s.cmdFeederPause feeder).1 := by
  unfold State.cmdFeederPause
  split
  · exact hs
  · split
    · next e => exact K.easeFd (g := fun fd => { fd with state := .paused }) (hw.of_state (by rw [e]; decide)) hs fun _ =>
        Feeder.eases_of_quiet _ (fun _ => by simp) rfl
    · exact hs

theorem KeepsCommands.feederResume (K : KeepsCommands L M A F P Q) (hs : P s) (hw : s.Awake L) (feeder : Byte) :
    P (s.cmdFeederResume feeder).1 := by
  unfold State.cmdFeederResume
  split
  · exact hs
  · split
    · next e => exact K.easeFd (g := fun fd => { fd with state := .opened }) (hw.of_state (by rw [e]; decide)) hs fun _ =>
        Feeder.eases_of_quiet _ (fun _ => by simp) rfl
    · exact hs

theorem KeepsCommands.feederStatus (K : KeepsCommands L M A F P Q) (hs : P s) (feeder clear : Byte) :
    P (s.cmdFeederStatus feeder clear).1 := by
  unfold State.cmdFeederStatus
  split
  · next c _ _ =>
    cases c
    · exact hs
    · exact K.clear s _ hs
  · exact hs

theorem KeepsCommands.watchSet (K : KeepsCommands L M A F P Q) (hs : P s) (feeder mode mask compare : Byte) :
    P (s.cmdWatchSet feeder mode mask compare).1 := by
  unfold State.cmdWatchSet
  split
  · exact K.watch s _ _ hs
  · exact hs

theorem KeepsCommands.strayClear (K : KeepsCommands L M A F P Q) (hs : P s) (hw : s.Awake L) (feeder : Byte) :
    P (s.cmdStrayClear feeder).1 := by
  unfold State.cmdStrayClear
  split
  · exact hs
  · next g _ =>
    split
    · next e =>
      have hL : L g := (hw g).resolve_right fun d => by rw [d.emptied.stray] at e; cases e
      exact K.easeFd hL hs fun hsay => Feeder.eases_endHunt _ hsay (K.plain _ rfl rfl)
    · exact hs

theorem indexArg_lt {i : Word16} {n : Nat} (e : indexArg i = some n) : n < 512 := by
  unfold indexArg at e
  split at e
  · next h => cases e; exact h
  · cases e

theorem KeepsCommands.planWrite (K : KeepsCommands L M A F P Q) (hs : P s)
    (hF : ∀ j, s.freeze.holds j = false → F j) (a : PlanArgs) : P (s.cmdPlanWrite a).1 := by
  unfold State.cmdPlanWrite
  split
  · exact hs
  · split
    · next i kind expected profile hi _ _ _ =>
      split
      · exact hs
      · split
        · exact hs
        · next hfr =>
          extract_lets new
          split
          · exact hs
          · next hcl =>
            split
            · exact hs
            · exact K.rewrite s i a kind expected profile hs (hF i (by simpa using hfr)) (indexArg_lt hi)
                (by simpa using hcl)
    · exact hs

theorem KeepsCommands.planErase (K : KeepsCommands L M A F P Q) (hs : P s)
    (hF : ∀ j, s.freeze.holds j = false → F j) (index : Word16) : P (s.cmdPlanErase index).1 := by
  unfold State.cmdPlanErase
  split
  · exact hs
  · split
    · exact hs
    · next i hi =>
      split
      · exact hs
      · next hfr =>
        split
        · exact hs
        · next hh => exact K.erase s i hs (hF i (by simpa using hfr)) (indexArg_lt hi) (by simpa using hh)

theorem KeepsCommands.admitArrival (K : KeepsCommands L M A F P Q) (hs : P s) (hw : s.Awake L) (feeder : Byte)
    (serial : Serial) (profile : Byte) : P (s.cmdAdmit feeder serial profile).1 := by
  unfold State.cmdAdmit
  split
  · split
    · exact hs
    · split
      · exact hs
      · next a e =>
        split
        · exact K.easeFd (g := (·.readyArrival serial _)) (hw.of_arrival (List.mem_of_find?_eq_some e)) hs fun _ =>
            Feeder.eases_readyArrival _ _ _ _
        · exact hs
  · exact hs

theorem State.bar_dropArrival (s : State) (f : FeederId) (n : Serial) : (s.modFd f (·.dropArrival n)).bar n = s.bar n := by
  have hdrop : ∀ fd : Feeder, (fd.dropArrival n).dropArrival n = fd.dropArrival n := fun fd => by
    simp only [Feeder.dropArrival_eq, List.filter_filter, Bool.and_self]
  cases f <;> simp only [State.bar_eq, State.modFd, State.setFd, State.fd, hdrop]

theorem KeepsCommands.refuse (K : KeepsCommands L M A F P Q) (hs : P s) (hw : s.Awake L) (feeder : Byte)
    (serial : Serial) (bar : Byte) : P (s.cmdRefuse feeder serial bar).1 := by
  unfold State.cmdRefuse
  split
  · next g b _ _ =>
    split
    · exact hs
    · split
      · next e =>
        obtain ⟨a, ha, hn⟩ := List.any_eq_true.mp e
        cases b
        · exact K.easeFd (g := (·.dropArrival serial)) (hw.of_arrival ha) hs fun _ => Feeder.eases_dropArrival _ _ _
        · show P ((s.modFd g (·.dropArrival serial)).bar serial)
          rw [State.bar_dropArrival]
          exact K.bar s serial hs (.inr (.inr ⟨g, a, ha, of_decide_eq_true hn⟩))
      · exact hs
  · exact hs

theorem KeepsCommands.terminalEject (K : KeepsCommands L M A F P Q) (hs : P s) (hw : s.Awake L)
    (feeder handle bar : Byte) : P (s.cmdTerminalEject feeder handle bar).1 := by
  unfold State.cmdTerminalEject
  split
  · next g h b _ _ _ =>
    split
    · exact hs
    · next e =>
      split
      · unfold done State.barHeld
        split
        · next n hn => exact K.bar s n hs (.inl ⟨g, h, hn, e⟩)
        · exact hs
      · exact hs
    · next hfree hej =>
      have hL : L g := hw.of_record (k := h) hfree
      have ha : (s.record g h).state.active = true := by
        cases hst : (s.record g h).state <;> simp_all [RecState.active]
      cases b
      · exact K.ejectPlain hL hs .ordered ha
      · exact K.ejectAndBarPlain hL hs .ordered ha
  · exact hs

theorem KeepsCommands.terminalRelevel (K : KeepsCommands L M A F P Q) (hs : P s) (hw : s.Awake L)
    (feeder handle : Byte) : P (s.cmdTerminalRelevel feeder handle).1 := by
  unfold State.cmdTerminalRelevel
  split
  · next g h _ _ =>
    split
    · exact hs
    · next e =>
      exact K.tuneRange (hw.of_record (k := h) (by simp [e])) hs h (g := fun r => { r with walking := true, levelRun := 0 })
        (fun _ => ⟨rfl, rfl, rfl, rfl, rfl⟩) fun k => { k with levelRun := Nat.zero_le _ }
    · exact hs
    · exact hs
  · exact hs

theorem clampTo_bounds (lo hi n : Nat) (h : lo ≤ hi) : lo ≤ clampTo lo hi n ∧ clampTo lo hi n ≤ hi := by
  unfold clampTo; omega

theorem KeepsCommands.barAdd (K : KeepsCommands L M A F P Q) (hs : P s) (serial : Option Serial)
    (hold : Option Word16) : P (s.cmdBarAdd serial hold).1 := by
  have h1 : P (s.writeBarHold hold) ∧ (s.writeBarHold hold).heldActive = s.heldActive := by
    unfold State.writeBarHold
    cases hold with
    | none => exact ⟨hs, rfl⟩
    | some v =>
      obtain ⟨h1, h2⟩ := clampTo_bounds 1024 65535 v.toNat (by omega)
      exact ⟨K.barHold s _ hs h1 h2, rfl⟩
  unfold State.cmdBarAdd
  split
  · exact hs
  · split
    · exact hs
    · next h =>
      cases serial with
      | none => exact h1.1
      | some n => exact K.bar _ n h1.1 (.inr (.inl (by rw [h1.2]; simpa using h)))

theorem KeepsCommands.barRemove (K : KeepsCommands L M A F P Q) (hs : P s) (serial : Serial) :
    P (s.cmdBarRemove serial).1 := by
  unfold State.cmdBarRemove
  split
  · exact K.unbar s _ hs List.filter_sublist
  · exact hs

end

end Sys2Proof.Machine

/-! PROOFS. Two ways to `Keeps`: a property that reads nothing of the feeders with events, and one that every softened
feeder keeps. -/
namespace Sys2Proof.Machine

open Sys2Proof

/-! ## A property that does not read the feeders with events -/

/-- `P` is kept by every write to a feeder of `L` and by the shared updates of its events. -/
structure KeepsCoarse (L : FeederId → Prop) (P : State → Prop) : Prop where
  setFd : ∀ s f x, L f → P s → P (s.setFd f x)
  raise : ∀ s k n, P s → P (s.raise k n)
  bar : ∀ s n, P s → P (s.bar n)
  dropArrivals : ∀ s n, P s → P (s.dropArrivals n)
  takeLink : ∀ s link f h, P s → P (s.takeLink link f h)
  releaseLink : ∀ s link, P s → P (s.releaseLink link)
  windows : ∀ s ws, P s → ws.length ≤ s.windows.length ∨ ws.length ≤ 2 → P { s with windows := ws }
  award : ∀ s a l, P s → P (s.withAward a l)

theorem KeepsCoarse.chooseTarget {L : FeederId → Prop} {P : State → Prop} (K : KeepsCoarse L P) {s : State} {f : FeederId}
    (hL : L f) (hs : P s) : P (s.chooseTarget f) := by
  unfold State.chooseTarget
  simp only
  split
  · exact K.setFd s f _ hL hs
  · exact K.raise _ _ _ (K.setFd s f _ hL hs)

theorem KeepsCoarse.eject {L : FeederId → Prop} {P : State → Prop} (K : KeepsCoarse L P) {s : State} {f : FeederId}
    (hL : L f) (hs : P s) (h : Nat) (reason : EjectReason) : P (s.eject f h reason) := by
  unfold State.eject State.huntEjected
  simp only
  split
  · have h1 := K.setFd s f ((s.fd f).ejectRecord h reason) hL hs
    split
    · exact K.chooseTarget hL (K.setFd _ f _ hL (K.raise _ _ _ h1))
    · exact K.raise _ _ _ h1
  · exact hs

theorem KeepsCoarse.keeps {L : FeederId → Prop} {P : State → Prop} (K : KeepsCoarse L P) :
    Keeps L (fun _ _ => True) (fun _ _ _ => True) P where
  fits _ _ _ := trivial
  names _ _ _ _ := trivial
  tells s f _ := (s.fd f).says_true
  arrival _ _ _ _ _ := trivial
  raise := K.raise
  ease s f x hL hs _ := K.setFd s f x hL hs
  culprit s f _ hL hs _ := K.setFd s f _ hL hs
  chooseTarget _ _ hL hs _ := K.chooseTarget hL hs
  beginStray s f hL hs _ := by
    unfold State.beginStray State.startHunt
    exact K.chooseTarget hL (K.setFd _ f _ hL (K.raise _ _ _ (K.setFd s f _ hL hs)))
  eject s f h _ reason hL hs _ _ := K.eject hL (K.setFd s f _ hL hs) h reason
  bar s n hs _ := K.bar s n hs
  join s f _ hL hs _ _ := K.setFd s f _ hL hs
  name s f h a link _ hL hs _ _ _ _ _ :=
    K.dropArrivals _ a.serial (K.takeLink _ link f h (K.setFd s f _ hL hs))
  tearDown s f h hL hs _ := K.setFd _ f _ hL (K.releaseLink s (s.record f h).planLink hs)
  windows s ws hs hl _ := K.windows s ws hs (.inl hl)
  addWindow s f n w _ hs := K.windows s _ hs (.inr (length_lastTwo _))
  award := K.award

/-! ## A property that every softened feeder keeps -/

/-- `P` is kept by what softens a feeder of `L`, by an ejected record that the hunt does not hold, by an active target, and by
the shared updates of the events. -/
structure KeepsCore (L : FeederId → Prop) (M : Settings → Msg → Prop) (A : List BarEntry → Settings → Arrival → Prop)
    (P : State → Prop) : Prop where
  fits : ∀ x m, m.Fits x → M x m
  names : ∀ b x a, A b x a → M x (.name a.serial a.measured.eqd)
  tells : ∀ s f, P s → (s.fd f).Says (M (s.fd f).settings)
  arrival : ∀ s f a, P s → a ∈ (s.fd f).arrivals → A s.bars (s.fd f).settings a
  raise : ∀ s k n, P s → P (s.raise k n)
  soften : ∀ s f x, L f → P s → (s.fd f).Softens (M (s.fd f).settings) x → P (s.setFd f x)
  culprit : ∀ s f h, L f → P s → (s.fd f).hunt.target = some h →
    P (s.modRecord f h fun r => { r with state := .hushed, heldFrom := none })
  retarget : ∀ s f k, L f → P s → (s.record f k).state.active = true →
    P (s.modFd f fun fd => { fd with hunt := { fd.hunt with target := some k } })
  ejectFor : ∀ s f h n reason, L f → P s → (s.record f h).state.active = true → (s.fd f).hunt.target ≠ some h →
    n ≤ (s.record f h).eqAttempts + 1 → P (s.modRecord f h fun r => (r.attempted n).ejectFor reason)
  bar : ∀ s n, P s → s.Barrable n → P (s.bar n)
  join : ∀ s f (a : Arrival), L f → P s → s.Joinable f a.serial → a.measured.Fits (s.fd f).settings →
    P (s.modFd f fun fd => { fd with arrivals := fd.arrivals ++ [a] })
  name : ∀ s f h a link p, L f → P s → A s.bars (s.fd f).settings a → s.Nameable a link → 1 ≤ h → h ≤ 255 →
    (s.record f h).state = .free → P (s.named f h a link p)
  tearDown : ∀ s f h, L f → P s → (s.record f h).state = .ejected → P (s.tearDown f h)
  windows : ∀ s ws, P s → ws.length ≤ s.windows.length →
    (∀ w ∈ ws, ∃ v ∈ s.windows, v.feeder = w.feeder) → P { s with windows := ws }
  addWindow : ∀ s f n w, L f → P s → P { s with windows := lastTwo (s.windows ++ [newWindowRecord f n w]) }
  award : ∀ s a l, P s → P (s.withAward a l)

/-- Another hunt record with the same target. -/
theorem Feeder.softens_hunt (N : Msg → Prop) (fd : Feeder) (t : Hunt)
    (ht : t.target = fd.hunt.target ∨ t.target = none) : fd.Softens N { fd with hunt := t } :=
  { Feeder.Softens.refl N fd with
    target := ht
    bounded := fun h => { h with } }

/-- Softening passes a hunt record by. -/
theorem Feeder.Softens.withHunt {N : Msg → Prop} {a b : Feeder} (h : a.Softens N b) (t : Hunt) :
    Feeder.Softens N { a with hunt := t } { b with hunt := t } :=
  { h with
    target := .inl rfl
    bounded := fun k => { h.bounded { k with } with }
    maps := h.maps }

section

variable {L : FeederId → Prop} {M : Settings → Msg → Prop} {A : List BarEntry → Settings → Arrival → Prop}
  {P : State → Prop} {s : State} {f : FeederId}

theorem KeepsCore.plain (K : KeepsCore L M A P) (x : Settings) {m : Msg} (hr : m.residue? = none)
    (hd : m.delay? = none) : M x m :=
  K.fits x m (Msg.fits_of_plain hr hd)

theorem KeepsCore.softenFd (K : KeepsCore L M A P) (hL : L f) (hs : P s) {g : Feeder → Feeder}
    (h : (s.fd f).Says (M (s.fd f).settings) → (s.fd f).Softens (M (s.fd f).settings) (g (s.fd f))) : P (s.modFd f g) :=
  K.soften s f _ hL hs (h (K.tells s f hs))

theorem KeepsCore.chooseTarget (K : KeepsCore L M A P) (hL : L f) (hs : P s) : P (s.chooseTarget f) := by
  cases e : (s.fd f).firstFrom (s.fd f).hunt.nextHandle (·.state.carriesTraffic) with
  | none =>
    rw [State.chooseTarget_of_none e]
    exact K.raise _ _ _ (K.soften s f _ hL hs (Feeder.softens_hunt _ _ _ (.inr rfl)))
  | some k =>
    obtain ⟨h1, h2, hc⟩ := Feeder.firstFrom_test e
    have ht := Record.tuned_huntHeld (M (s.fd f).settings) ((s.fd f).record k) hc
    have hp1 : P (s.modRecord f k fun r => { r.endWatch with state := .huntHeld, heldFrom := r.state.heldFrom }) :=
      K.soften s f _ hL hs (Feeder.eases_modRecord ht).toSoftens
    have hp2 := K.retarget _ f k hL hp1 (by rw [State.record_modRecord_self s f k _ h1 h2]; rfl)
    have hp3 := K.softenFd hL hp2 (g := fun fd => { fd with hunt := (s.fd f).hunt.choose k }) fun _ =>
      Feeder.softens_hunt _ _ _ (.inl (by simp [Hunt.choose]))
    have hp4 := K.softenFd hL hp3 (g := (·.offerHush k)) fun hsay =>
      (Feeder.eases_offerHush _ hsay k (K.plain _ rfl rfl)).toSoftens
    rw [State.chooseTarget_of_some e]
    simpa only [State.modRecord, State.modFd, State.fd_setFd, State.setFd_setFd] using hp4

theorem State.modFd_raise (s : State) (f : FeederId) (k : NoticeKind) (n : NoticeFields) (g : Feeder → Feeder) :
    (s.raise k n).modFd f g = (s.modFd f g).raise k n := by
  unfold State.modFd
  rw [State.fd_raise, State.raise_setFd]

theorem Feeder.modRecord_withHunt (fd : Feeder) (t : Hunt) (h : Nat) (g : Record → Record) :
    Feeder.modRecord { fd with hunt := t } h g = { (fd.modRecord h g) with hunt := t } := by
  unfold Feeder.modRecord Feeder.setRecord
  split <;> rfl

/-- The ejection's two parts in the feeder, with a hunt record that does not hold the ejected one. -/
theorem KeepsCore.ejectRecord (K : KeepsCore L M A P) (hL : L f) (hs : P s) {h n : Nat} (reason : EjectReason)
    (ha : (s.record f h).state.active = true) (hn : n ≤ (s.record f h).eqAttempts + 1) (t : Hunt)
    (ht : t.target = (s.fd f).hunt.target ∨ t.target = none) (hth : t.target ≠ some h) :
    P (s.setFd f { ((s.fd f).modRecord h (.attempted n)).ejectRecord h reason with hunt := t }) := by
  obtain ⟨h1, h2⟩ := RecState.bounds_of_active ha
  have hp0 := K.soften s f _ hL hs (Feeder.softens_hunt _ _ t ht)
  have hrec : (s.setFd f { s.fd f with hunt := t }).record f h = s.record f h := by
    unfold State.record; rw [State.fd_setFd]; rfl
  have hp := K.ejectFor _ f h n reason hL hp0 (by rw [hrec]; exact ha) (by rw [State.fd_setFd]; exact hth)
    (by rw [hrec]; exact hn)
  have hfd : ((s.setFd f { s.fd f with hunt := t }).modRecord f h fun r => (r.attempted n).ejectFor reason).fd f =
      { ((s.fd f).modRecord h (.attempted n)).modRecord h (·.ejectFor reason) with hunt := t } := by
    rw [State.fd_modRecord, State.fd_setFd, Feeder.modRecord_withHunt, Feeder.modRecord_eq _ h (·.ejectFor reason),
      Feeder.record_modRecord_self _ h _ h1 h2, Feeder.modRecord_eq _ h (.attempted n), Feeder.setRecord_setRecord]
    rfl
  have hsay := K.tells _ f hp
  rw [hfd] at hsay
  have he := Feeder.eases_ejectRecord ((s.fd f).modRecord h (.attempted n)) h reason ⟨hsay.queued, hsay.owed⟩
    fun r => K.plain _ rfl rfl
  have := K.soften _ f { ((s.fd f).modRecord h (.attempted n)).ejectRecord h reason with hunt := t } hL hp (by
    rw [hfd]; exact he.toSoftens.withHunt t)
  simpa only [State.modRecord, State.modFd, State.fd_setFd, State.setFd_setFd] using this

theorem KeepsCore.eject (K : KeepsCore L M A P) (hL : L f) (hs : P s) {h n : Nat} (reason : EjectReason)
    (ha : (s.record f h).state.active = true) (hn : n ≤ (s.record f h).eqAttempts + 1) :
    P ((s.modRecord f h (.attempted n)).eject f h reason) := by
  obtain ⟨h1, h2⟩ := RecState.bounds_of_active ha
  have ha' : ((s.modRecord f h (.attempted n)).record f h).state.active = true := by
    rw [State.record_modRecord_self s f h _ h1 h2]; exact ha
  have hhunt : (((s.fd f).modRecord h (.attempted n)).ejectRecord h reason).hunt = (s.fd f).hunt := by
    rw [Feeder.hunt_ejectRecord, Feeder.modRecord_hunt]
  have hset : ∀ g : Feeder → Feeder, ((s.modRecord f h (.attempted n)).modFd f (·.ejectRecord h reason)).modFd f g =
      s.setFd f (g (((s.fd f).modRecord h (.attempted n)).ejectRecord h reason)) := fun g => by
    simp only [State.modRecord, State.modFd, State.fd_setFd, State.setFd_setFd]
  rw [State.eject_of_active ha']
  unfold State.huntEjected
  rw [State.fd_raise, State.fd_modFd, State.fd_modRecord, hhunt]
  split
  · refine K.chooseTarget hL ?_
    rw [State.modFd_raise, hset]
    exact K.raise _ _ _ (K.ejectRecord hL hs reason ha hn _ (.inr rfl) (by simp))
  · next htt =>
    have hp := K.ejectRecord hL hs reason ha hn (s.fd f).hunt (.inl rfl) htt
    have hsame : (s.modRecord f h (.attempted n)).modFd f (·.ejectRecord h reason) =
        s.setFd f { ((s.fd f).modRecord h (.attempted n)).ejectRecord h reason with hunt := (s.fd f).hunt } := by
      rw [← hhunt]
      simp only [State.modRecord, State.modFd, State.fd_setFd, State.setFd_setFd]
    rw [hsame]
    exact K.raise _ _ _ hp

theorem KeepsCore.keeps (K : KeepsCore L M A P) : Keeps L M A P where
  fits := K.fits
  names := K.names
  tells := K.tells
  arrival := K.arrival
  raise := K.raise
  ease s f x hL hs hx := K.soften s f x hL hs hx.toSoftens
  culprit := K.culprit
  chooseTarget _ _ hL hs _ := K.chooseTarget hL hs
  beginStray s f hL hs _ := by
    have h1 := K.softenFd hL hs (g := fun fd => Feeder.latchStray { fd with stray := true }) fun _ =>
      { Feeder.Softens.refl (M (s.fd f).settings) (s.fd f) with bounded := fun h => { h with } }
    exact K.chooseTarget hL (K.softenFd hL (K.raise _ _ _ h1) fun _ => Feeder.softens_hunt _ _ _ (.inr rfl))
  eject _ _ _ _ reason hL hs ha hn := K.eject hL hs reason ha hn
  bar := K.bar
  join := K.join
  name := K.name
  tearDown := K.tearDown
  windows := K.windows
  addWindow := K.addWindow
  award := K.award

end

end Sys2Proof.Machine

/-! PROOFS. Every command, every taking and every step keeps what the structures name. -/
namespace Sys2Proof.Machine

open Sys2Proof

section

variable {L : FeederId → Prop} {M : Settings → Msg → Prop} {A : List BarEntry → Settings → Arrival → Prop}
  {F : Nat → Prop} {P Q : State → Prop} {s : State} {f : FeederId}

/-! ## The commands together -/

theorem KeepsCommands.device (K : KeepsCommands L M A F P Q) (hs : P s) :
    (∀ clear, P (s.cmdStatusRead clear).1) ∧ (∀ mode period, P (s.cmdWatchdogSet mode period).1) ∧
      P s.cmdHoldoverExit.1 ∧ (∀ mask, P (s.cmdNoticeMaskSet mask).1) := by
  refine ⟨fun clear => ?_, fun mode period => ?_, ?_, fun mask => ?_⟩
  · unfold State.cmdStatusRead
    split
    · exact hs
    · next c _ =>
      cases c
      · exact hs
      · exact K.service s _ hs rfl
  · unfold State.cmdWatchdogSet
    split
    · exact K.service s _ hs rfl
    · exact hs
  · unfold State.cmdHoldoverExit
    split
    · split <;> exact K.service s _ hs rfl
    · exact hs
  · unfold State.cmdNoticeMaskSet
    split
    · exact hs
    · exact K.service s _ hs rfl

theorem KeepsCommands.protection (K : KeepsCommands L M A F P Q) (hs : P s) :
    (∀ range, P (s.cmdFreezeSet range).1) ∧ P s.cmdFreezeLock.1 ∧ ∀ value, P (s.cmdGuardSet value).1 := by
  refine ⟨fun range => ?_, ?_, fun value => ?_⟩
  · unfold State.cmdFreezeSet
    split
    · exact hs
    · split
      · exact hs
      · split
        · exact hs
        · exact K.service s _ hs rfl
  · unfold State.cmdFreezeLock
    split
    · exact hs
    · exact K.service s _ hs rfl
  · unfold State.cmdGuardSet
    split
    · exact hs
    · split
      · exact hs
      · exact K.service s _ hs rfl

theorem KeepsCommands.profileCommands (K : KeepsCommands L M A F P Q) (hs : P s) :
    (∀ a, P (s.cmdProfileWrite a).1) ∧ (∀ index locked, P (s.writeProfileLock index locked).1) ∧
      P s.cmdProfilesLockAll.1 := by
  refine ⟨fun a => ?_, fun index locked => ?_, ?_⟩
  · unfold State.cmdProfileWrite
    split
    · exact hs
    · split
      · split
        · exact hs
        · exact K.service s _ hs rfl
      · exact hs
  · unfold State.writeProfileLock
    split
    · exact hs
    · split
      · exact hs
      · split
        · exact hs
        · exact K.service s _ hs rfl
  · unfold State.cmdProfilesLockAll
    split
    · exact hs
    · split
      · exact hs
      · exact K.service s _ hs rfl

/-- The commands that only report leave the state as it is. -/
theorem State.reads_fst (s : State) :
    s.cmdIdentify.1 = s ∧ (∀ i, (s.cmdPlanRead i).1 = s) ∧ (∀ i, (s.cmdProfileRead i).1 = s) ∧
      (∀ f, (s.cmdArrivalsRead f).1 = s) ∧ (∀ f h, (s.cmdTerminalRead f h).1 = s) ∧
      (∀ n, (s.cmdTerminalFind n).1 = s) ∧ s.cmdBarRead.1 = s := by
  refine ⟨rfl, fun i => ?_, fun i => ?_, fun f => ?_, fun f h => ?_, fun n => ?_, rfl⟩
  · unfold State.cmdPlanRead; split <;> rfl
  · unfold State.cmdProfileRead; split <;> rfl
  · unfold State.cmdArrivalsRead; split <;> rfl
  · unfold State.cmdTerminalRead; split <;> rfl
  · unfold State.cmdTerminalFind; split <;> rfl

theorem KeepsCommands.command (K : KeepsCommands L M A F P Q) (hs : P s) (hw : s.Awake L)
    (hF : ∀ j, s.freeze.holds j = false → F j) (c : Command) : Q (runCommand c s).1 := by
  obtain ⟨status, watchdog, holdover, mask⟩ := K.device hs
  obtain ⟨freeze, lock, guardSet⟩ := K.protection hs
  obtain ⟨profileWrite, profileLock, lockAll⟩ := K.profileCommands hs
  obtain ⟨identify, planRead, profileRead, arrivalsRead, terminalRead, terminalFind, barRead⟩ := s.reads_fst
  have hQ := K.sound s hs
  cases c with
  | identify => exact identify ▸ hQ
  | partReset => exact K.sound _ (K.service s _ hs rfl)
  | statusRead clear => exact K.sound _ (status clear)
  | watchdogSet mode period => exact K.sound _ (watchdog mode period)
  | holdoverExit => exact K.sound _ holdover
  | noticeMaskSet m => exact K.sound _ (mask m)
  | feederSet feeder setting value high => exact K.sound _ (K.feederSet hs feeder setting value high)
  | feederOpen feeder => exact K.sound _ (K.feederOpen hs feeder)
  | feederClose feeder => exact K.feederClose hs hw feeder
  | feederPause feeder => exact K.sound _ (K.feederPause hs hw feeder)
  | feederResume feeder => exact K.sound _ (K.feederResume hs hw feeder)
  | feederStatus feeder clear => exact K.sound _ (K.feederStatus hs feeder clear)
  | watchSet feeder mode m compare => exact K.sound _ (K.watchSet hs feeder mode m compare)
  | strayClear feeder => exact K.sound _ (K.strayClear hs hw feeder)
  | planWrite args => exact K.sound _ (K.planWrite hs hF args)
  | planRead index => show Q (s.cmdPlanRead index).1; rw [planRead]; exact hQ
  | planErase index => exact K.sound _ (K.planErase hs hF index)
  | freezeSet range => exact K.sound _ (freeze range)
  | freezeLock => exact K.sound _ lock
  | guardSet value => exact K.sound _ (guardSet value)
  | profileWrite args => exact K.sound _ (profileWrite args)
  | profileRead index => show Q (s.cmdProfileRead index).1; rw [profileRead]; exact hQ
  | profileLock index => exact K.sound _ (profileLock index true)
  | profileUnlock index => exact K.sound _ (profileLock index false)
  | profilesLockAll => exact K.sound _ lockAll
  | arrivalsRead feeder => show Q (s.cmdArrivalsRead feeder).1; rw [arrivalsRead]; exact hQ
  | admitArrival feeder serial profile => exact K.sound _ (K.admitArrival hs hw feeder serial profile)
  | refuse feeder serial bar => exact K.sound _ (K.refuse hs hw feeder serial bar)
  | terminalRead feeder handle => show Q (s.cmdTerminalRead feeder handle).1; rw [terminalRead]; exact hQ
  | terminalFind serial => show Q (s.cmdTerminalFind serial).1; rw [terminalFind]; exact hQ
  | terminalEject feeder handle bar => exact K.sound _ (K.terminalEject hs hw feeder handle bar)
  | terminalRelevel feeder handle => exact K.sound _ (K.terminalRelevel hs hw feeder handle)
  | barRead => show Q s.cmdBarRead.1; rw [barRead]; exact hQ
  | barAdd serial hold => exact K.sound _ (K.barAdd hs serial hold)
  | barRemove serial => exact K.sound _ (K.barRemove hs serial)

end

/-! ## What no command touches (R188) -/

/-- The queues of the trunk, the frame in transmission, the tag type and the receipt count stand as they stood. -/
structure State.TrunkStands (s t : State) : Prop where
  replies : t.replies = s.replies
  receipt : t.receipt = s.receipt
  mgmtBuffer : t.mgmtBuffer = s.mgmtBuffer
  upBuffer : t.upBuffer = s.upBuffer
  transmitting : t.transmitting = s.transmitting
  tagType : t.tagType = s.tagType

theorem State.TrunkStands.refl (s : State) : s.TrunkStands s := ⟨rfl, rfl, rfl, rfl, rfl, rfl⟩

theorem State.TrunkStands.trans {s t u : State} (h : s.TrunkStands t) (k : t.TrunkStands u) : s.TrunkStands u :=
  ⟨k.replies.trans h.replies, k.receipt.trans h.receipt, k.mgmtBuffer.trans h.mgmtBuffer, k.upBuffer.trans h.upBuffer,
    k.transmitting.trans h.transmitting, k.tagType.trans h.tagType⟩

theorem State.trunkStands_setFd (s : State) (f : FeederId) (x : Feeder) : s.TrunkStands (s.setFd f x) := by
  cases f <;> exact ⟨rfl, rfl, rfl, rfl, rfl, rfl⟩

theorem State.trunkStands_releaseLink (s : State) (link : Option Nat) : s.TrunkStands (s.releaseLink link) := by
  unfold State.releaseLink; split <;> exact ⟨rfl, rfl, rfl, rfl, rfl, rfl⟩

theorem State.trunkStands_releaseLinks (l : List Record) :
    ∀ s : State, s.TrunkStands (l.foldl (fun t r => t.releaseLink r.planLink) s) := by
  induction l with
  | nil => exact fun s => .refl s
  | cons r l ih => exact fun s => (s.trunkStands_releaseLink r.planLink).trans (ih _)

theorem State.trunkStands_closeFeeder (s : State) (f : FeederId) : s.TrunkStands (s.closeFeeder f) := by
  unfold State.closeFeeder
  refine (State.trunkStands_releaseLinks (s.fd f).table.toList s).trans ?_
  exact ⟨by simp, by simp, by simp, by simp, by simp, by simp⟩

theorem keepsCoarse_trunkStands (s0 : State) : KeepsCoarse (fun _ => True) s0.TrunkStands where
  setFd s f x _ h := h.trans (s.trunkStands_setFd f x)
  raise s k n h := h.trans ⟨s.raise_replies k n, s.raise_receipt k n, s.raise_mgmtBuffer k n, s.raise_upBuffer k n,
    s.raise_transmitting k n, s.raise_tagType k n⟩
  bar _ _ h := h.trans ⟨rfl, rfl, rfl, rfl, rfl, rfl⟩
  dropArrivals _ _ h := h.trans ⟨rfl, rfl, rfl, rfl, rfl, rfl⟩
  takeLink s link f k h := h.trans (by unfold State.takeLink; split <;> exact ⟨rfl, rfl, rfl, rfl, rfl, rfl⟩)
  releaseLink s link h := h.trans (s.trunkStands_releaseLink link)
  windows _ _ h _ := h.trans ⟨rfl, rfl, rfl, rfl, rfl, rfl⟩
  award _ _ _ h := h.trans ⟨rfl, rfl, rfl, rfl, rfl, rfl⟩

theorem keepsCommands_trunkStands (s0 : State) :
    KeepsCommands (fun _ => True) (fun _ _ => True) (fun _ _ _ => True) (fun _ => True) s0.TrunkStands s0.TrunkStands :=
  { (keepsCoarse_trunkStands s0).keeps with
    sound := fun _ => id
    service := fun s t h e => h.trans (by unfold State.Served at e; rw [e]; exact ⟨rfl, rfl, rfl, rfl, rfl, rfl⟩)
    settings := fun s f _ h _ => h.trans (s.trunkStands_setFd f _)
    tally := fun s f _ h => h.trans (s.trunkStands_setFd f _)
    clear := fun s f h => h.trans (s.trunkStands_setFd f _)
    watch := fun s f _ h => h.trans (s.trunkStands_setFd f _)
    opens := fun s f h _ => h.trans (s.trunkStands_setFd f _)
    close := fun s f _ h => h.trans (s.trunkStands_closeFeeder f)
    rewrite := fun _ _ _ _ _ _ h _ _ _ => h.trans ⟨rfl, rfl, rfl, rfl, rfl, rfl⟩
    erase := fun _ _ h _ _ _ => h.trans ⟨rfl, rfl, rfl, rfl, rfl, rfl⟩
    barHold := fun _ _ h _ _ => h.trans ⟨rfl, rfl, rfl, rfl, rfl, rfl⟩
    unbar := fun _ _ h _ => h.trans ⟨rfl, rfl, rfl, rfl, rfl, rfl⟩ }

theorem runCommand_trunkStands (c : Command) (s : State) : s.TrunkStands (runCommand c s).1 :=
  (keepsCommands_trunkStands s).command (.refl s) (fun _ => .inl trivial) (fun _ _ => trivial) c

/-! ## Every taking and every step -/

section

variable {L : FeederId → Prop} {M : Settings → Msg → Prop} {A : List BarEntry → Settings → Arrival → Prop}
  {F : Nat → Prop} {P Q : State → Prop} {s : State} {f : FeederId}

theorem outsideHoldover_or (code : Byte) (body : State → State × CmdResult) (s : State) :
    outsideHoldover code body s = Sys2Proof.Machine.refuse s .holdover ∨ outsideHoldover code body s = body s := by
  unfold outsideHoldover
  split
  · exact .inl rfl
  · exact .inr rfl

/-- A taking whose body leaves `Q` and the reply list (R187, R188). -/
theorem KeepsSteps.takeValid (K : KeepsSteps L M A F P Q) (t : Taking) (code : Byte) (body : State → State × CmdResult)
    (hroom : s.replies.length < 16) (hb : Q (body (s.opened t)).1)
    (hr : (s.opened t).TrunkStands (body (s.opened t)).1) : Q (s.takeValid t code body) := by
  refine K.reply (body (s.opened t)).1 (s.takeValid t code body) hb ⟨rfl, id, id, fun _ => ?_, id⟩
  show ((body (s.opened t)).1.replies ++ _).length ≤ 16
  rw [hr.replies, State.opened_replies, List.length_append, List.length_singleton]
  exact hroom

theorem KeepsSteps.command (K : KeepsSteps L M A F P Q) (hs : P s) (hw : s.Awake L)
    (hF : ∀ j, s.freeze.holds j = false → F j) (t : Taking) (c : Command) : Q (runCommand c (s.opened t)).1 :=
  have hk := s.housekept_opened t
  K.toKeepsCommands.command (K.trunk s _ hs hk) (hk.awake hw) (by rw [State.opened_eq]; exact hF) c

theorem State.room_of_canTake (h : s.canTake = true) : s.replies.length < 16 := by
  simp only [State.canTake, Bool.and_eq_true, decide_eq_true_eq] at h
  exact h.1

theorem KeepsSteps.takeCommand (K : KeepsSteps L M A F P Q) (hs : P s) (hw : s.Awake L)
    (hF : ∀ j, s.freeze.holds j = false → F j) (t : Taking) (c : Command) :
    Q (s.takeCommand t (commandCode c) (runCommand c)) := by
  unfold State.takeCommand
  split
  · next hc =>
    have hopened := K.sound _ (K.trunk s _ hs (s.housekept_opened t))
    rcases outsideHoldover_or (commandCode c) (runCommand c) (s.opened t) with e | e
    · refine K.takeValid t _ _ (State.room_of_canTake hc) ?_ ?_ <;> rw [e]
      · exact hopened
      · exact .refl _
    · refine K.takeValid t _ _ (State.room_of_canTake hc) ?_ ?_ <;> rw [e]
      · exact K.command hs hw hF t c
      · exact runCommand_trunkStands c _
  · exact K.sound s hs

theorem runBytes_or (code : Byte) (args : Bytes) (s : State) :
    (∃ r, runBytes code args s = Sys2Proof.Machine.refuse s r) ∨ ∃ c, runBytes code args s = runCommand c s := by
  unfold runBytes
  split
  · rcases outsideHoldover_or code _ s with e | e
    · exact .inl ⟨_, e⟩
    · rw [e]
      split
      · exact .inr ⟨_, rfl⟩
      · exact .inl ⟨_, rfl⟩
  · exact .inl ⟨_, rfl⟩

theorem KeepsSteps.takeFrame (K : KeepsSteps L M A F P Q) (hs : P s) (hw : s.Awake L)
    (hF : ∀ j, s.freeze.holds j = false → F j) (guardPin : Bool) : Q (s.takeFrame guardPin) := by
  unfold State.takeFrame
  split
  · exact K.sound s hs
  · next frame rest hm =>
    have hk : s.Housekept { s with mgmtBuffer := rest } :=
      ⟨rfl, id, fun h => by rw [hm] at h; exact (Nat.le_succ _).trans h, id, id⟩
    have h1 := K.trunk s _ hs hk
    split
    · next hc =>
      split
      · have hroom : ({ s with mgmtBuffer := rest } : State).replies.length < 16 := State.room_of_canTake hc
        have hopened := K.sound _ (K.trunk _ _ h1 (State.housekept_opened _ (takingOf guardPin frame)))
        rcases runBytes_or (frameCode frame) ((framePayload frame).drop managementHeader)
          (State.opened { s with mgmtBuffer := rest } (takingOf guardPin frame)) with ⟨r, e⟩ | ⟨c, e⟩
        · refine K.takeValid _ _ _ hroom ?_ ?_ <;> rw [e]
          · exact hopened
          · exact .refl _
        · refine K.takeValid _ _ _ hroom ?_ ?_ <;> rw [e]
          · exact K.command h1 (hk.awake hw) hF _ c
          · exact runCommand_trunkStands c _
      · exact K.sound _ h1
    · exact K.sound s hs

/-! ## The trunk and the cycle -/

theorem KeepsSteps.sortFrame (K : KeepsSteps L M A F P Q) (hs : P s) (hw : s.Awake L) (frame : Bytes) :
    P (s.sortFrame frame) := by
  have hbad : P s.badTag := K.service s _ hs rfl
  have hfd : ∀ f, P (s.modFd f (·.takeFrame frame)) := fun f => by
    by_cases h : (checkGood tagEnd frame && (s.fd f).admitsFrame (frameHandle frame) &&
        decide ((s.fd f).downBuffer.length < Config.downstreamCapacity)) = true
    · have h' := h
      simp only [Bool.and_eq_true, decide_eq_true_eq, Feeder.admitsFrame] at h'
      obtain ⟨⟨-, hserving, -⟩, hroom⟩ := h'
      have hL : L f := hw.of_state fun e => by rw [e] at hserving; cases hserving
      have := K.ease s f _ hL hs ((s.fd f).eases_downBuffer _
        ((s.fd f).downBuffer ++ [{ handle := frameHandle frame, frame := removeTag frame }]) fun _ => by
          rw [List.length_append, List.length_singleton]; exact hroom)
      rw [State.modFd, Feeder.takeFrame, if_pos h]
      exact this
    · have := K.tally s f ((s.fd f).count .downstreamRefused 1).counters hs
      rw [State.modFd, Feeder.takeFrame, if_neg h]
      exact this
  unfold State.sortFrame
  split
  · exact hbad
  · split
    · unfold State.joinManagement
      split
      · next h => exact K.trunk s _ hs ⟨rfl, id, fun _ => by
          rw [List.length_append, List.length_singleton]; exact h, id, id⟩
      · exact K.service s _ hs rfl
    · exact hfd .A
    · exact hfd .B
    · exact hbad

end

end Sys2Proof.Machine

/-! PROOFS. The rows of the table, each by the lemma of its meaning: a step keeps what `KeepsSteps` keeps. -/
namespace Sys2Proof.Machine

open Sys2Proof

/-! ## Rows -/

/-- The row of a command is the taking of its frame. -/
theorem exec_rowOf (t : Taking) (c : Command) (s : State) :
    exec (rowOf t c) s = whenRunning (·.takeCommand t (commandCode c) (runCommand c)) s := by
  cases c <;> rfl

/-- What a running part does is an event's effect or nothing. -/
theorem whenRunning_next {op : State → State} {s t : State} (e : whenRunning op s = .next t) : t = op s ∨ t = s := by
  unfold whenRunning at e
  split at e
  · exact .inl (Host.Outcome.next.inj e).symm
  · exact .inr (Host.Outcome.next.inj e).symm

theorem keeps_of_whenRunning {op : State → State} {s t : State} {Q : State → Prop} (e : whenRunning op s = .next t)
    (h0 : Q s) (h1 : Q (op s)) : Q t := by
  rcases whenRunning_next e with rfl | rfl
  · exact h1
  · exact h0

section

variable {L : FeederId → Prop} {M : Settings → Msg → Prop} {A : List BarEntry → Settings → Arrival → Prop}
  {F : Nat → Prop} {P Q : State → Prop} {s : State} {f : FeederId}

/-! ## The events of one feeder -/

/-- What an event of one feeder does to a running part. -/
def eventOf : Instr → State → State
  | .quietEnd f, s => s.modFd f (·.quietEnd)
  | .purgeEnd f, s => s.modFd f (·.purgeEnd)
  | .drainExpiry f h, s => s.drainEnd f h
  | .decisionExpiry f n, s => s.decisionEnd f n
  | .recoveryExpiry f h, s => s.recoveryEnd f h
  | .reHushWatchEnd f h, s => s.modRecord f h (·.watchEnd)
  | .checkCountdownExpiry f h, s => s.modRecord f h (·.checkEnd)
  | .dataCountdownExpiry f h, s => s.modRecord f h (·.dataEnd)
  | .paceCountdownExpiry f h, s => s.modRecord f h (·.paceEnd)
  | .gapCountdownExpiry f, s => s.modFd f (·.gapEnd)
  | .rootCountdownExpiry f, s => s.modFd f (·.rootEnd)
  | .cycleBuild f order, s => s.build f order
  | .cleanBurst f n m8 level content, s => s.cleanBurst f n m8 level content
  | .garbledBurst f n m8, s => s.garbledBurst f n m8
  | .unassignedLight f n m8, s => s.unassignedLight f n m8
  | .checkSpanEnd f n h, s => s.checkSpanEnd f n h
  | .callInWindowEnd f n, s => s.callInWindowEnd f n
  | .probeWindowEnd f n, s => s.probeWindowEnd f n
  | .upstreamCycleEnd f n, s => s.upstreamCycleEnd f n
  | _, s => s

/-- The row of an event of one feeder. -/
theorem exec_event {i : Instr} {f : FeederId} (hi : feederOf i = some f) (s : State) :
    exec i s = whenRunning (eventOf i) s := by
  cases i <;> cases hi <;> rfl

theorem Keeps.feederEvent (K : Keeps L M A P) (hfwd : KeepsForward P) (hL : L f) (hs : P s) {i : Instr} {t : State}
    (hi : feederOf i = some f) (e : exec i s = .next t) : P t := by
  rw [exec_event hi] at e
  refine keeps_of_whenRunning e hs ?_
  cases i <;> cases hi
  case quietEnd => exact (K.easeFd hL hs fun _ => Feeder.eases_quietEnd _ _)
  case purgeEnd => exact (K.easeFd hL hs fun _ => Feeder.eases_purgeEnd _ _)
  case drainExpiry h => exact (K.drainEnd hL hs h)
  case decisionExpiry n => exact (K.decisionEnd hL hs n)
  case recoveryExpiry h => exact (K.recoveryEnd hL hs h)
  case reHushWatchEnd h => exact (K.tune hL hs (Record.tuned_countdownEnds _ _).1)
  case checkCountdownExpiry h => exact (K.tune hL hs (Record.tuned_countdownEnds _ _).2.1)
  case dataCountdownExpiry h => exact (K.tune hL hs (Record.tuned_countdownEnds _ _).2.2.1)
  case paceCountdownExpiry h => exact (K.tune hL hs (Record.tuned_countdownEnds _ _).2.2.2)
  case gapCountdownExpiry => exact (K.easeFd hL hs fun _ => Feeder.eases_gapEnd _ _)
  case rootCountdownExpiry => exact (K.easeFd hL hs fun _ => Feeder.eases_rootEnd _ _)
  case cycleBuild order => exact (K.build hL hs order)
  case cleanBurst n m8 level content => exact (K.cleanBurst hfwd hL hs n m8 level content)
  case garbledBurst n m8 => exact (K.garbledBurst hL hs n m8)
  case unassignedLight n m8 => exact (K.unassignedLight hL hs n m8)
  case checkSpanEnd n h => exact (K.checkSpanEnd hL hs n h)
  case callInWindowEnd n => exact (K.callInWindowEnd hL hs n)
  case probeWindowEnd n => exact (K.probeWindowEnd hL hs n)
  case upstreamCycleEnd n => exact (K.upstreamCycleEnd hL hs n)

theorem State.modFd_of_eq {g : Feeder → Feeder} (e : g (s.fd f) = s.fd f) : s.modFd f g = s := by
  rw [State.modFd, e, State.setFd_fd]

theorem State.modRecord_of_eq {h : Nat} {g : Record → Record} (e : g (s.record f h) = s.record f h) :
    s.modRecord f h g = s := by
  rw [State.modRecord_eq]
  show s.setFd f ((s.fd f).setRecord h (g (s.record f h))) = s
  rw [e]
  show s.setFd f ((s.fd f).setRecord h ((s.fd f).record h)) = s
  rw [Feeder.setRecord_record, State.setFd_fd]

theorem State.Dormant.windowOf (d : s.Dormant f) (n : CycleNumber) : s.windowOf f n = none :=
  List.find?_eq_none.mpr fun w hw h => by
    simp only [Bool.and_eq_true, decide_eq_true_eq] at h
    exact d.windows w hw h.1

theorem State.Dormant.mapOf (d : s.Dormant f) (n : CycleNumber) : (s.fd f).mapOf n = none := by
  unfold Feeder.mapOf; rw [d.emptied.heldMaps]; rfl

theorem State.Dormant.liveMap (d : s.Dormant f) (n : CycleNumber) : (s.fd f).liveMap n = none := by
  unfold Feeder.liveMap; rw [d.closed]; rfl

theorem State.Dormant.record (d : s.Dormant f) (h : Nat) : s.record f h = freeRecord := d.emptied.record h

/-- An event of a dormant feeder has no effect. -/
theorem State.Dormant.exec (d : s.Dormant f) {i : Instr} (hi : feederOf i = some f) : exec i s = .next s := by
  suffices h : eventOf i s = s by rw [exec_event hi, whenRunning, h, ite_self]
  cases i <;> cases hi <;> simp only [eventOf]
  case quietEnd => exact State.modFd_of_eq (by simp [Feeder.quietEnd, d.closed])
  case purgeEnd => exact State.modFd_of_eq (by simp [Feeder.purgeEnd, d.closed])
  case drainExpiry h => simp [State.drainEnd, d.record, freeRecord]
  case decisionExpiry n => simp [State.decisionEnd, d.closed]
  case recoveryExpiry h => simp [State.recoveryEnd, d.record, freeRecord]
  case reHushWatchEnd h => exact State.modRecord_of_eq (by simp [Record.watchEnd, d.record, freeRecord])
  case checkCountdownExpiry h => exact State.modRecord_of_eq (by simp [Record.checkEnd, d.record, freeRecord])
  case dataCountdownExpiry h => exact State.modRecord_of_eq (by simp [Record.dataEnd, d.record, freeRecord])
  case paceCountdownExpiry h =>
    exact State.modRecord_of_eq (by simp [Record.paceEnd, d.record, freeRecord, RecState.active])
  case gapCountdownExpiry => exact State.modFd_of_eq (by simp [Feeder.gapEnd, d.closed, FeederState.serving])
  case rootCountdownExpiry => exact State.modFd_of_eq (by simp [Feeder.rootEnd, d.closed, FeederState.serving])
  case cycleBuild order => simp [State.build, d.closed]
  case cleanBurst n m8 level content => simp only [State.cleanBurst, d.liveMap]
  case garbledBurst n m8 => simp only [State.garbledBurst, d.liveMap]
  case unassignedLight n m8 => simp only [State.unassignedLight, d.liveMap]
  case checkSpanEnd n h => simp only [State.checkSpanEnd, d.mapOf]
  case callInWindowEnd n => simp only [State.callInWindowEnd, d.windowOf]
  case probeWindowEnd n => simp only [State.probeWindowEnd, d.windowOf]
  case upstreamCycleEnd n => simp only [State.upstreamCycleEnd, d.mapOf]

/-! ## The cycle start and the rows without a feeder -/

/-- The records of the other feeder stand in everything that an event of a feeder writes. -/
theorem keepsCoarse_otherRecords (s0 : State) (f : FeederId) :
    KeepsCoarse (· = f) fun t => ∀ k, t.record f.other k = s0.record f.other k where
  setFd s g x hg h k := by
    subst hg
    rw [← h k]
    unfold State.record
    rw [State.fd_setFd_other]
  raise s k n h i := by rw [State.record_raise]; exact h i
  bar s n h k := by rw [← h k]; cases f <;> rfl
  dropArrivals s n h k := by rw [← h k]; cases f <;> rfl
  takeLink s link g i h k := by
    rw [← h k]
    unfold State.takeLink State.record
    split
    · rfl
    · rw [State.fd_setPlan]
  releaseLink s link h k := by
    rw [← h k]
    unfold State.releaseLink State.record
    split
    · rfl
    · rw [State.fd_setPlan]
  windows s ws h _ k := by rw [← h k]; cases f <;> rfl
  award s a l h k := by rw [← h k]; cases f <;> rfl

theorem Feeder.startCycle_of_dormant (d : s.Dormant f) : (s.fd f).startCycle = s.fd f := by
  unfold Feeder.startCycle Feeder.starts
  rw [d.emptied.nextHeader]
  rfl

theorem KeepsSteps.startCycleFd (K : KeepsSteps L M A F P Q) (hs : P s) (h : L f ∨ s.Dormant f) :
    P (s.modFd f Feeder.startCycle) := by
  rcases h with hL | d
  · exact K.easeFd hL hs fun _ => Feeder.eases_startCycle _ _
  · rw [State.modFd_of_eq (Feeder.startCycle_of_dormant d)]
    exact hs

theorem KeepsSteps.decremented (K : KeepsSteps L M A F P Q) (hs : P s) (hw : s.Awake L) : P s.decremented := by
  have h1 : P { s with cycle := s.cycle + 1#16, award := none } := K.service s _ hs rfl
  have h2 := K.startCycleFd (f := .A) h1 ((hw .A).imp id fun d => ⟨d.closed, d.emptied, d.windows⟩)
  have h3 := K.startCycleFd (f := .B) h2 ((hw .B).imp id fun d => ⟨d.closed, d.emptied, d.windows⟩)
  unfold State.decremented
  split
  · exact K.tickBars _ h3
  · exact h3

theorem KeepsSteps.startCycle (K : KeepsSteps L M A F P Q) (hs : P s) (hw : s.Awake L) : P s.startCycle := by
  by_cases hr : s.timingRuns = true
  · have hdec := K.decremented hs hw
    have hstate : ∀ g h, h ∈ (s.fd g).recoveryDue → (s.record g h).state = .hushed ∧ 1 ≤ h ∧ h ≤ 255 := by
      intro g h hh
      obtain ⟨h1, h2, hp⟩ := (Feeder.mem_handlesWhere (s.fd g) _ h).mp hh
      simp only [Bool.and_eq_true, decide_eq_true_eq] at hp
      exact ⟨hp.1, h1, h2⟩
    have hdue : ∀ g h, h ∈ (s.fd g).recoveryDue → (s.decremented.record g h).state = .hushed := by
      intro g h hh
      obtain ⟨hst, h1, h2⟩ := hstate g h hh
      unfold State.record
      rw [State.fd_decremented, (Feeder.startCycle_facts (s.fd g) h h1 h2).2]
      exact hst
    have hafter : ∀ g t, P t → (∀ h ∈ (s.fd g).recoveryDue, (t.record g h).state = .hushed) →
        P (t.afterStart g (s.fd g)) := by
      intro g t ht hd
      rcases hw g with hL | d
      · exact K.afterStart hL ht (s.fd g) hd
      · unfold State.afterStart Feeder.starts
        rw [d.emptied.nextHeader]
        exact ht
    have e : s.startCycle = (s.decremented.afterStart .A s.feederA).afterStart .B s.feederB := by
      unfold State.startCycle
      rw [if_pos hr]
      rfl
    rw [e]
    refine hafter .B _ (hafter .A _ hdec (hdue .A)) fun h hh => ?_
    have hB := (keepsCoarse_otherRecords s.decremented .A).keeps.afterStart rfl (fun _ => rfl) s.feederA (hdue .A) h
    show (State.record _ FeederId.A.other h).state = .hushed
    rw [hB]
    exact hdue .B h hh
  · unfold State.startCycle
    rw [if_neg hr]
    exact hs

end

end Sys2Proof.Machine

/-! PROOFS. Every row of the table, resets aside, keeps what `KeepsSteps` keeps; and the step. -/
namespace Sys2Proof.Machine

open Sys2Proof

section

variable {L : FeederId → Prop} {M : Settings → Msg → Prop} {A : List BarEntry → Settings → Arrival → Prop}
  {F : Nat → Prop} {P Q : State → Prop} {s t : State} {f : FeederId}

theorem KeepsSteps.barEnd (K : KeepsSteps L M A F P Q) (hs : P s) (n : Serial) : P (s.barEnd n) := by
  unfold State.barEnd
  split
  · exact K.unbar s _ hs List.filter_sublist
  · exact hs

theorem KeepsSteps.enterHoldover (K : KeepsSteps L M A F P Q) (hs : P s) : P s.enterHoldover :=
  K.raise _ _ _ (K.service s _ hs rfl)

theorem KeepsSteps.watchdogPeriod (K : KeepsSteps L M A F P Q) (hs : P s) : P s.watchdogPeriod := by
  unfold State.watchdogPeriod
  split
  · split
    · exact K.enterHoldover hs
    · exact K.service s _ hs rfl
  · exact hs

theorem KeepsSteps.watchdogEnd (K : KeepsSteps L M A F P Q) (hs : P s) : P s.watchdogEnd := by
  unfold State.watchdogEnd
  split
  · exact K.enterHoldover hs
  · exact hs

theorem State.housekept_releaseReset (s : State) (x : Straps) : s.Housekept (s.releaseReset x) := by
  unfold State.releaseReset
  split
  · exact ⟨rfl, id, id, id, id⟩
  · exact ⟨rfl, id, id, id, id⟩

theorem State.housekept_arbitrate (s : State) : s.Housekept s.arbitrate := by
  unfold State.arbitrate
  split
  · next e => exact ⟨rfl, id, id, fun h => by rw [e] at h; exact (Nat.le_succ _).trans h, id⟩
  · split
    · next e => exact ⟨rfl, id, id, id, fun h => by rw [e] at h; exact (Nat.le_succ _).trans h⟩
    · split
      · next e => exact ⟨rfl, fun h => by rw [e] at h; exact (Nat.le_succ _).trans h, id, id, id⟩
      · exact ⟨rfl, id, id, id, id⟩

/-- A boundary that ends no PART_RESET reply. -/
theorem KeepsSteps.frameBoundary (K : KeepsSteps L M A F P Q) (hs : P s) (x : Straps) (h : s.sendsPartReset = false) :
    P (s.frameBoundary x) := by
  have h1 : P { s with lastSent := s.sentWhole } := K.trunk s _ hs ⟨rfl, id, id, id, id⟩
  unfold State.frameBoundary
  rw [h]
  exact K.trunk _ _ h1 (State.housekept_arbitrate _)

/-- Every row that brings no reset about keeps it. -/
theorem KeepsSteps.exec (K : KeepsSteps L M A F P Q) (hs : P s) (hw : s.Awake L)
    (hF : ∀ j, s.freeze.holds j = false → F j) {i : Instr} (hi : ¬ resetsPart i s) (e : exec i s = .next t) : Q t := by
  have hQ := K.sound s hs
  have row : ∀ tk c, i = rowOf tk c → Q t := fun tk c h => by
    rw [h, exec_rowOf] at e
    exact keeps_of_whenRunning e hQ (K.takeCommand hs hw hF tk c)
  have event : ∀ f, feederOf i = some f → Q t := fun f h => by
    rcases hw f with hL | d
    · exact K.sound t (K.feederEvent K.forward hL hs h e)
    · rw [d.exec h] at e
      exact Host.Outcome.next.inj e ▸ hQ
  cases i with
  | powerOnReset => exact absurd trivial hi
  | pinReset =>
    have hp : s.phase = .unpowered := not_not.mp hi
    have e : s.pinReset = t := Host.Outcome.next.inj e
    rw [State.pinReset, if_pos hp] at e
    exact e ▸ hQ
  | resetRelease x => exact Host.Outcome.next.inj e ▸ K.reply s _ hQ (s.housekept_releaseReset x)
  | partResetEffect x =>
    have e : whenRunning (·.partReset x) s = .next t := e
    unfold whenRunning at e
    split at e
    · next hr =>
      have hn : ¬ s.sendsPartReset = true := fun h => hi ⟨hr, h⟩
      have e : s.partReset x = t := Host.Outcome.next.inj e
      rw [State.partReset, if_neg hn] at e
      exact e ▸ hQ
    · exact Host.Outcome.next.inj e ▸ hQ
  | trunkFrameArrival frame => exact keeps_of_whenRunning (op := (·.sortFrame frame)) e hQ (K.sound _ (K.sortFrame hs hw frame))
  | managementFrameTake pin => exact keeps_of_whenRunning (op := (·.takeFrame pin)) e hQ (K.takeFrame hs hw hF pin)
  | trunkFrameBoundary x =>
    have e : whenRunning (·.frameBoundary x) s = .next t := e
    unfold whenRunning at e
    split at e
    · next hr =>
      have hn : s.sendsPartReset = false := Bool.eq_false_iff.mpr fun h => hi ⟨hr, h⟩
      exact Host.Outcome.next.inj e ▸ K.sound _ (K.frameBoundary hs x hn)
    · exact Host.Outcome.next.inj e ▸ hQ
  | cycleStart => exact keeps_of_whenRunning (op := (·.startCycle)) e hQ (K.sound _ (K.startCycle hs hw))
  | barHoldExpiry n => exact keeps_of_whenRunning (op := (·.barEnd n)) e hQ (K.sound _ (K.barEnd hs n))
  | watchdogPeriodEnd => exact keeps_of_whenRunning (op := (·.watchdogPeriod)) e hQ (K.sound _ (K.watchdogPeriod hs))
  | watchdogExpiry => exact keeps_of_whenRunning (op := (·.watchdogEnd)) e hQ (K.sound _ (K.watchdogEnd hs))
  | powerLoss => exact Host.Outcome.next.inj e ▸ K.reply s s.losePower hQ ⟨rfl, id, id, id, id⟩
  | identify tk => exact row tk .identify rfl
  | partReset tk => exact row tk .partReset rfl
  | statusRead tk clear => exact row tk (.statusRead clear) rfl
  | watchdogSet tk mode period => exact row tk (.watchdogSet mode period) rfl
  | holdoverExit tk => exact row tk .holdoverExit rfl
  | noticeMaskSet tk mask => exact row tk (.noticeMaskSet mask) rfl
  | feederSet tk feeder setting value high => exact row tk (.feederSet feeder setting value high) rfl
  | feederOpen tk feeder => exact row tk (.feederOpen feeder) rfl
  | feederClose tk feeder => exact row tk (.feederClose feeder) rfl
  | feederPause tk feeder => exact row tk (.feederPause feeder) rfl
  | feederResume tk feeder => exact row tk (.feederResume feeder) rfl
  | feederStatus tk feeder clear => exact row tk (.feederStatus feeder clear) rfl
  | watchSet tk feeder mode mask compare => exact row tk (.watchSet feeder mode mask compare) rfl
  | strayClear tk feeder => exact row tk (.strayClear feeder) rfl
  | planWrite tk args => exact row tk (.planWrite args) rfl
  | planRead tk index => exact row tk (.planRead index) rfl
  | planErase tk index => exact row tk (.planErase index) rfl
  | freezeSet tk range => exact row tk (.freezeSet range) rfl
  | freezeLock tk => exact row tk .freezeLock rfl
  | guardSet tk value => exact row tk (.guardSet value) rfl
  | profileWrite tk args => exact row tk (.profileWrite args) rfl
  | profileRead tk index => exact row tk (.profileRead index) rfl
  | profileLock tk index => exact row tk (.profileLock index) rfl
  | profileUnlock tk index => exact row tk (.profileUnlock index) rfl
  | profilesLockAll tk => exact row tk .profilesLockAll rfl
  | arrivalsRead tk feeder => exact row tk (.arrivalsRead feeder) rfl
  | admitArrival tk feeder serial profile => exact row tk (.admitArrival feeder serial profile) rfl
  | refuse tk feeder serial bar => exact row tk (.refuse feeder serial bar) rfl
  | terminalRead tk feeder handle => exact row tk (.terminalRead feeder handle) rfl
  | terminalFind tk serial => exact row tk (.terminalFind serial) rfl
  | terminalEject tk feeder handle bar => exact row tk (.terminalEject feeder handle bar) rfl
  | terminalRelevel tk feeder handle => exact row tk (.terminalRelevel feeder handle) rfl
  | barRead tk => exact row tk .barRead rfl
  | barAdd tk serial hold => exact row tk (.barAdd serial hold) rfl
  | barRemove tk serial => exact row tk (.barRemove serial) rfl
  | quietEnd f => exact event f rfl
  | purgeEnd f => exact event f rfl
  | drainExpiry f h => exact event f rfl
  | decisionExpiry f n => exact event f rfl
  | recoveryExpiry f h => exact event f rfl
  | reHushWatchEnd f h => exact event f rfl
  | checkCountdownExpiry f h => exact event f rfl
  | dataCountdownExpiry f h => exact event f rfl
  | paceCountdownExpiry f h => exact event f rfl
  | gapCountdownExpiry f => exact event f rfl
  | rootCountdownExpiry f => exact event f rfl
  | cycleBuild f order => exact event f rfl
  | cleanBurst f n m8 level content => exact event f rfl
  | garbledBurst f n m8 => exact event f rfl
  | unassignedLight f n m8 => exact event f rfl
  | checkSpanEnd f n h => exact event f rfl
  | callInWindowEnd f n => exact event f rfl
  | probeWindowEnd f n => exact event f rfl
  | upstreamCycleEnd f n => exact event f rfl

/-! ## Resets and the step -/

/-- A row that brings a reset about leaves a reset state, its straps perhaps sampled. -/
theorem exec_of_resetsPart {i : Instr} (hi : resetsPart i s) (e : exec i s = .next t) :
    ∃ phase pins sent, (State.heldReset s.pending phase pins sent).Housekept t := by
  cases i <;> simp only [resetsPart] at hi
  case powerOnReset =>
    obtain rfl : s.powerOn = t := Host.Outcome.next.inj e
    exact ⟨.held, s.pins, s.cutOff, rfl, id, id, id, id⟩
  case pinReset =>
    have e : s.pinReset = t := Host.Outcome.next.inj e
    rw [State.pinReset, if_neg hi] at e
    subst e
    exact ⟨.held, { s.pins with reset := false }, s.cutOff, rfl, id, id, id, id⟩
  case partResetEffect x =>
    have e : whenRunning (·.partReset x) s = .next t := e
    rw [whenRunning, if_pos hi.1, State.partReset, if_pos hi.2] at e
    obtain rfl := Host.Outcome.next.inj e
    exact ⟨.running, s.pins, s.sentWhole, rfl, id, id, id, id⟩
  case trunkFrameBoundary x =>
    have e : whenRunning (·.frameBoundary x) s = .next t := e
    rw [whenRunning, if_pos hi.1, State.frameBoundary, if_pos hi.2, State.partReset, if_pos hi.2] at e
    obtain rfl := Host.Outcome.next.inj e
    exact ⟨.running, s.pins, s.sentWhole, rfl, id, id, id, id⟩

/-- Every command completes. -/
theorem exec_completes (i : Instr) (s : State) : ∃ t, exec i s = .next t := by
  cases i <;> exact ⟨_, rfl⟩

end

/-- A property of the part that its reset states have, that the waiting queue does not enter, and that every row from every
state keeps, is kept by every step. -/
theorem step_keeps {Q : State → Prop} (hqueue : ∀ s l, Q s → Q { s with pending := l })
    (hreset : ∀ l phase pins sent t, (State.heldReset l phase pins sent).Housekept t → Q t)
    (hexec : ∀ s t i, Q s → ¬ resetsPart i s → exec i s = .next t → Q t) {s t : State} (hs : Q s)
    (e : step s = .next t) : Q t := by
  unfold step at e
  split at e
  · exact Host.Outcome.next.inj e ▸ hs
  · next c rest _ =>
    by_cases hr : resetsPart c { s with pending := rest }
    · obtain ⟨phase, pins, sent, h⟩ := exec_of_resetsPart hr e
      exact hreset _ _ _ _ t h
    · exact hexec _ t c (hqueue s rest hs) hr e

end Sys2Proof.Machine

/-! PROOFS. What every command keeps of the queue, the trunk, the protected plan and the Bar List, and what an event of one
feeder leaves alone. -/
namespace Sys2Proof.Machine

open Sys2Proof

/-! ## The queue of waiting commands -/

theorem State.releaseLinks_pending (l : List Record) :
    ∀ s : State, (l.foldl (fun t r => t.releaseLink r.planLink) s).pending = s.pending := by
  induction l with
  | nil => exact fun _ => rfl
  | cons r l ih =>
    intro s
    rw [List.foldl_cons, ih]
    unfold State.releaseLink
    split <;> rfl

theorem keepsCoarse_pending (l : List Instr) : KeepsCoarse (fun _ => True) fun t => t.pending = l where
  setFd s f x _ h := by rw [State.setFd_pending]; exact h
  raise s k n h := by rw [State.raise_pending]; exact h
  bar _ _ h := h
  dropArrivals _ _ h := h
  takeLink s link f k h := by unfold State.takeLink; split <;> exact h
  releaseLink s link h := by unfold State.releaseLink; split <;> exact h
  windows _ _ h _ := h
  award _ _ _ h := h

theorem State.Housekept.pending {s t : State} (h : s.Housekept t) : t.pending = s.pending := by rw [h.rest]

theorem State.Served.pending {s t : State} (h : s.Served t) : t.pending = s.pending := h.housekept.pending

theorem keepsSteps_pending (l : List Instr) :
    KeepsSteps (fun _ => True) (fun _ _ => True) (fun _ _ _ => True) (fun _ => True) (fun t => t.pending = l)
      fun t => t.pending = l :=
  { (keepsCoarse_pending l).keeps with
    sound := fun _ => id
    service := fun _ _ h e => e.pending.trans h
    settings := fun _ _ _ h _ => by rw [State.modFd_pending]; exact h
    tally := fun _ _ _ h => by rw [State.modFd_pending]; exact h
    clear := fun _ _ h => by rw [State.modFd_pending]; exact h
    watch := fun _ _ _ h => by rw [State.modFd_pending]; exact h
    opens := fun _ _ h _ => by rw [State.modFd_pending]; exact h
    close := fun s f _ h => by
      unfold State.closeFeeder
      rw [State.modFd_pending]
      exact (State.releaseLinks_pending _ s).trans h
    rewrite := fun _ _ _ _ _ _ h _ _ _ => h
    erase := fun _ _ h _ _ _ => h
    barHold := fun _ _ h _ _ => h
    unbar := fun _ _ h _ => h
    forward := fun _ _ h _ => h
    trunk := fun _ _ h e => e.pending.trans h
    reply := fun _ _ h e => e.pending.trans h
    tickBars := fun _ h => h }

/-- Settles O2: every arm of the dispatch is a next state, and `keepsSteps_pending` follows the queue through it. -/
theorem everyCommandCompletesAndKeepsQueue : Obligations.EveryCommandCompletesAndKeepsQueue := by
  intro i s
  obtain ⟨t, e⟩ := exec_completes i s
  refine ⟨t, e, ?_⟩
  by_cases hr : resetsPart i s
  · obtain ⟨phase, pins, sent, h⟩ := exec_of_resetsPart hr e
    exact h.pending
  · exact (keepsSteps_pending s.pending).exec rfl (fun _ => .inl trivial) (fun _ _ => trivial) hr e

/-! ## Answers (R188) -/

theorem outsideHoldover_trunkStands (c : Command) (s : State) :
    s.TrunkStands (outsideHoldover (commandCode c) (runCommand c) s).1 := by
  rcases outsideHoldover_or (commandCode c) (runCommand c) s with e | e <;> rw [e]
  · exact .refl s
  · exact runCommand_trunkStands c s

theorem State.opened_trunk (s : State) (t : Taking) :
    (s.opened t).mgmtBuffer = s.mgmtBuffer ∧ (s.opened t).upBuffer = s.upBuffer ∧
      (s.opened t).transmitting = s.transmitting ∧ (s.opened t).tagType = s.tagType := by
  rw [State.opened_eq]; exact ⟨rfl, rfl, rfl, rfl⟩

theorem State.canTake_of_mayTake {s : State} (h : s.mayTake) : s.canTake = true := by
  obtain ⟨-, h2, h3⟩ := h
  simp [State.canTake, h2, h3, Config.replyCapacity]

/-- A command row that may be taken: its body's state with the reply added. -/
theorem exec_rowOf_of_mayTake {s : State} (h : s.mayTake) (t : Taking) (c : Command) :
    exec (rowOf t c) s =
      .next ((outsideHoldover (commandCode c) (runCommand c) (s.opened t)).1.addReply t (commandCode c)
        ((s.receipt + 1) % 16) (outsideHoldover (commandCode c) (runCommand c) (s.opened t)).2) := by
  rw [exec_rowOf, whenRunning, if_pos h.1, State.takeCommand, if_pos (State.canTake_of_mayTake h), ← s.opened_receipt t]
  rfl

/-- Settles O12: the body of a command leaves the trunk's side alone (`runCommand_trunkStands`), so the reply stands behind
the replies that stood. -/
theorem everyCommandIsAnsweredOnce : Obligations.EveryCommandIsAnsweredOnce := by
  intro s t c _
  refine ⟨fun h => ?_, fun h => ?_⟩
  · have hb := outsideHoldover_trunkStands c (s.opened t)
    obtain ⟨hm, hu, htr, htag⟩ := s.opened_trunk t
    refine ⟨_, (outsideHoldover (commandCode c) (runCommand c) (s.opened t)).2, exec_rowOf_of_mayTake h t c, ?_,
      hb.receipt.trans (s.opened_receipt t), hb.mgmtBuffer.trans hm,
      hb.upBuffer.trans hu, hb.transmitting.trans htr, hb.tagType.trans htag⟩
    show (outsideHoldover (commandCode c) (runCommand c) (s.opened t)).1.replies ++ _ = _
    rw [hb.replies, State.opened_replies]
  · rw [exec_rowOf]
    exact State.takeCommand_waits h

/-! ## The contents of the plan (R80) -/

/-- The entry is in use or not as it was, with the contents that it had. -/
def PlanEntry.SameContents (e k : PlanEntry) : Prop := k.inUse = e.inUse ∧ k.contents = e.contents

theorem PlanEntry.SameContents.refl (e : PlanEntry) : e.SameContents e := ⟨rfl, rfl⟩

theorem PlanEntry.SameContents.trans {a b c : PlanEntry} (h : a.SameContents b) (k : b.SameContents c) :
    a.SameContents c :=
  ⟨k.1.trans h.1, k.2.trans h.2⟩

theorem PlanEntry.sameContents_takeLink (e : PlanEntry) (f : FeederId) (h : Nat) : e.SameContents (e.takeLink f h) := by
  unfold PlanEntry.takeLink; split <;> exact ⟨rfl, rfl⟩

theorem PlanEntry.sameContents_dropLink (e : PlanEntry) : e.SameContents e.dropLink := by
  unfold PlanEntry.dropLink; split <;> exact ⟨rfl, rfl⟩

/-- Every plan entry of `t` has the contents that it has in `s`. -/
def State.SamePlan (s t : State) : Prop := ∀ i, (s.planAt i).SameContents (t.planAt i)

theorem State.SamePlan.refl (s : State) : s.SamePlan s := fun _ => .refl _

theorem State.SamePlan.trans {s t u : State} (h : s.SamePlan t) (k : t.SamePlan u) : s.SamePlan u :=
  fun i => (h i).trans (k i)

theorem State.samePlan_of_plan {s t : State} (e : t.plan = s.plan) : s.SamePlan t := fun i => by
  unfold State.planAt; rw [e]; exact .refl _

theorem State.samePlan_takeLink (s : State) (link : Option Nat) (f : FeederId) (h : Nat) :
    s.SamePlan (s.takeLink link f h) := by
  unfold State.takeLink
  split
  · exact .refl s
  · intro i
    rw [State.planAt_setPlan]
    split
    · next e => rw [← e.1]; exact PlanEntry.sameContents_takeLink _ f h
    · exact .refl _

theorem State.samePlan_releaseLink (s : State) (link : Option Nat) : s.SamePlan (s.releaseLink link) := fun i => by
  rw [State.planAt_releaseLink]
  split
  · exact PlanEntry.sameContents_dropLink _
  · exact .refl _

theorem State.samePlan_releaseLinks (l : List Record) :
    ∀ s : State, s.SamePlan (l.foldl (fun t r => t.releaseLink r.planLink) s) := by
  induction l with
  | nil => exact .refl
  | cons r l ih => exact fun s => (s.samePlan_releaseLink r.planLink).trans (ih _)

theorem State.samePlan_closeFeeder (s : State) (f : FeederId) : s.SamePlan (s.closeFeeder f) := by
  refine (State.samePlan_releaseLinks (s.fd f).table.toList s).trans (State.samePlan_of_plan ?_)
  unfold State.closeFeeder
  rw [State.modFd_plan]

/-- The entry keeps its contents in everything that an event writes. -/
theorem keepsCoarse_contents (e : PlanEntry) (i : Nat) :
    KeepsCoarse (fun _ => True) fun t => e.SameContents (t.planAt i) where
  setFd s f x _ h := h.trans (State.samePlan_of_plan (s.setFd_plan f x) i)
  raise s k n h := h.trans (State.samePlan_of_plan (s.raise_plan k n) i)
  bar _ _ h := h
  dropArrivals _ _ h := h
  takeLink s link f k h := h.trans (s.samePlan_takeLink link f k i)
  releaseLink s link h := h.trans (s.samePlan_releaseLink link i)
  windows _ _ h _ := h
  award _ _ _ h := h

theorem State.Housekept.plan {s t : State} (h : s.Housekept t) : t.plan = s.plan := by rw [h.rest]

theorem keepsSteps_contents (e : PlanEntry) (i : Nat) :
    KeepsSteps (fun _ => True) (fun _ _ => True) (fun _ _ _ => True) (· ≠ i) (fun t => e.SameContents (t.planAt i))
      fun t => e.SameContents (t.planAt i) :=
  have fd : ∀ (s : State) f g, e.SameContents (s.planAt i) → e.SameContents ((s.modFd f g).planAt i) :=
    fun s f g h => h.trans (State.samePlan_of_plan (s.modFd_plan f g) i)
  have keep : ∀ s t : State, e.SameContents (s.planAt i) → s.Housekept t → e.SameContents (t.planAt i) :=
    fun _ _ h k => h.trans (State.samePlan_of_plan k.plan i)
  have write : ∀ (s : State) j k, e.SameContents (s.planAt i) → j ≠ i → e.SameContents ((s.setPlan j k).planAt i) :=
    fun s j k h hj => by rw [State.planAt_setPlan, if_neg fun x => hj x.1]; exact h
  { (keepsCoarse_contents e i).keeps with
    sound := fun _ => id
    service := fun s t h k => keep s t h k.housekept
    settings := fun s f _ h _ => fd s f _ h
    tally := fun s f _ h => fd s f _ h
    clear := fun s f h => fd s f _ h
    watch := fun s f _ h => fd s f _ h
    opens := fun s f h _ => fd s f _ h
    close := fun s f _ h => h.trans (s.samePlan_closeFeeder f i)
    rewrite := fun s j _ _ _ _ h hj _ _ => write s j _ h hj
    erase := fun s j h hj _ _ => write s j _ h hj
    barHold := fun _ _ h _ _ => h
    unbar := fun _ _ h _ => h
    forward := fun _ _ h _ => h
    trunk := keep
    reply := keep
    tickBars := fun _ h => h }

/-- Settles O51: only PLAN_WRITE and PLAN_ERASE write contents, and past their checks the entry they name lies outside the
freeze range. -/
theorem frozenContentsChangeOnlyByReset : Obligations.FrozenContentsChangeOnlyByReset := by
  intro c s t i _ hfr hr e
  obtain ⟨h1, h2⟩ := (keepsSteps_contents (s.planAt i) i).exec (.refl _) (fun _ => .inl trivial)
    (fun j hj hji => by rw [hji, hfr] at hj; cases hj) hr e
  exact ⟨h1.symm, h2⟩

/-! ## The Bar List (R22 to R25) -/

theorem map_serial_reload (bars : List BarEntry) (n : Serial) (hold : Nat) :
    (bars.map fun b => if b.serial = n then { b with countdown := hold } else b).map (·.serial) = bars.map (·.serial) := by
  rw [List.map_map]
  refine List.map_congr_left fun b _ => ?_
  simp only [Function.comp]
  split <;> rfl

theorem nodup_addBar {bars : List BarEntry} (n : Serial) (hold : Nat) (h : (bars.map (·.serial)).Nodup) :
    ((addBar bars n hold).map (·.serial)).Nodup := by
  unfold addBar
  split
  · rw [map_serial_reload]; exact h
  · next hn =>
    have hn : n ∉ bars.map (·.serial) := fun hm => by
      obtain ⟨b, hb, e⟩ := List.mem_map.mp hm
      exact hn (List.any_eq_true.mpr ⟨b, hb, decide_eq_true e⟩)
    have hsub : (if bars.length < Config.barCapacity then bars else bars.eraseIdx (barVictim bars)).Sublist bars := by
      split
      · exact .refl _
      · exact List.eraseIdx_sublist ..
    rw [List.map_append, List.map_singleton, List.nodup_append]
    refine ⟨h.sublist (hsub.map _), List.nodup_singleton _, fun a ha b hb e => hn ?_⟩
    have e : a = n := e.trans (List.mem_singleton.mp hb)
    exact e ▸ (hsub.map (·.serial)).subset ha

theorem State.BarsSound.bar {s : State} (h : s.BarsSound) (n : Serial) : (s.bar n).BarsSound where
  distinct := nodup_addBar n s.barHold h.distinct
  countdown b hb := by
    rcases addBar_entries s.bars n s.barHold b hb with hb | ⟨-, e⟩
    · exact h.countdown b hb
    · have := h.hold
      rw [e]
      omega
  hold := h.hold

theorem State.BarsSound.sublist {s : State} (h : s.BarsSound) {l : List BarEntry} (hl : l.Sublist s.bars) :
    State.BarsSound { s with bars := l } where
  distinct := h.distinct.sublist (hl.map _)
  countdown b hb := h.countdown b (hl.subset hb)
  hold := h.hold

theorem State.BarsSound.tick {s : State} (h : s.BarsSound) : State.BarsSound { s with bars := tickBars s.bars } where
  distinct := by
    have : (s.bars.map fun b => { b with countdown := b.countdown - 1 }).map (·.serial) = s.bars.map (·.serial) := by
      rw [List.map_map]; rfl
    exact (this ▸ h.distinct).sublist (List.filter_sublist.map _)
  countdown b hb := by
    obtain ⟨hb, h0⟩ := List.mem_filter.mp hb
    obtain ⟨c, hc, rfl⟩ := List.mem_map.mp hb
    have h0 : c.countdown - 1 ≠ 0 := of_decide_eq_true h0
    have := h.countdown c hc
    show 1 ≤ c.countdown - 1 ∧ c.countdown - 1 ≤ 65535
    omega
  hold := h.hold

/-- The Bar List and BAR_HOLD alone decide whether the list is sound. -/
theorem State.BarsSound.of_eq {s t : State} (h : s.BarsSound) (hb : t.bars = s.bars) (hh : t.barHold = s.barHold) :
    t.BarsSound :=
  ⟨hb ▸ h.distinct, hb ▸ h.countdown, hh ▸ h.hold⟩

theorem keepsCoarse_barsSound : KeepsCoarse (fun _ => True) State.BarsSound where
  setFd s f x _ h := h.of_eq (s.setFd_bars f x) (s.setFd_barHold f x)
  raise s k n h := h.of_eq (s.raise_bars k n) (s.raise_barHold k n)
  bar _ n h := h.bar n
  dropArrivals _ _ h := h.of_eq rfl rfl
  takeLink s link f k h := by unfold State.takeLink; split <;> exact h.of_eq rfl rfl
  releaseLink s link h := by unfold State.releaseLink; split <;> exact h.of_eq rfl rfl
  windows _ _ h _ := h.of_eq rfl rfl
  award _ _ _ h := h.of_eq rfl rfl

theorem State.releaseLinks_bars (l : List Record) : ∀ s : State,
    (l.foldl (fun t r => t.releaseLink r.planLink) s).bars = s.bars ∧
      (l.foldl (fun t r => t.releaseLink r.planLink) s).barHold = s.barHold := by
  induction l with
  | nil => exact fun _ => ⟨rfl, rfl⟩
  | cons r l ih =>
    intro s
    obtain ⟨h1, h2⟩ := ih (s.releaseLink r.planLink)
    rw [List.foldl_cons, h1, h2]
    unfold State.releaseLink
    split <;> exact ⟨rfl, rfl⟩

theorem State.Housekept.barsSound {s t : State} (h : s.BarsSound) (e : s.Housekept t) : t.BarsSound :=
  h.of_eq (by rw [e.rest]) (by rw [e.rest])

theorem keepsSteps_barsSound :
    KeepsSteps (fun _ => True) (fun _ _ => True) (fun _ _ _ => True) (fun _ => True) State.BarsSound State.BarsSound :=
  have fd : ∀ (s : State) f g, s.BarsSound → (s.modFd f g).BarsSound :=
    fun s f g h => h.of_eq (s.modFd_bars f g) (s.modFd_barHold f g)
  { keepsCoarse_barsSound.keeps with
    sound := fun _ => id
    service := fun _ _ h e => e.housekept.barsSound h
    settings := fun s f _ h _ => fd s f _ h
    tally := fun s f _ h => fd s f _ h
    clear := fun s f h => fd s f _ h
    watch := fun s f _ h => fd s f _ h
    opens := fun s f h _ => fd s f _ h
    close := fun s f _ h => by
      obtain ⟨h1, h2⟩ := State.releaseLinks_bars (s.fd f).table.toList s
      unfold State.closeFeeder
      exact fd _ f _ (h.of_eq h1 h2)
    rewrite := fun _ _ _ _ _ _ h _ _ _ => h.of_eq rfl rfl
    erase := fun _ _ h _ _ _ => h.of_eq rfl rfl
    barHold := fun _ _ h h1 h2 => { h with hold := ⟨h1, h2⟩ }
    unbar := fun _ _ h hl => h.sublist hl
    forward := fun _ _ h _ => h.of_eq rfl rfl
    trunk := fun _ _ h e => e.barsSound h
    reply := fun _ _ h e => e.barsSound h
    tickBars := fun _ h => h.tick }

theorem State.barsSound_heldReset (l : List Instr) (phase : Phase) (pins : Pins) (sent : Option TrunkSent) :
    (State.heldReset l phase pins sent).BarsSound :=
  ⟨List.nodup_nil, nofun, Nat.le_of_ble_eq_true rfl, Nat.le_of_ble_eq_true rfl⟩

/-- Settles O54: an addition keeps the serials distinct and loads BAR_HOLD, the tick removes what reaches 0. -/
theorem barListKeptSound : Obligations.BarListKeptSound := fun _ _ hs e =>
  step_keeps (fun _ _ h => h.of_eq rfl rfl)
    (fun l phase pins sent _ h => h.barsSound (State.barsSound_heldReset l phase pins sent))
    (fun _ _ _ h hr e => keepsSteps_barsSound.exec h (fun _ => .inl trivial) (fun _ _ => trivial) hr e) hs e

/-! ## An event of one feeder -/

/-- `t` is `s` with events of `f` taken: the other feeder with arrivals gone at most, the protection, profiles, management
and trunk as they stood, and the plan with its contents. -/
structure State.OnlyFeeder (f : FeederId) (s t : State) : Prop where
  arrivals : (t.fd f.other).arrivals.Sublist (s.fd f.other).arrivals
  other : t.fd f.other = { s.fd f.other with arrivals := (t.fd f.other).arrivals }
  rest : t = { s with
    feederA := t.feederA
    feederB := t.feederB
    lastServed := t.lastServed
    award := t.award
    windows := t.windows
    plan := t.plan
    bars := t.bars
    upBuffer := t.upBuffer
    notices := t.notices
    noticeOverrun := t.noticeOverrun }
  plan : s.SamePlan t

theorem State.OnlyFeeder.refl (f : FeederId) (s : State) : s.OnlyFeeder f s :=
  ⟨.refl _, rfl, rfl, .refl s⟩

theorem State.OnlyFeeder.trans {f : FeederId} {s t u : State} (h : s.OnlyFeeder f t) (k : t.OnlyFeeder f u) :
    s.OnlyFeeder f u where
  arrivals := k.arrivals.trans h.arrivals
  other := by rw [k.other, h.other]
  rest := by rw [k.rest, h.rest]
  plan := h.plan.trans k.plan

theorem State.onlyFeeder_of_fd {f : FeederId} {s t : State} (hfd : t.fd f.other = s.fd f.other)
    (hrest : t = { s with
      feederA := t.feederA, feederB := t.feederB, lastServed := t.lastServed, award := t.award, windows := t.windows
      plan := t.plan, bars := t.bars, upBuffer := t.upBuffer, notices := t.notices, noticeOverrun := t.noticeOverrun })
    (hplan : s.SamePlan t) : s.OnlyFeeder f t where
  arrivals := by rw [hfd]
  other := by rw [hfd]
  rest := hrest
  plan := hplan

theorem State.onlyFeeder_setFd (f : FeederId) (s : State) (x : Feeder) : s.OnlyFeeder f (s.setFd f x) :=
  State.onlyFeeder_of_fd (s.fd_setFd_other f x) (by cases f <;> rfl) (State.samePlan_of_plan (s.setFd_plan f x))

theorem State.onlyFeeder_raise (f : FeederId) (s : State) (k : NoticeKind) (n : NoticeFields) :
    s.OnlyFeeder f (s.raise k n) := by
  rcases s.raise_cases k n with ⟨-, e⟩ | ⟨-, -, e⟩ | ⟨-, -, e⟩ <;> rw [e]
  · exact .refl f s
  · exact State.onlyFeeder_of_fd (by cases f <;> rfl) rfl (State.samePlan_of_plan rfl)
  · exact State.onlyFeeder_of_fd (by cases f <;> rfl) rfl (State.samePlan_of_plan rfl)

theorem State.onlyFeeder_dropArrivals (f : FeederId) (s : State) (n : Serial) : s.OnlyFeeder f (s.dropArrivals n) where
  arrivals := by cases f <;> exact List.filter_sublist
  other := by cases f <;> rfl
  rest := rfl
  plan := State.samePlan_of_plan rfl

theorem State.onlyFeeder_bar (f : FeederId) (s : State) (n : Serial) : s.OnlyFeeder f (s.bar n) where
  arrivals := by cases f <;> exact List.filter_sublist
  other := by cases f <;> rfl
  rest := rfl
  plan := State.samePlan_of_plan rfl

theorem keepsCoarse_onlyFeeder (f : FeederId) (s0 : State) : KeepsCoarse (· = f) (s0.OnlyFeeder f) where
  setFd s g x hg h := h.trans (by rw [hg]; exact State.onlyFeeder_setFd f s x)
  raise s k n h := h.trans (State.onlyFeeder_raise f s k n)
  bar s n h := h.trans (State.onlyFeeder_bar f s n)
  dropArrivals s n h := h.trans (State.onlyFeeder_dropArrivals f s n)
  takeLink s link g k h := h.trans (State.onlyFeeder_of_fd (by unfold State.takeLink; split <;> simp)
    (by unfold State.takeLink; split <;> rfl) (s.samePlan_takeLink link g k))
  releaseLink s link h := h.trans (State.onlyFeeder_of_fd (by unfold State.releaseLink; split <;> simp)
    (by unfold State.releaseLink; split <;> rfl) (s.samePlan_releaseLink link))
  windows s ws h _ := h.trans (State.onlyFeeder_of_fd (by cases f <;> rfl) rfl (State.samePlan_of_plan rfl))
  award s a l h := h.trans (State.onlyFeeder_of_fd (by cases f <;> rfl) rfl (State.samePlan_of_plan rfl))

/-- Settles O50: every update of an event writes its own feeder, what the feeders share, or removes arrivals. -/
theorem feederEventsLeaveTheRest : Obligations.FeederEventsLeaveTheRest := by
  intro i f s t hi e
  obtain ⟨h1, h2, h3, h4⟩ := (keepsCoarse_onlyFeeder f s).keeps.feederEvent
    (fun v u h _ => h.trans (State.onlyFeeder_of_fd (by cases f <;> rfl) rfl (State.samePlan_of_plan rfl))) rfl
    (.refl f s) hi e
  exact ⟨h1, h2, h3, h4⟩

end Sys2Proof.Machine

/-! PROOFS. A property of each feeder on its own: what keeps it through the events, and through every step. -/
namespace Sys2Proof.Machine

open Sys2Proof

/-! ## Weaker messages -/

theorem Record.Tuned.mono {N N' : Msg → Prop} {r q : Record} (hN : ∀ m, N m → N' m) (h : r.Tuned N q) : r.Tuned N' q :=
  { h with
    eqd := h.eqd.imp id fun ⟨m, hm, e⟩ => ⟨m, hN m hm, e⟩
    owed := fun m hm => (h.owed m hm).imp id (hN m)
    range := fun k => h.range fun m hm => k m (hN m hm) }

theorem Feeder.Eases.mono {N N' : Msg → Prop} {fd x : Feeder} (hN : ∀ m, N m → N' m) (h : fd.Eases N x) :
    fd.Eases N' x :=
  { h with
    records := fun k => (h.records k).mono hN
    queued := fun q hq => (h.queued q hq).imp id (hN _) }

/-! ## Each feeder on its own -/

/-- Both feeders have the property. -/
def State.Each (R : Feeder → Prop) (s : State) : Prop := ∀ f, R (s.fd f)

theorem State.Each.setFd {R : Feeder → Prop} {s : State} (h : s.Each R) (f : FeederId) {x : Feeder} (hx : R x) :
    (s.setFd f x).Each R := by
  intro g
  by_cases e : g = f
  · rw [e, State.fd_setFd]; exact hx
  · rw [State.fd_setFd_of_ne s f g x e]; exact h g

theorem State.Each.of_fd {R : Feeder → Prop} {s t : State} (h : s.Each R) (e : ∀ f, t.fd f = s.fd f) : t.Each R :=
  fun f => by rw [e f]; exact h f

theorem State.Each.dropArrivals {R : Feeder → Prop} (hd : ∀ fd n, R fd → R (fd.dropArrival n)) {s : State}
    (h : s.Each R) (n : Serial) : (s.dropArrivals n).Each R
  | .A => hd _ n (h .A)
  | .B => hd _ n (h .B)

theorem State.Each.link {R : Feeder → Prop} {s : State} (h : s.Each R) (link : Option Nat) :
    (s.releaseLink link).Each R ∧ ∀ f k, (s.takeLink link f k).Each R := by
  refine ⟨h.of_fd fun g => ?_, fun f k => h.of_fd fun g => ?_⟩
  · unfold State.releaseLink; split <;> simp
  · unfold State.takeLink; split <;> simp

/-- What the events of a feeder do to one feeder keeps `R`. -/
structure KeepsFeeder (M : Settings → Msg → Prop) (A : Settings → Arrival → Prop) (R : Feeder → Prop) : Prop where
  fits : ∀ x m, m.Fits x → M x m
  names : ∀ x a, A x a → M x (.name a.serial a.measured.eqd)
  tells : ∀ fd, R fd → fd.Says (M fd.settings)
  arrival : ∀ fd a, R fd → a ∈ fd.arrivals → A fd.settings a
  soften : ∀ fd x, R fd → fd.Softens (M fd.settings) x → R x
  culprit : ∀ fd h, R fd → fd.hunt.target = some h → R (fd.modRecord h fun r => { r with state := .hushed, heldFrom := none })
  retarget : ∀ fd k, R fd → (fd.record k).state.active = true → R { fd with hunt := { fd.hunt with target := some k } }
  ejectFor : ∀ fd h n reason, R fd → (fd.record h).state.active = true → fd.hunt.target ≠ some h →
    n ≤ (fd.record h).eqAttempts + 1 → R (fd.modRecord h fun r => (r.attempted n).ejectFor reason)
  join : ∀ fd (a : Arrival), R fd → a.measured.Fits fd.settings → fd.arrivals.length < 16 →
    R { fd with arrivals := fd.arrivals ++ [a] }
  name : ∀ fd h a link p, R fd → A fd.settings a → (fd.record h).state = .free → R (fd.setRecord h (a.record link p))
  tearDown : ∀ fd h, R fd → (fd.record h).state = .ejected →
    R { ((fd.removeMessages h).setRecord h freeRecord) with fullArmed := true }

theorem KeepsFeeder.dropArrival {M : Settings → Msg → Prop} {A : Settings → Arrival → Prop} {R : Feeder → Prop}
    (K : KeepsFeeder M A R) (fd : Feeder) (n : Serial) (h : R fd) : R (fd.dropArrival n) :=
  K.soften fd _ h (fd.eases_dropArrival _ n).toSoftens

theorem KeepsFeeder.keeps {M : Settings → Msg → Prop} {A : Settings → Arrival → Prop} {R : Feeder → Prop}
    (K : KeepsFeeder M A R) (L : FeederId → Prop) : Keeps L M (fun _ => A) (State.Each R) :=
  KeepsCore.keeps
    { fits := K.fits
      names := fun _ => K.names
      tells := fun s f h => K.tells _ (h f)
      arrival := fun s f a h ha => K.arrival _ a (h f) ha
      raise := fun s k n h => h.of_fd fun f => s.fd_raise k n f
      soften := fun s f x _ h hx => h.setFd f (K.soften _ x (h f) hx)
      culprit := fun s f k _ h ht => h.setFd f (K.culprit _ k (h f) ht)
      retarget := fun s f k _ h ha => h.setFd f (K.retarget _ k (h f) ha)
      ejectFor := fun s f k n reason _ h ha ht hn => h.setFd f (K.ejectFor _ k n reason (h f) ha ht hn)
      bar := fun s n h _ => (h.of_fd (t := { s with bars := addBar s.bars n s.barHold }) fun f => by
        cases f <;> rfl).dropArrivals
        K.dropArrival n
      join := fun s f a _ h hj hm => h.setFd f (K.join _ a (h f) hm hj.room)
      name := fun s f k a link p _ h hA _ _ _ hfree =>
        ((h.setFd f (K.name _ k a link p (h f) hA hfree)).link link).2 f k |>.dropArrivals K.dropArrival a.serial
      tearDown := fun s f k _ h he => by
        have h1 := (h.link (s.record f k).planLink).1
        refine h1.setFd f (K.tearDown _ k (h1 f) ?_)
        rw [show (s.releaseLink (s.record f k).planLink).fd f = s.fd f by unfold State.releaseLink; split <;> simp]
        exact he
      windows := fun s ws h _ _ => h.of_fd fun f => by cases f <;> rfl
      addWindow := fun s f n w _ h => h.of_fd fun g => by cases g <;> rfl
      award := fun s a l h => h.of_fd fun f => by cases f <;> rfl }

/-! ## Beside another property of the state -/

/-- What the commands do to one feeder keeps `R`, in states of `C`. -/
structure KeepsSettings (C : State → Prop) (R : Feeder → Prop) : Prop where
  settings : ∀ (s : State) f x, C s → R (s.fd f) → x.reach = (s.fd f).settings.reach ∨ (s.fd f).state = .closed →
    R { s.fd f with settings := x }
  tally : ∀ (fd : Feeder) c, R fd → R { fd with counters := c }
  clear : ∀ fd, R fd → R { fd with counters := zeroCounters, latched := clearLatched }
  watch : ∀ (fd : Feeder) w, R fd → R { fd with watch := w }
  opens : ∀ fd, R fd → R { fd with state := .quieting, seqCount := some 64 }
  close : ∀ (fd : Feeder), R fd.close

section

variable {L : FeederId → Prop} {M : Settings → Msg → Prop} {A : List BarEntry → Settings → Arrival → Prop}
  {F : Nat → Prop} {C Q : State → Prop} {R : Feeder → Prop}

/-- The properties of two structures that differ in their messages, kept together. -/
theorem Keeps.and {P : State → Prop} (K : Keeps L M A P) (KC : Keeps L (fun _ _ => True) (fun _ _ _ => True) C) :
    Keeps L M A fun s => C s ∧ P s where
  fits := K.fits
  names := K.names
  tells s f h := K.tells s f h.2
  arrival s f a h := K.arrival s f a h.2
  raise s k n h := ⟨KC.raise s k n h.1, K.raise s k n h.2⟩
  ease s f x hL h hx := ⟨KC.ease s f x hL h.1 (hx.mono fun _ _ => trivial), K.ease s f x hL h.2 hx⟩
  culprit s f k hL h ht := ⟨KC.culprit s f k hL h.1 ht, K.culprit s f k hL h.2 ht⟩
  chooseTarget s f hL h ht := ⟨KC.chooseTarget s f hL h.1 ht, K.chooseTarget s f hL h.2 ht⟩
  beginStray s f hL h hs := ⟨KC.beginStray s f hL h.1 hs, K.beginStray s f hL h.2 hs⟩
  eject s f k n r hL h ha hn := ⟨KC.eject s f k n r hL h.1 ha hn, K.eject s f k n r hL h.2 ha hn⟩
  bar s n h hb := ⟨KC.bar s n h.1 hb, K.bar s n h.2 hb⟩
  join s f a hL h hj hm := ⟨KC.join s f a hL h.1 hj hm, K.join s f a hL h.2 hj hm⟩
  name s f k a link p hL h hA hn h1 h2 hf :=
    ⟨KC.name s f k a link p hL h.1 trivial hn h1 h2 hf, K.name s f k a link p hL h.2 hA hn h1 h2 hf⟩
  tearDown s f k hL h he := ⟨KC.tearDown s f k hL h.1 he, K.tearDown s f k hL h.2 he⟩
  windows s ws h hl hw := ⟨KC.windows s ws h.1 hl hw, K.windows s ws h.2 hl hw⟩
  addWindow s f n w hL h := ⟨KC.addWindow s f n w hL h.1, K.addWindow s f n w hL h.2⟩
  award s a l h := ⟨KC.award s a l h.1, K.award s a l h.2⟩

theorem State.fd_releaseLinks (l : List Record) (f : FeederId) :
    ∀ s : State, (l.foldl (fun t r => t.releaseLink r.planLink) s).fd f = s.fd f := by
  induction l with
  | nil => exact fun _ => rfl
  | cons r l ih =>
    intro s
    rw [List.foldl_cons, ih]
    unfold State.releaseLink
    split <;> simp

theorem State.fd_closeFeeder (s : State) (f : FeederId) :
    (s.closeFeeder f).fd f = (s.fd f).close ∧ (s.closeFeeder f).fd f.other = s.fd f.other := by
  have h := fun g => State.fd_releaseLinks (s.fd f).table.toList g s
  unfold State.closeFeeder
  rw [State.fd_modFd, State.fd_modFd_other]
  cases f with
  | A => exact ⟨congrArg Feeder.close (h .A), h .B⟩
  | B => exact ⟨congrArg Feeder.close (h .B), h .A⟩

theorem State.Each.closeFeeder {s : State} (h : s.Each R) (hc : ∀ fd : Feeder, R fd.close) (f : FeederId) :
    (s.closeFeeder f).Each R := by
  obtain ⟨h1, h2⟩ := s.fd_closeFeeder f
  intro g
  by_cases e : g = f
  · rw [e, h1]; exact hc _
  · have e : g = f.other := by cases g <;> cases f <;> simp_all [FeederId.other]
    rw [e, h2]
    exact h f.other

/-- A property of each feeder, beside a property of the state that every step keeps. -/
theorem KeepsSettings.steps (KS : KeepsSettings C R) (K : Keeps L M A (State.Each R))
    (KC : KeepsSteps L (fun _ _ => True) (fun _ _ _ => True) F C Q) :
    KeepsSteps L M A F (fun s => C s ∧ s.Each R) fun s => Q s ∧ s.Each R :=
  have same : ∀ s t : State, s.Each R → s.Housekept t → t.Each R := fun _ _ h e => h.of_fd e.fd
  { K.and KC.toKeeps with
    sound := fun s h => ⟨KC.sound s h.1, h.2⟩
    service := fun s t h e => ⟨KC.service s t h.1 e, same s t h.2 e.housekept⟩
    settings := fun s f x h e => ⟨KC.settings s f x h.1 e, h.2.setFd f (KS.settings s f x h.1 (h.2 f) e)⟩
    tally := fun s f c h => ⟨KC.tally s f c h.1, h.2.setFd f (KS.tally _ c (h.2 f))⟩
    clear := fun s f h => ⟨KC.clear s f h.1, h.2.setFd f (KS.clear _ (h.2 f))⟩
    watch := fun s f w h => ⟨KC.watch s f w h.1, h.2.setFd f (KS.watch _ w (h.2 f))⟩
    opens := fun s f h e => ⟨KC.opens s f h.1 e, h.2.setFd f (KS.opens _ (h.2 f))⟩
    close := fun s f hL h => ⟨KC.close s f hL h.1, h.2.closeFeeder KS.close f⟩
    rewrite := fun s i a k x p h hF hi hc =>
      ⟨KC.rewrite s i a k x p h.1 hF hi hc, h.2.of_fd fun f => by rw [State.fd_setPlan]⟩
    erase := fun s i h hF hi hh => ⟨KC.erase s i h.1 hF hi hh, h.2.of_fd fun f => by rw [State.fd_setPlan]⟩
    barHold := fun s n h h1 h2 => ⟨KC.barHold s n h.1 h1 h2, h.2.of_fd fun f => by cases f <;> rfl⟩
    unbar := fun s l h hl => ⟨KC.unbar s l h.1 hl, h.2.of_fd fun f => by cases f <;> rfl⟩
    forward := fun s u h hu => ⟨KC.forward s u h.1 hu, h.2.of_fd fun f => by cases f <;> rfl⟩
    trunk := fun s t h e => ⟨KC.trunk s t h.1 e, same s t h.2 e⟩
    reply := fun s t h e => ⟨KC.reply s t h.1 e, same s t h.2 e⟩
    tickBars := fun s h => ⟨KC.tickBars s h.1, h.2.of_fd fun f => by cases f <;> rfl⟩ }

end

/-- Nothing asked of the state. -/
theorem keepsSteps_true : KeepsSteps (fun _ => True) (fun _ _ => True) (fun _ _ _ => True) (fun _ => True)
    (fun _ => True) fun _ => True :=
  { (KeepsCoarse.keeps (L := fun _ => True) (P := fun _ => True)
      { setFd := fun _ _ _ _ _ => trivial
        raise := fun _ _ _ _ => trivial
        bar := fun _ _ _ => trivial
        dropArrivals := fun _ _ _ => trivial
        takeLink := fun _ _ _ _ _ => trivial
        releaseLink := fun _ _ _ => trivial
        windows := fun _ _ _ _ => trivial
        award := fun _ _ _ _ => trivial }) with
    sound := fun _ => id
    service := fun _ _ _ _ => trivial
    settings := fun _ _ _ _ _ => trivial
    tally := fun _ _ _ _ => trivial
    clear := fun _ _ _ => trivial
    watch := fun _ _ _ _ => trivial
    opens := fun _ _ _ _ => trivial
    close := fun _ _ _ _ => trivial
    rewrite := fun _ _ _ _ _ _ _ _ _ _ => trivial
    erase := fun _ _ _ _ _ _ => trivial
    barHold := fun _ _ _ _ _ => trivial
    unbar := fun _ _ _ _ => trivial
    forward := fun _ _ _ _ => trivial
    trunk := fun _ _ _ _ => trivial
    reply := fun _ _ _ _ => trivial
    tickBars := fun _ _ => trivial }

/-- A property of each feeder that the events and the commands keep, and that a reset feeder has, is kept by every step. -/
theorem State.Each.step {M : Settings → Msg → Prop} {A : List BarEntry → Settings → Arrival → Prop} {R : Feeder → Prop}
    (K : Keeps (fun _ => True) M A (State.Each R)) (KS : KeepsSettings (fun _ => True) R) (hreset : R resetFeeder)
    {s t : State} (hs : s.Each R) (e : step s = .next t) : t.Each R := by
  refine step_keeps (Q := State.Each R) (fun s l h => h.of_fd fun f => by cases f <;> rfl) ?_ ?_ hs e
  · intro l phase pins sent t h
    refine State.Each.of_fd (s := State.heldReset l phase pins sent) (fun f => ?_) h.fd
    cases f <;> exact hreset
  · intro s t i h hr e
    exact ((KS.steps K keepsSteps_true).exec ⟨trivial, h⟩ (fun _ => .inl trivial) (fun _ _ => trivial) hr e).2

end Sys2Proof.Machine

/-! PROOFS. Grant maps, record ranges and hunt records: properties of each feeder that every step keeps. -/
namespace Sys2Proof.Machine

open Sys2Proof

/-! ## The record table as a list -/

theorem Feeder.mem_table (fd : Feeder) (r : Record) :
    r ∈ fd.table.toList ↔ ∃ k, 1 ≤ k ∧ k ≤ 255 ∧ fd.record k = r := by
  rw [List.mem_iff_getElem]
  constructor
  · rintro ⟨i, hi, rfl⟩
    have hi : i < 255 := by simpa using hi
    refine ⟨i + 1, by omega, by omega, ?_⟩
    simp [Feeder.record, hi]
  · rintro ⟨k, h1, h2, rfl⟩
    refine ⟨k - 1, by simp; omega, ?_⟩
    have hk : k - 1 < 255 := by omega
    simp [Feeder.record, hk, show k ≠ 0 by omega]

/-- What the record of no handle has, and every record of the table, holds of every handle. -/
theorem Feeder.forall_record {fd : Feeder} {p : Record → Prop} (h0 : p freeRecord) :
    (∀ r ∈ fd.table.toList, p r) ↔ ∀ k, p (fd.record k) := by
  constructor
  · intro h k
    by_cases hk : 1 ≤ k ∧ k ≤ 255
    · exact h _ ((fd.mem_table _).mpr ⟨k, hk.1, hk.2, rfl⟩)
    · rw [Feeder.record_of_out fd k (by omega)]; exact h0
  · intro h r hr
    obtain ⟨k, -, -, rfl⟩ := (fd.mem_table r).mp hr
    exact h k

theorem Feeder.forall_record_setRecord {fd : Feeder} {p : Record → Prop} {h : Nat} {r : Record}
    (hp : ∀ k, p (fd.record k)) (hr : p r) (k : Nat) : p ((fd.setRecord h r).record k) := by
  rw [Feeder.record_setRecord]
  split
  · exact hr
  · exact hp k

theorem Feeder.setRecord_eq (fd : Feeder) (h : Nat) (r : Record) :
    fd.setRecord h r = { fd with table := (fd.setRecord h r).table } := by
  unfold Feeder.setRecord; split <;> rfl

/-! ## Grant maps (R134) -/

/-- A property that reads nothing of the table passes the writing of a record by. -/
theorem Feeder.mapsLawful_setRecord {fd : Feeder} (h : fd.MapsLawful) (k : Nat) (r : Record) :
    (fd.setRecord k r).MapsLawful := by
  rw [Feeder.setRecord_eq]; exact h

theorem keepsFeeder_mapsLawful : KeepsFeeder (fun _ _ => True) (fun _ _ => True) Feeder.MapsLawful where
  fits _ _ _ := trivial
  names _ _ _ := trivial
  tells fd _ := fd.says_true
  arrival _ _ _ _ := trivial
  soften _ _ h hx := hx.maps h
  culprit _ k h _ := Feeder.mapsLawful_setRecord h k _
  retarget _ _ h _ := h
  ejectFor _ k _ _ h _ _ _ := Feeder.mapsLawful_setRecord h k _
  join _ _ h _ _ := h
  name _ k _ _ _ h _ _ := Feeder.mapsLawful_setRecord h k _
  tearDown fd k h _ := Feeder.mapsLawful_setRecord (fd := fd.removeMessages k) h k _

theorem Feeder.mapsLawful_reset (x : Settings) (w : Watch) (l : Option LineCycle) :
    Feeder.MapsLawful { resetFeeder with settings := x, watch := w, line := l } :=
  ⟨nofun, nofun⟩

theorem keepsSettings_mapsLawful : KeepsSettings (fun _ => True) Feeder.MapsLawful where
  settings _ _ _ _ h _ := h
  tally _ _ h := h
  clear _ h := h
  watch _ _ h := h
  opens _ h := h
  close fd := Feeder.mapsLawful_reset fd.settings fd.watch fd.line

/-- Settles O60: `State.lawful_placeGrants` says that a build places a lawful map, and what else writes a map keeps the
offsets, lengths, kinds and handles of its grants. -/
theorem grantMapsKeptLawful : Obligations.GrantMapsKeptLawful := fun _ _ hs e =>
  State.Each.step (keepsFeeder_mapsLawful.keeps _) keepsSettings_mapsLawful ⟨nofun, nofun⟩ hs e

/-! ## Record ranges (R4 to R6, R105) -/

/-- A message whose residue R105 allows. -/
def Msg.ResidueFits (m : Msg) : Prop := ∀ i, m.residue? = some i → residueFits i

theorem freeRecord_inRange : freeRecord.InRange := by
  refine ⟨?_, ?_, ?_, ?_, ?_, ?_, ?_, ?_, ?_, ?_, nofun⟩ <;> decide

theorem Feeder.RecordsInRange.record {fd : Feeder} (h : fd.RecordsInRange) (k : Nat) : (fd.record k).InRange :=
  (Feeder.forall_record freeRecord_inRange).mp h.records k

theorem Feeder.recordsInRange_setRecord {fd : Feeder} (h : fd.RecordsInRange) {k : Nat} {r : Record} (hr : r.InRange)
    (ht : fd.hunt.target = some k → r.state.active = true) : (fd.setRecord k r).RecordsInRange where
  records := (Feeder.forall_record freeRecord_inRange).mpr (Feeder.forall_record_setRecord h.record hr)
  arrivals := by rw [Feeder.setRecord_arrivals]; exact h.arrivals
  queued := by rw [Feeder.setRecord_urgent, Feeder.setRecord_ordinary]; exact h.queued
  target j hj := by
    rw [Feeder.setRecord_hunt] at hj
    rw [Feeder.record_setRecord]
    split
    · next e => exact ht (e.1 ▸ hj)
    · exact h.target j hj

theorem Arrival.record_inRange {a : Arrival} (h : residueFits a.measured.residue) (link : Option Nat) (p : Fin 8) :
    (a.record link p).InRange where
  residue := h
  eqAttempts := Nat.zero_le _
  activeAttempts _ := Nat.zero_le _
  drift := Nat.zero_le _
  misplaced := Nat.zero_le _
  level := Nat.le_of_ble_eq_true rfl
  levelRun := Nat.zero_le _
  miss := Nat.zero_le _
  suspect := Nat.zero_le _
  attempts := Nat.zero_le _
  owed := nofun

theorem keepsFeeder_recordsInRange : KeepsFeeder (fun _ => Msg.ResidueFits)
    (fun _ a => residueFits a.measured.residue) Feeder.RecordsInRange where
  fits _ _ h := h.residue
  names _ _ _ := nofun
  tells _ h := ⟨h.queued, fun k m hm => (h.record k).owed m hm⟩
  arrival _ _ h ha := h.arrivals _ ha
  soften fd x h hx :=
    { records := (Feeder.forall_record freeRecord_inRange).mpr fun k => (hx.records k).range (fun _ hm => hm) (h.record k)
      arrivals := fun a ha => by
        rcases hx.measured a ha with ⟨b, hb, -, e⟩ | e
        · rw [← e]; exact h.arrivals b hb
        · exact e.residue
      queued := fun q hq => (hx.queued q hq).elim (h.queued q) id
      target := fun k hk => by
        rcases hx.target with e | e
        · exact (hx.records k).active.trans (h.target k (e ▸ hk))
        · rw [e] at hk; cases hk }
  culprit fd k h ht :=
    have ha := h.target k ht
    Feeder.recordsInRange_setRecord h
      { h.record k with activeAttempts := fun _ => (h.record k).activeAttempts ha } fun _ => rfl
  retarget fd k h ha := { h with target := fun j hj => by cases hj; exact ha }
  ejectFor fd k n reason h ha ht hn :=
    have hle : n ≤ 4 := hn.trans (Nat.succ_le_succ ((h.record k).activeAttempts ha))
    Feeder.recordsInRange_setRecord h { h.record k with eqAttempts := hle, activeAttempts := nofun, owed := nofun }
      fun e => absurd e ht
  join fd a h hm _ := { h with
    arrivals := fun b hb => by
      rcases List.mem_append.mp hb with hb | hb
      · exact h.arrivals b hb
      · rw [List.mem_singleton.mp hb]; exact hm.residue }
  name fd k a link p h hA _ := Feeder.recordsInRange_setRecord h (Arrival.record_inRange hA link p) fun _ => rfl
  tearDown fd k h he :=
    have h1 : (fd.removeMessages k).RecordsInRange :=
      { h with
        queued := fun q hq => h.queued q ((List.filter_sublist.append List.filter_sublist).subset hq) }
    have h2 := Feeder.recordsInRange_setRecord h1 (k := k) freeRecord_inRange fun e => by
      have := h.target k e
      rw [he] at this
      cases this
    { h2 with }

theorem Feeder.recordsInRange_reset (x : Settings) (w : Watch) (l : Option LineCycle) :
    Feeder.RecordsInRange { resetFeeder with settings := x, watch := w, line := l } where
  records := (Feeder.forall_record freeRecord_inRange).mpr fun k =>
    (Feeder.record_of_resetTable (fd := { resetFeeder with settings := x, watch := w, line := l }) rfl k).symm ▸
      freeRecord_inRange
  arrivals := nofun
  queued := nofun
  target := nofun

theorem keepsSettings_recordsInRange : KeepsSettings (fun _ => True) Feeder.RecordsInRange where
  settings _ _ _ _ h _ := { h with }
  tally _ _ h := { h with }
  clear _ h := { h with }
  watch _ _ h := { h with }
  opens _ h := { h with }
  close fd := Feeder.recordsInRange_reset fd.settings fd.watch fd.line

/-- Settles O57: every update either tunes a record within its ranges or counts an attempt of an active one. -/
theorem recordRangesKept : Obligations.RecordRangesKept := fun _ _ hs e =>
  State.Each.step (keepsFeeder_recordsInRange.keeps _) keepsSettings_recordsInRange
    (Feeder.recordsInRange_reset resetFeeder.settings resetFeeder.watch resetFeeder.line) hs e

/-! ## Hunt records (R155) -/

theorem Feeder.HuntSound.of_eq {a b : Feeder} (h : a.HuntSound) (hh : b.hunt = a.hunt) (hs : b.stray = a.stray) :
    b.HuntSound :=
  ⟨by rw [hh, hs]; exact h.idle, by rw [hh]; exact h.target, by rw [hh]; exact h.phase, by rw [hh]; exact h.hushCycle⟩

theorem Feeder.huntSound_setRecord {fd : Feeder} (h : fd.HuntSound) (k : Nat) (r : Record) :
    (fd.setRecord k r).HuntSound := by
  rw [Feeder.setRecord_eq]; exact { h with }

theorem Feeder.hunt_offerHush (fd : Feeder) (h : Nat) :
    (fd.offerHush h).hunt = fd.hunt ∧ (fd.offerHush h).stray = fd.stray :=
  have ht := Feeder.talked_offerUrgent (fd.modRecord h (·.clearOwed .resume)) h .hush
  ⟨ht.hunt.trans (by simp), ht.stray.trans (by simp)⟩

theorem Feeder.stray_ejectRecord (fd : Feeder) (h : Nat) (reason : EjectReason) :
    (fd.ejectRecord h reason).stray = fd.stray := by
  have hs : ((fd.modRecord h (·.ejectFor reason)).removeOrdinary h).stray = fd.stray := by
    rw [Feeder.modRecord_table]; rfl
  unfold Feeder.ejectRecord
  simp only
  split
  · exact hs
  · exact (Feeder.talked_offerUrgent _ h _).stray.trans hs

/-- A choice of the hunt's target, while STRAY is set and the hunt hunts (R158). -/
theorem State.huntSound_chooseTarget {s : State} {f : FeederId} (h1 : (s.fd f).hunt.state = .hunting)
    (h2 : (s.fd f).stray = true) : ((s.chooseTarget f).fd f).HuntSound := by
  cases e : (s.fd f).firstFrom (s.fd f).hunt.nextHandle (·.state.carriesTraffic) with
  | none =>
    rw [State.chooseTarget_of_none e, State.fd_raise, State.fd_setFd]
    exact ⟨by simp [h2], by simp [Hunt.noTarget], rfl, by simp [Hunt.noTarget]⟩
  | some k =>
    rw [State.chooseTarget_of_some e, State.fd_setFd]
    refine Feeder.HuntSound.of_eq (a := { s.fd f with hunt := (s.fd f).hunt.choose k }) ?_ ?_ ?_
    · exact ⟨by simp [Hunt.choose, h1, h2], by simp [Hunt.choose, h1], rfl, by simp [Hunt.choose]⟩
    · exact (Feeder.hunt_offerHush _ k).1
    · exact (Feeder.hunt_offerHush _ k).2.trans (by simp)

theorem State.fd_chooseTarget_of_ne (s : State) (f g : FeederId) (h : g ≠ f) : (s.chooseTarget f).fd g = s.fd g := by
  cases e : (s.fd f).firstFrom (s.fd f).hunt.nextHandle (·.state.carriesTraffic) with
  | none => rw [State.chooseTarget_of_none e, State.fd_raise, State.fd_setFd_of_ne _ _ _ _ h]
  | some k => rw [State.chooseTarget_of_some e, State.fd_setFd_of_ne _ _ _ _ h]

theorem State.each_huntSound_chooseTarget {s : State} {f : FeederId} (h : ∀ g, g ≠ f → (s.fd g).HuntSound)
    (h1 : (s.fd f).hunt.state = .hunting) (h2 : (s.fd f).stray = true) : (s.chooseTarget f).Each Feeder.HuntSound := by
  intro g
  by_cases e : g = f
  · rw [e]; exact State.huntSound_chooseTarget h1 h2
  · rw [State.fd_chooseTarget_of_ne s f g e]; exact h g e

theorem Feeder.HuntSound.hunting {fd : Feeder} (h : fd.HuntSound) (ht : fd.hunt.target.isSome = true) :
    fd.hunt.state = .hunting ∧ fd.stray = true := by
  have h1 := h.target.mp ht
  refine ⟨h1, ?_⟩
  by_contra hs
  have := h.idle.mpr (by simpa using hs)
  rw [h1] at this
  cases this

theorem State.huntsSound_eject {s : State} {f : FeederId} (h : s.Each Feeder.HuntSound) (k : Nat)
    (reason : EjectReason) : (s.eject f k reason).Each Feeder.HuntSound := by
  cases ha : (s.record f k).state.active with
  | false => rw [State.eject_of_inactive s f k reason ha]; exact h
  | true =>
    have hh : ((s.fd f).ejectRecord k reason).hunt = (s.fd f).hunt := Feeder.hunt_ejectRecord _ _ _
    have hs : ((s.fd f).ejectRecord k reason).stray = (s.fd f).stray := Feeder.stray_ejectRecord _ _ _
    rw [State.eject_of_active ha]
    unfold State.huntEjected
    rw [State.fd_raise, State.fd_modFd, hh]
    split
    · next ht =>
      obtain ⟨h1, h2⟩ := (h f).hunting (by rw [ht]; rfl)
      rw [State.modFd_raise]
      refine State.each_huntSound_chooseTarget (fun g e => ?_) ?_ ?_
      · rw [State.fd_raise, State.modFd_modFd, State.fd_modFd_of_ne _ _ _ _ e]; exact h g
      · rw [State.fd_raise, State.fd_modFd, State.fd_modFd, hh]; exact h1
      · rw [State.fd_raise, State.fd_modFd, State.fd_modFd]; exact hs.trans h2
    · exact State.Each.of_fd (h.setFd f ((h f).of_eq hh hs)) fun g => State.fd_raise _ _ _ g

theorem keeps_huntSound : Keeps (fun _ => True) (fun _ _ => True) (fun _ _ _ => True) (State.Each Feeder.HuntSound) where
  fits _ _ _ := trivial
  names _ _ _ _ := trivial
  tells s f _ := (s.fd f).says_true
  arrival _ _ _ _ _ := trivial
  raise s k n h := h.of_fd fun f => s.fd_raise k n f
  ease s f x _ h hx := h.setFd f (hx.hunt (h f))
  culprit s f k _ h _ := h.setFd f (Feeder.huntSound_setRecord (h f) k _)
  chooseTarget s f _ h ht := State.each_huntSound_chooseTarget (fun g _ => h g) ((h f).hunting ht).1 ((h f).hunting ht).2
  beginStray s f _ h _ := by
    unfold State.beginStray State.startHunt
    refine State.each_huntSound_chooseTarget (fun g e => ?_) ?_ ?_
    · rw [State.fd_modFd_of_ne _ _ _ _ e, State.fd_raise, State.fd_modFd_of_ne _ _ _ _ e]; exact h g
    · rw [State.fd_modFd]
    · rw [State.fd_modFd, State.fd_raise, State.fd_modFd]; rfl
  eject s f k n reason _ h _ _ := State.huntsSound_eject (h.setFd f (Feeder.huntSound_setRecord (h f) k _)) k reason
  bar s n h _ := (h.of_fd (t := { s with bars := addBar s.bars n s.barHold }) fun f => by cases f <;> rfl).dropArrivals
    (fun _ _ h => { h with }) n
  join s f a _ h _ _ := h.setFd f { h f with }
  name s f k a link p _ h _ _ _ _ _ :=
    ((h.setFd f (Feeder.huntSound_setRecord (h f) k _)).link link).2 f k |>.dropArrivals (fun _ _ h => { h with }) a.serial
  tearDown s f k _ h _ := by
    have h1 := (h.link (s.record f k).planLink).1
    refine h1.setFd f ?_
    have h2 := Feeder.huntSound_setRecord (fd := Feeder.removeMessages ((s.releaseLink (s.record f k).planLink).fd f) k)
      { h1 f with } k freeRecord
    exact { h2 with }
  windows s ws h _ _ := h.of_fd fun f => by cases f <;> rfl
  addWindow s f n w _ h := h.of_fd fun g => by cases g <;> rfl
  award s a l h := h.of_fd fun f => by cases f <;> rfl

theorem Feeder.huntSound_reset (x : Settings) (w : Watch) (l : Option LineCycle) :
    Feeder.HuntSound { resetFeeder with settings := x, watch := w, line := l } :=
  ⟨⟨fun _ => rfl, fun _ => rfl⟩, ⟨nofun, nofun⟩, rfl, ⟨nofun, nofun⟩⟩

theorem keepsSettings_huntSound : KeepsSettings (fun _ => True) Feeder.HuntSound where
  settings _ _ _ _ h _ := { h with }
  tally _ _ h := { h with }
  clear _ h := { h with }
  watch _ _ h := { h with }
  opens _ h := { h with }
  close fd := Feeder.huntSound_reset fd.settings fd.watch fd.line

/-- Settles O55: a target is chosen only while STRAY is set and the hunt hunts (`Feeder.HuntSound.hunting`). -/
theorem huntRecordsKeptSound : Obligations.HuntRecordsKeptSound := fun _ _ hs e =>
  State.Each.step keeps_huntSound keepsSettings_huntSound
    (Feeder.huntSound_reset resetFeeder.settings resetFeeder.watch resetFeeder.line) hs e

end Sys2Proof.Machine

/-! PROOFS. Capacities, emptied CLOSED feeders and the delay law: properties of each feeder beside one of the whole state. -/
namespace Sys2Proof.Machine

open Sys2Proof

/-! ## Capacities -/

/-- The shared collections lie within their capacities (R22, R60, R176, R196). -/
structure State.SharedBounded (s : State) : Prop where
  windows : s.windows.length ≤ 2
  bars : s.bars.length ≤ 32
  upBuffer : s.upBuffer.length ≤ 128
  mgmtBuffer : s.mgmtBuffer.length ≤ 8
  replies : s.replies.length ≤ 16
  notices : s.notices.length ≤ 64

theorem State.bounded_iff (s : State) : s.Bounded ↔ s.SharedBounded ∧ s.Each Feeder.Bounded :=
  ⟨fun h => ⟨{ h with }, h.feeders⟩, fun h => { h.1 with feeders := h.2 }⟩

theorem State.SharedBounded.of_eq {s t : State} (h : s.SharedBounded) (hw : t.windows = s.windows) (hb : t.bars = s.bars)
    (hu : t.upBuffer = s.upBuffer) (hm : t.mgmtBuffer = s.mgmtBuffer) (hr : t.replies = s.replies)
    (hn : t.notices = s.notices) : t.SharedBounded :=
  ⟨hw ▸ h.windows, hb ▸ h.bars, hu ▸ h.upBuffer, hm ▸ h.mgmtBuffer, hr ▸ h.replies, hn ▸ h.notices⟩

theorem State.SharedBounded.modFd {s : State} (h : s.SharedBounded) (f : FeederId) (g : Feeder → Feeder) :
    (s.modFd f g).SharedBounded :=
  h.of_eq (by simp) (by simp) (by simp) (by simp) (by simp) (by simp)

theorem State.SharedBounded.links {s : State} (h : s.SharedBounded) (link : Option Nat) :
    (s.releaseLink link).SharedBounded ∧ ∀ f k, (s.takeLink link f k).SharedBounded := by
  refine ⟨?_, fun f k => ?_⟩
  · unfold State.releaseLink; split <;> exact { h with }
  · unfold State.takeLink; split <;> exact { h with }

theorem State.SharedBounded.releaseLinks (l : List Record) :
    ∀ s : State, s.SharedBounded → (l.foldl (fun t r => t.releaseLink r.planLink) s).SharedBounded := by
  induction l with
  | nil => exact fun _ h => h
  | cons r l ih => exact fun s h => ih _ (h.links r.planLink).1

theorem State.Housekept.sharedBounded {s t : State} (e : s.Housekept t) (h : s.SharedBounded) : t.SharedBounded where
  windows := e.windows ▸ h.windows
  bars := by rw [e.rest]; exact h.bars
  upBuffer := e.upBuffer h.upBuffer
  mgmtBuffer := e.mgmtBuffer h.mgmtBuffer
  replies := e.replies h.replies
  notices := e.notices h.notices

theorem State.SharedBounded.raise {s : State} (h : s.SharedBounded) (k : NoticeKind) (n : NoticeFields) :
    (s.raise k n).SharedBounded := by
  rcases s.raise_cases k n with ⟨-, e⟩ | ⟨-, hlt, e⟩ | ⟨-, -, e⟩ <;> rw [e]
  · exact h
  · exact { h with notices := by simpa using Nat.succ_le_of_lt hlt }
  · exact { h with }

theorem keepsCoarse_sharedBounded : KeepsCoarse (fun _ => True) State.SharedBounded where
  setFd _ f x _ h := h.modFd f fun _ => x
  raise _ k n h := h.raise k n
  bar _ _ h := { h with bars := length_addBar _ _ _ h.bars }
  dropArrivals _ _ h := { h with }
  takeLink _ link f k h := (h.links link).2 f k
  releaseLink _ link h := (h.links link).1
  windows _ _ h hl := { h with windows := hl.elim (fun e => e.trans h.windows) id }
  award _ _ _ h := { h with }

theorem keepsSteps_sharedBounded : KeepsSteps (fun _ => True) (fun _ _ => True) (fun _ _ _ => True) (fun _ => True)
    State.SharedBounded State.SharedBounded :=
  { keepsCoarse_sharedBounded.keeps with
    sound := fun _ => id
    service := fun _ _ h e => e.housekept.sharedBounded h
    settings := fun _ f _ h _ => h.modFd f _
    tally := fun _ f _ h => h.modFd f _
    clear := fun _ f h => h.modFd f _
    watch := fun _ f _ h => h.modFd f _
    opens := fun _ f h _ => h.modFd f _
    close := fun s f _ h => by
      have h1 := State.SharedBounded.releaseLinks (s.fd f).table.toList s h
      unfold State.closeFeeder
      refine State.SharedBounded.modFd ?_ f _
      exact ⟨(List.length_filter_le _ _).trans h1.windows, h1.bars, h1.upBuffer, h1.mgmtBuffer, h1.replies, h1.notices⟩
    rewrite := fun _ _ _ _ _ _ h _ _ _ => { h with }
    erase := fun _ _ h _ _ _ => { h with }
    barHold := fun _ _ h _ _ => { h with }
    unbar := fun _ _ h hl => { h with bars := hl.length_le.trans h.bars }
    forward := fun _ _ h hu => { h with upBuffer := by simpa using Nat.succ_le_of_lt hu }
    trunk := fun _ _ h e => e.sharedBounded h
    reply := fun _ _ h e => e.sharedBounded h
    tickBars := fun _ h => { h with
      bars := (List.length_filter_le _ _).trans (by rw [List.length_map]; exact h.bars) } }

theorem Feeder.bounded_setRecord {fd : Feeder} (h : fd.Bounded) (k : Nat) (r : Record) : (fd.setRecord k r).Bounded := by
  rw [Feeder.setRecord_eq]; exact { h with }

theorem keepsFeeder_bounded : KeepsFeeder (fun _ _ => True) (fun _ _ => True) Feeder.Bounded where
  fits _ _ _ := trivial
  names _ _ _ := trivial
  tells fd _ := fd.says_true
  arrival _ _ _ _ := trivial
  soften _ _ h hx := hx.bounded h
  culprit _ k h _ := Feeder.bounded_setRecord h k _
  retarget _ _ h _ := { h with }
  ejectFor _ k _ _ h _ _ _ := Feeder.bounded_setRecord h k _
  join _ _ h _ hl := { h with arrivals := by simpa using Nat.succ_le_of_lt hl }
  name _ k _ _ _ h _ _ := Feeder.bounded_setRecord h k _
  tearDown fd k h _ :=
    have h1 : (fd.removeMessages k).Bounded :=
      { h with
        ordinary := (List.length_filter_le _ _).trans h.ordinary
        queue := (Nat.add_le_add (List.length_filter_le _ _) (List.length_filter_le _ _)).trans h.queue }
    { Feeder.bounded_setRecord h1 k freeRecord with }

theorem Feeder.bounded_reset (x : Settings) (w : Watch) (l : Option LineCycle) :
    Feeder.Bounded { resetFeeder with settings := x, watch := w, line := l } :=
  ⟨Nat.zero_le _, Nat.zero_le _, Nat.zero_le _, Nat.zero_le _, Nat.zero_le _, Nat.zero_le _, Nat.zero_le _, nofun, nofun⟩

theorem keepsSettings_bounded : KeepsSettings State.SharedBounded Feeder.Bounded where
  settings _ _ _ _ h _ := { h with }
  tally _ _ h := { h with }
  clear _ h := { h with }
  watch _ _ h := { h with }
  opens _ h := { h with }
  close fd := Feeder.bounded_reset fd.settings fd.watch fd.line

theorem State.bounded_heldReset (l : List Instr) (phase : Phase) (pins : Pins) (sent : Option TrunkSent) :
    (State.heldReset l phase pins sent).Bounded :=
  (State.bounded_iff _).mpr ⟨⟨Nat.zero_le _, Nat.zero_le _, Nat.zero_le _, Nat.zero_le _, Nat.zero_le _, Nat.zero_le _⟩,
    fun f => by cases f <;> exact Feeder.bounded_reset resetFeeder.settings resetFeeder.watch resetFeeder.line⟩

/-- Settles O53: each list grows only where its length was compared with its capacity. -/
theorem capacitiesKept : Obligations.CapacitiesKept := fun _ _ hs e => by
  refine step_keeps (Q := State.Bounded) (fun s l h => ?_) (fun l phase pins sent t h => ?_) (fun s t i h hr e => ?_) hs e
  · obtain ⟨h1, h2⟩ := (State.bounded_iff s).mp h
    exact (State.bounded_iff _).mpr ⟨{ h1 with }, h2.of_fd fun f => by cases f <;> rfl⟩
  · obtain ⟨h1, h2⟩ := (State.bounded_iff _).mp (State.bounded_heldReset l phase pins sent)
    exact (State.bounded_iff t).mpr ⟨h.sharedBounded h1, h2.of_fd h.fd⟩
  · rw [State.bounded_iff] at h ⊢
    exact (keepsSettings_bounded.steps (keepsFeeder_bounded.keeps _) keepsSteps_sharedBounded).exec h
      (fun _ => .inl trivial) (fun _ _ => trivial) hr e

/-! ## CLOSED feeders (R39, R60) -/

/-- The feeders of `L` are not CLOSED, and what is CLOSED is emptied and has no window record. -/
structure State.AwakeSound (L : FeederId → Prop) (s : State) : Prop where
  awake : ∀ f, L f → (s.fd f).state ≠ .closed
  sound : s.ClosedSound

section

variable {L : FeederId → Prop} {s t : State} {f : FeederId}

theorem State.AwakeSound.of_fd (h : s.AwakeSound L) (hfd : ∀ g, t.fd g = s.fd g)
    (hw : ∀ w ∈ t.windows, ∃ v ∈ s.windows, v.feeder = w.feeder) : t.AwakeSound L where
  awake g hg := by rw [hfd]; exact h.awake g hg
  sound g hg := by
    rw [hfd] at hg ⊢
    obtain ⟨h1, h2⟩ := h.sound g hg
    refine ⟨h1, fun w hw' e => ?_⟩
    obtain ⟨v, hv, ev⟩ := hw w hw'
    exact h2 v hv (ev.trans e)

theorem State.windows_same (s : State) : ∀ w ∈ s.windows, ∃ v ∈ s.windows, v.feeder = w.feeder := fun w hw => ⟨w, hw, rfl⟩

/-- A feeder that is not CLOSED written by one that is not. -/
theorem State.AwakeSound.setFd (h : s.AwakeSound L) {x : Feeder} (hx : x.state ≠ .closed) :
    (s.setFd f x).AwakeSound L where
  awake g hg := by
    by_cases e : g = f
    · rw [e, State.fd_setFd]; exact hx
    · rw [State.fd_setFd_of_ne s f g x e]; exact h.awake g hg
  sound g hg := by
    have e : g ≠ f := fun e => by rw [e, State.fd_setFd] at hg; exact hx hg
    rw [State.fd_setFd_of_ne s f g x e] at hg ⊢
    rw [State.setFd_windows]
    exact h.sound g hg

/-- Any feeder written by one of the same state, emptied when that was. -/
theorem State.AwakeSound.setFd_same (h : s.AwakeSound L) {x : Feeder} (hs : x.state = (s.fd f).state)
    (he : (s.fd f).Emptied → x.Emptied) : (s.setFd f x).AwakeSound L where
  awake g hg := by
    by_cases e : g = f
    · rw [e, State.fd_setFd, hs]; exact h.awake f (e ▸ hg)
    · rw [State.fd_setFd_of_ne s f g x e]; exact h.awake g hg
  sound g hg := by
    rw [State.setFd_windows]
    by_cases e : g = f
    · rw [e, State.fd_setFd] at hg ⊢
      rw [hs] at hg
      exact ⟨he (h.sound f hg).1, (h.sound f hg).2⟩
    · rw [State.fd_setFd_of_ne s f g x e] at hg ⊢
      exact h.sound g hg

theorem State.AwakeSound.links (h : s.AwakeSound L) (link : Option Nat) :
    (s.releaseLink link).AwakeSound L ∧ ∀ g k, (s.takeLink link g k).AwakeSound L := by
  refine ⟨?_, fun g k => ?_⟩
  · unfold State.releaseLink
    split
    · exact h
    · exact h.of_fd (fun _ => State.fd_setPlan ..) s.windows_same
  · unfold State.takeLink
    split
    · exact h
    · exact h.of_fd (fun _ => State.fd_setPlan ..) s.windows_same

theorem Feeder.Emptied.dropArrival {fd : Feeder} (h : fd.Emptied) (n : Serial) : (fd.dropArrival n).Emptied := by
  have hn : fd.arrivals = [] := h.arrivals
  have e : fd.dropArrival n = fd := by unfold Feeder.dropArrival; rw [hn, List.filter_nil, ← hn]
  rw [e]
  exact h

theorem State.AwakeSound.dropArrivals (h : s.AwakeSound L) (n : Serial) : (s.dropArrivals n).AwakeSound L :=
  (h.setFd_same (f := .A) (x := s.feederA.dropArrival n) rfl fun e => e.dropArrival n).setFd_same (f := .B)
    (x := s.feederB.dropArrival n) rfl fun e => Feeder.Emptied.dropArrival (fd := s.feederB) e n

theorem keepsCore_awakeSound (L : FeederId → Prop) :
    KeepsCore L (fun _ _ => True) (fun _ _ _ => True) (State.AwakeSound L) where
  fits _ _ _ := trivial
  names _ _ _ _ := trivial
  tells s f _ := (s.fd f).says_true
  arrival _ _ _ _ _ := trivial
  raise s k n h := h.of_fd (fun f => s.fd_raise k n f) (by rw [State.raise_windows]; exact s.windows_same)
  soften s f x hL h hx := h.setFd (hx.notClosed (h.awake f hL))
  culprit s f k hL h _ := h.setFd (by rw [Feeder.modRecord_state]; exact h.awake f hL)
  retarget s f k hL h _ := h.setFd (h.awake f hL)
  ejectFor s f k n r hL h _ _ _ := h.setFd (by rw [Feeder.modRecord_state]; exact h.awake f hL)
  bar s n h _ := State.AwakeSound.dropArrivals
    (h.of_fd (t := { s with bars := addBar s.bars n s.barHold }) (fun f => by cases f <;> rfl) s.windows_same) n
  join s f a hL h _ _ := h.setFd (h.awake f hL)
  name s f k a link p hL h _ _ _ _ _ :=
    ((h.setFd (f := f) (x := (s.fd f).setRecord k (a.record link p))
      (by rw [Feeder.setRecord_state]; exact h.awake f hL)).links link).2 f k |>.dropArrivals a.serial
  tearDown s f k hL h _ := by
    have h1 := (h.links (s.record f k).planLink).1
    refine h1.setFd ?_
    show (Feeder.setRecord _ k freeRecord).state ≠ .closed
    rw [Feeder.setRecord_state]
    exact h1.awake f hL
  windows s ws h _ hw := h.of_fd (fun f => by cases f <;> rfl) hw
  addWindow s f n w hL h :=
    { awake := fun g hg => by cases g <;> exact h.awake _ hg
      sound := fun g hg => by
        have hg' : (s.fd g).state = .closed := by cases g <;> exact hg
        have hne : g ≠ f := fun e => h.awake f hL (e ▸ hg')
        obtain ⟨h1, h2⟩ := h.sound g hg'
        refine ⟨by cases g <;> exact h1, fun v hv => ?_⟩
        rcases List.mem_append.mp (mem_of_mem_lastTwo hv) with hv | hv
        · exact h2 v hv
        · rw [List.mem_singleton.mp hv]; exact hne.symm }
  award s a l h := h.of_fd (fun f => by cases f <;> rfl) s.windows_same

theorem State.ClosedSound.of_fd (h : s.ClosedSound) (hfd : ∀ g, t.fd g = s.fd g)
    (hw : ∀ w ∈ t.windows, ∃ v ∈ s.windows, v.feeder = w.feeder) : t.ClosedSound :=
  (State.AwakeSound.of_fd (L := fun _ => False) ⟨fun _ => False.elim, h⟩ hfd hw).sound

theorem State.releaseLinks_windows (l : List Record) :
    ∀ s : State, (l.foldl (fun t r => t.releaseLink r.planLink) s).windows = s.windows := by
  induction l with
  | nil => exact fun _ => rfl
  | cons r l ih =>
    intro s
    rw [List.foldl_cons, ih]
    unfold State.releaseLink
    split <;> rfl

/-- A close empties its feeder and takes its window records (R39, R60). -/
theorem State.ClosedSound.closeFeeder (h : s.ClosedSound) (f : FeederId) : (s.closeFeeder f).ClosedSound := by
  obtain ⟨h1, h2⟩ := s.fd_closeFeeder f
  have hw : (s.closeFeeder f).windows = s.windows.filter fun w => decide (w.feeder ≠ f) := by
    unfold State.closeFeeder
    rw [State.modFd_windows]
    exact congrArg _ (State.releaseLinks_windows _ s)
  intro g hg
  rw [hw]
  by_cases e : g = f
  · rw [e, h1]
    exact ⟨rfl, fun w hm => of_decide_eq_true (List.mem_filter.mp hm).2⟩
  · have e : g = f.other := by cases g <;> cases f <;> simp_all [FeederId.other]
    rw [e, h2] at hg ⊢
    obtain ⟨he, hn⟩ := h _ hg
    exact ⟨he, fun w hm => hn w (List.mem_filter.mp hm).1⟩

theorem State.Housekept.awakeSound (e : s.Housekept t) (h : s.AwakeSound L) : t.AwakeSound L :=
  h.of_fd e.fd (by rw [e.windows]; exact s.windows_same)

theorem State.Housekept.closedSound (e : s.Housekept t) (h : s.ClosedSound) : t.ClosedSound :=
  h.of_fd e.fd (by rw [e.windows]; exact s.windows_same)

theorem keepsSteps_awakeSound (L : FeederId → Prop) : KeepsSteps L (fun _ _ => True) (fun _ _ _ => True) (fun _ => True)
    (State.AwakeSound L) State.ClosedSound :=
  { (keepsCore_awakeSound L).keeps with
    sound := fun _ h => h.sound
    service := fun _ _ h e => e.housekept.awakeSound h
    settings := fun _ _ _ h _ => h.setFd_same rfl fun e => by
      unfold Feeder.Emptied at e ⊢; rw [e]
    tally := fun _ _ _ h => h.setFd_same rfl fun e => by
      unfold Feeder.Emptied at e ⊢; rw [e]
    clear := fun _ _ h => h.setFd_same rfl fun e => by
      unfold Feeder.Emptied at e ⊢; rw [e]; rfl
    watch := fun _ _ _ h => h.setFd_same rfl fun e => by
      unfold Feeder.Emptied at e ⊢; rw [e]
    opens := fun _ _ h _ => h.setFd (by simp)
    close := fun _ f _ h => h.sound.closeFeeder f
    rewrite := fun s _ _ _ _ _ h _ _ _ => h.of_fd (fun _ => State.fd_setPlan ..) s.windows_same
    erase := fun s _ h _ _ _ => h.of_fd (fun _ => State.fd_setPlan ..) s.windows_same
    barHold := fun s _ h _ _ => h.of_fd (fun f => by cases f <;> rfl) s.windows_same
    unbar := fun s _ h _ => h.of_fd (fun f => by cases f <;> rfl) s.windows_same
    forward := fun s _ h _ => h.of_fd (fun f => by cases f <;> rfl) s.windows_same
    trunk := fun _ _ h e => e.awakeSound h
    reply := fun _ _ h e => e.closedSound h
    tickBars := fun s h => h.of_fd (fun f => by cases f <;> rfl) s.windows_same }

/-- The feeders that are not CLOSED. -/
def State.Open (s : State) (f : FeederId) : Prop := (s.fd f).state ≠ .closed

theorem State.ClosedSound.awakeSound (h : s.ClosedSound) : s.AwakeSound s.Open := ⟨fun _ => id, h⟩

theorem State.ClosedSound.awake (h : s.ClosedSound) : s.Awake s.Open := fun f => by
  by_cases e : (s.fd f).state = .closed
  · exact .inr ⟨e, (h f e).1, (h f e).2⟩
  · exact .inl e

theorem State.closedSound_heldReset (l : List Instr) (phase : Phase) (pins : Pins) (sent : Option TrunkSent) :
    (State.heldReset l phase pins sent).ClosedSound := fun f _ => ⟨by cases f <;> rfl, nofun⟩

end

/-- Settles O56: no event finds anything in a CLOSED feeder (`State.Dormant.exec`), and a close empties its feeder. -/
theorem closedFeedersKeptEmpty : Obligations.ClosedFeedersKeptEmpty := fun _ _ hs e =>
  step_keeps (Q := State.ClosedSound) (fun s _ h => h.of_fd (fun f => by cases f <;> rfl) s.windows_same)
    (fun l phase pins sent _ h => h.closedSound (State.closedSound_heldReset l phase pins sent))
    (fun s _ _ h hr e => (keepsSteps_awakeSound s.Open).exec h.awakeSound h.awake (fun _ _ => trivial) hr e) hs e

/-! ## The delay law (R106) -/

/-- Every delay of the feeder lies within the reach it is set to. -/
def Feeder.DelaysReach (fd : Feeder) : Prop := fd.DelaysWithin fd.settings.reach.span

theorem Feeder.DelaysWithin.record {fd : Feeder} {z : Nat} (h : fd.DelaysWithin z) (k : Nat) : (fd.record k).eqd ≤ z :=
  (Feeder.forall_record (Nat.zero_le _)).mp h.records k

theorem Feeder.DelaysWithin.owedBy {fd : Feeder} {z : Nat} (h : fd.DelaysWithin z) (k : Nat) :
    ∀ m, (fd.record k).owed = some m → ∀ d, m.delay? = some d → d ≤ z :=
  (Feeder.forall_record (p := fun r => ∀ m, r.owed = some m → ∀ d, m.delay? = some d → d ≤ z) nofun).mp h.owed k

theorem Feeder.delaysWithin_setRecord {fd : Feeder} {z : Nat} (h : fd.DelaysWithin z) (k : Nat) {r : Record}
    (hr : r.eqd ≤ z) (ho : ∀ m, r.owed = some m → ∀ d, m.delay? = some d → d ≤ z) :
    (fd.setRecord k r).DelaysWithin z where
  records := (Feeder.forall_record (Nat.zero_le _)).mpr
    (Feeder.forall_record_setRecord (p := fun r => r.eqd ≤ z) h.record hr)
  owed := (Feeder.forall_record (p := fun r => ∀ m, r.owed = some m → ∀ d, m.delay? = some d → d ≤ z) nofun).mpr
    (Feeder.forall_record_setRecord (p := fun r => ∀ m, r.owed = some m → ∀ d, m.delay? = some d → d ≤ z) h.owedBy ho)
  arrivals := by rw [Feeder.setRecord_arrivals]; exact h.arrivals
  queued := by rw [Feeder.setRecord_urgent, Feeder.setRecord_ordinary]; exact h.queued

theorem Feeder.delaysReach_setRecord {fd : Feeder} (h : fd.DelaysReach) (k : Nat) {r : Record}
    (hr : r.eqd ≤ fd.settings.reach.span) (ho : ∀ m, r.owed = some m → ∀ d, m.delay? = some d → d ≤ fd.settings.reach.span) :
    (fd.setRecord k r).DelaysReach := by
  unfold Feeder.DelaysReach
  rw [Feeder.setRecord_settings]
  exact Feeder.delaysWithin_setRecord h k hr ho

/-- A message whose delay lies within the reach. -/
def Msg.DelayReaches (x : Settings) (m : Msg) : Prop := ∀ d, m.delay? = some d → d ≤ x.reach.span

theorem keepsFeeder_delaysReach :
    KeepsFeeder Msg.DelayReaches (fun x a => a.measured.eqd ≤ x.reach.span) Feeder.DelaysReach where
  fits _ _ h := h.delay
  names _ _ h := by rintro _ ⟨⟩; exact h
  tells _ h := ⟨h.queued, h.owedBy⟩
  arrival _ _ h ha := h.arrivals _ ha
  soften fd x h hx := by
    unfold Feeder.DelaysReach
    rw [hx.settings]
    exact
      { records := (Feeder.forall_record (Nat.zero_le _)).mpr fun k => by
          rcases (hx.records k).eqd with e | ⟨m, hm, e⟩
          · rw [e]; exact h.record k
          · exact hm _ e
        owed := (Feeder.forall_record
            (p := fun r => ∀ m, r.owed = some m → ∀ d, m.delay? = some d → d ≤ fd.settings.reach.span) nofun).mpr
          fun k m hm => ((hx.records k).owed m hm).elim (h.owedBy k m) id
        arrivals := fun a ha => by
          rcases hx.measured a ha with ⟨b, hb, -, e⟩ | e
          · rw [← e]; exact h.arrivals b hb
          · exact e.eqd
        queued := fun q hq => (hx.queued q hq).elim (h.queued q) id }
  culprit _ k h _ := Feeder.delaysReach_setRecord h k (h.record k) (h.owedBy k)
  retarget _ _ h _ := { h with }
  ejectFor _ k _ _ h _ _ _ := Feeder.delaysReach_setRecord h k (h.record k) nofun
  join _ _ h hm _ := { h with
    arrivals := fun b hb => by
      rcases List.mem_append.mp hb with hb | hb
      · exact h.arrivals b hb
      · rw [List.mem_singleton.mp hb]; exact hm.eqd }
  name _ k _ _ _ h hA _ := Feeder.delaysReach_setRecord h k hA nofun
  tearDown fd k h _ :=
    have h1 : (fd.removeMessages k).DelaysReach :=
      { h with
        queued := fun q hq => h.queued q ((List.filter_sublist.append List.filter_sublist).subset hq) }
    { Feeder.delaysReach_setRecord h1 k (r := freeRecord) (Nat.zero_le _) nofun with }

theorem Feeder.Emptied.delaysWithin {fd : Feeder} (h : fd.Emptied) (z : Nat) : fd.DelaysWithin z where
  records := (Feeder.forall_record (Nat.zero_le _)).mpr fun k => by rw [h.record k]; exact Nat.zero_le _
  owed := (Feeder.forall_record (p := fun r => ∀ m, r.owed = some m → ∀ d, m.delay? = some d → d ≤ z) nofun).mpr
    fun k => by rw [h.record k]; exact nofun
  arrivals := by rw [h.arrivals]; exact nofun
  queued := by
    have e : fd.urgent ++ fd.ordinary = [] := by
      rw [show fd.urgent = [] from (have e := congrArg Feeder.urgent h.eq; e),
        show fd.ordinary = [] from (have e := congrArg Feeder.ordinary h.eq; e)]
      rfl
    rw [e]
    exact nofun

theorem keepsSettings_delaysReach (L : FeederId → Prop) : KeepsSettings (State.AwakeSound L) Feeder.DelaysReach where
  settings s f x hc h e := by
    rcases e with e | e
    · show Feeder.DelaysWithin _ x.reach.span
      rw [e]
      exact { h with }
    · exact { (hc.sound f e).1.delaysWithin x.reach.span with }
  tally _ _ h := { h with }
  clear _ h := { h with }
  watch _ _ h := { h with }
  opens _ h := { h with }
  close fd := Feeder.Emptied.delaysWithin (fd := fd.close) rfl _

/-- Settles O59: every delay written is clamped to the reach (`delayOf_le`), and REACH is written on an emptied feeder. -/
theorem delaysKeptWithinReach : Obligations.DelaysKeptWithinReach := fun _ _ hs e => by
  refine step_keeps (Q := fun s => s.ClosedSound ∧ s.Each Feeder.DelaysReach) (fun s l h => ?_)
    (fun l phase pins sent t h => ?_) (fun s t i h hr e => ?_) hs e
  · exact ⟨h.1.of_fd (fun f => by cases f <;> rfl) s.windows_same, h.2.of_fd fun f => by cases f <;> rfl⟩
  · have hc := State.closedSound_heldReset l phase pins sent
    refine ⟨h.closedSound hc, State.Each.of_fd (s := State.heldReset l phase pins sent) (fun f => ?_) h.fd⟩
    exact (hc f (by cases f <;> rfl)).1.delaysWithin _
  · exact ((keepsSettings_delaysReach s.Open).steps (keepsFeeder_delaysReach.keeps _) (keepsSteps_awakeSound s.Open)).exec
      ⟨h.1.awakeSound, h.2⟩ h.1.awake (fun _ _ => trivial) hr e

end Sys2Proof.Machine

/-! PROOFS. Serials, bars, arrivals, claims and admit counts: what every step keeps of the identities of terminals. -/
namespace Sys2Proof.Machine

open Sys2Proof

/-! ## Counting links (R75) -/

/-- The records of a feeder that are linked to a plan entry. -/
def Feeder.linksTo (fd : Feeder) (i : Nat) : Nat := fd.table.toList.countP fun r => decide (r.planLink = some i)

theorem State.linksTo_eq (s : State) (f : FeederId) (i : Nat) :
    s.linksTo i = (s.fd f).linksTo i + (s.fd f.other).linksTo i := by
  unfold State.linksTo Feeder.linksTo
  rw [List.countP_append]
  cases f
  · rfl
  · exact Nat.add_comm _ _

theorem Feeder.table_ext {a b : Feeder} {p : Record → Option Nat} (h : ∀ k, p (b.record k) = p (a.record k)) :
    b.table.toList.map p = a.table.toList.map p := by
  refine List.ext_getElem (by simp) fun j h1 h2 => ?_
  have hj : j < 255 := by simpa using h1
  have := h (j + 1)
  simpa [Feeder.record, hj] using this

theorem Feeder.linksTo_congr {a b : Feeder} (h : ∀ k, (b.record k).planLink = (a.record k).planLink) (i : Nat) :
    b.linksTo i = a.linksTo i := by
  have e := Feeder.table_ext h
  have hc : ∀ fd : Feeder, fd.linksTo i = (fd.table.toList.map (·.planLink)).countP fun l => decide (l = some i) :=
    fun fd => by rw [List.countP_map]; rfl
  rw [hc, hc, e]

/-- The number of links once the record of a handle is written. -/
theorem Feeder.linksTo_setRecord (fd : Feeder) {h : Nat} (h1 : 1 ≤ h) (h2 : h ≤ 255) (r : Record) (i : Nat) :
    (fd.setRecord h r).linksTo i + (if (fd.record h).planLink = some i then 1 else 0) =
      fd.linksTo i + if r.planLink = some i then 1 else 0 := by
  have hlt : h - 1 < fd.table.toList.length := by simp; omega
  have hk : h - 1 < 255 := by omega
  have hset : (fd.setRecord h r).table.toList = fd.table.toList.set (h - 1) r := by
    unfold Feeder.setRecord
    rw [if_neg (by omega)]
    simp
  have hrec : fd.table.toList[h - 1] = fd.record h := by
    simp [Feeder.record, hk, show h ≠ 0 by omega]
  have hpos : (if (fd.record h).planLink = some i then 1 else 0) ≤ fd.linksTo i := by
    split
    · next e =>
      exact List.countP_pos_iff.mpr ⟨fd.record h, (fd.mem_table _).mpr ⟨h, h1, h2, rfl⟩, decide_eq_true e⟩
    · exact Nat.zero_le _
  unfold Feeder.linksTo at hpos ⊢
  rw [hset, List.countP_set hlt, hrec]
  simp only [decide_eq_true_eq]
  omega

theorem Feeder.exists_of_linksTo {fd : Feeder} {i : Nat} (h : fd.linksTo i ≠ 0) :
    ∃ k, 1 ≤ k ∧ k ≤ 255 ∧ (fd.record k).planLink = some i := by
  obtain ⟨r, hr, e⟩ := List.countP_pos_iff.mp (Nat.pos_of_ne_zero h)
  obtain ⟨k, h1, h2, rfl⟩ := (fd.mem_table r).mp hr
  exact ⟨k, h1, h2, of_decide_eq_true e⟩

theorem Feeder.linksTo_ne_zero {fd : Feeder} {i k : Nat} (h : (fd.record k).planLink = some i) : fd.linksTo i ≠ 0 := by
  have hb : 1 ≤ k ∧ k ≤ 255 := by
    by_contra hb
    rw [Feeder.record_of_out fd k (by omega)] at h
    cases h
  exact Nat.pos_iff_ne_zero.mp (List.countP_pos_iff.mpr ⟨_, (fd.mem_table _).mpr ⟨k, hb.1, hb.2, rfl⟩, decide_eq_true h⟩)

theorem State.exists_of_linksTo {s : State} {i : Nat} (h : s.linksTo i ≠ 0) : ∃ f k, (s.record f k).planLink = some i := by
  rw [State.linksTo_eq s .A i] at h
  by_cases ha : (s.fd .A).linksTo i = 0
  · obtain ⟨k, -, -, e⟩ := Feeder.exists_of_linksTo (fd := s.fd .B) (i := i) fun hb => h (by
      rw [ha, Nat.zero_add]; exact hb)
    exact ⟨.B, k, e⟩
  · obtain ⟨k, -, -, e⟩ := Feeder.exists_of_linksTo ha
    exact ⟨.A, k, e⟩

theorem State.linksTo_ne_zero {s : State} {f : FeederId} {i k : Nat} (h : (s.record f k).planLink = some i) :
    s.linksTo i ≠ 0 := by
  have := Feeder.linksTo_ne_zero (fd := s.fd f) h
  rw [State.linksTo_eq s f i]
  omega

/-! ## Updates that move no terminal -/

/-- The same terminal, active or not as before. -/
structure Record.SameTerminal (r q : Record) : Prop extends r.SameHolder q where
  active : q.state.active = r.state.active

theorem Record.SameTerminal.refl (r : Record) : r.SameTerminal r := ⟨⟨rfl, rfl, rfl⟩, rfl⟩

theorem RecState.eq_free_iff (x : RecState) : x = .free ↔ x.live = false := by cases x <;> simp [RecState.live]

theorem RecState.eq_ejected_iff (x : RecState) : x = .ejected ↔ x.live = true ∧ x.active = false := by
  cases x <;> simp [RecState.live, RecState.active]

theorem State.isBarred_iff (s : State) (n : Serial) : s.isBarred n = true ↔ ∃ b ∈ s.bars, b.serial = n := by
  simp [State.isBarred]

/-- Records of the same terminals, an active one perhaps ejected; arrivals fewer, bars fewer, the plan as it was. -/
theorem State.IdentitiesSound.of_same {s t : State} (h : s.IdentitiesSound)
    (hrec : ∀ f k, (s.record f k).SameHolder (t.record f k))
    (hejected : ∀ f k, (s.record f k).state = .ejected → (t.record f k).state = .ejected)
    (harr : ∀ f, ((t.fd f).arrivals.map (·.serial)).Sublist ((s.fd f).arrivals.map (·.serial)))
    (hbars : ∀ n, t.isBarred n = true → s.isBarred n = true) (hplan : t.plan = s.plan)
    (htarget : ∀ f, (t.fd f).TargetActive) : t.IdentitiesSound := by
  have hplanAt : ∀ i, t.planAt i = s.planAt i := fun i => by unfold State.planAt; rw [hplan]
  have hholds : ∀ {f k n}, t.holds f k n → s.holds f k n := fun {f k n} hh =>
    ⟨(hrec f k).live ▸ hh.1, (hrec f k).serial ▸ hh.2⟩
  have hlinks : ∀ i, t.linksTo i = s.linksTo i := fun i => by
    rw [State.linksTo_eq t .A i, State.linksTo_eq s .A i,
      Feeder.linksTo_congr (a := s.fd .A) (b := t.fd .A) (fun k => (hrec .A k).planLink) i,
      Feeder.linksTo_congr (a := s.fd (.other .A)) (b := t.fd (.other .A)) (fun k => (hrec .B k).planLink) i]
  exact
    { freed := fun f k e => by
        rw [RecState.eq_free_iff, (hrec f k).live, ← RecState.eq_free_iff] at e
        rw [(hrec f k).serial, (hrec f k).planLink]
        exact h.freed f k e
      target := htarget
      unique := fun f k g j n h1 h2 => h.unique f k g j n (hholds h1) (hholds h2)
      barred := fun f k n hb hh => hejected f k (h.barred f k n (hbars n hb) (hholds hh))
      distinct := fun f => (h.distinct f).sublist (harr f)
      arrivals := fun f a ha => by
        obtain ⟨b, hb, e⟩ := List.mem_map.mp ((harr f).subset (List.mem_map.mpr ⟨a, ha, rfl⟩))
        obtain ⟨h1, h2⟩ := h.arrivals f b hb
        rw [e] at h1 h2
        refine ⟨Bool.eq_false_iff.mpr fun hn => ?_, fun g j hh => h2 g j (hholds hh)⟩
        rw [hbars _ hn] at h1
        cases h1
      linked := fun f k i hi => by
        rw [(hrec f k).planLink] at hi
        rw [hplanAt, (hrec f k).serial]
        exact h.linked f k i hi
      claimed := fun i f k hi => by
        rw [hplanAt] at hi ⊢
        rw [(hrec f k).planLink]
        exact h.claimed i f k hi
      counted := fun i hu hk => by
        rw [hplanAt] at hu hk ⊢
        rw [hlinks]
        exact h.counted i hu hk }

theorem State.IdentitiesSound.of_fd {s t : State} (h : s.IdentitiesSound) (hfd : ∀ f, t.fd f = s.fd f)
    (hbars : ∀ n, t.isBarred n = true → s.isBarred n = true) (hplan : t.plan = s.plan) : t.IdentitiesSound :=
  have hrec : ∀ f k, t.record f k = s.record f k := fun f k => by unfold State.record; rw [hfd]
  h.of_same (fun f k => by rw [hrec]; exact ⟨rfl, rfl, rfl⟩) (fun f k e => by rw [hrec]; exact e)
    (fun f => by rw [hfd]) hbars hplan fun f => by rw [hfd]; exact h.target f

/-- One feeder written, its terminals and its target as they were. -/
theorem State.IdentitiesSound.setFd {s : State} (h : s.IdentitiesSound) (f : FeederId) {x : Feeder}
    (hrec : ∀ k, ((s.fd f).record k).SameHolder (x.record k))
    (hejected : ∀ k, ((s.fd f).record k).state = .ejected → (x.record k).state = .ejected)
    (harr : (x.arrivals.map (·.serial)).Sublist ((s.fd f).arrivals.map (·.serial))) (ht : x.TargetActive) :
    (s.setFd f x).IdentitiesSound := by
  have hfd : ∀ g, (s.setFd f x).fd g = if g = f then x else s.fd g := fun g => by
    split
    · next e => rw [e, State.fd_setFd]
    · next e => exact State.fd_setFd_of_ne s f g x e
  refine h.of_same (fun g k => ?_) (fun g k e => ?_) (fun g => ?_) (fun n hn => ?_) (s.setFd_plan f x) fun g => ?_
  · unfold State.record
    rw [hfd]
    split
    · next e => rw [e]; exact hrec k
    · exact ⟨rfl, rfl, rfl⟩
  · unfold State.record at e ⊢
    rw [hfd]
    split
    · next eg => rw [eg] at e; exact hejected k e
    · exact e
  · rw [hfd]
    split
    · next e => rw [e]; exact harr
    · exact .refl _
  · unfold State.isBarred at hn ⊢
    rw [State.setFd_bars] at hn
    exact hn
  · rw [hfd]
    split
    · exact ht
    · exact h.target g

theorem Feeder.sameHolder_setRecord (fd : Feeder) (h k : Nat) (r : Record) (hr : (fd.record h).SameHolder r) :
    (fd.record k).SameHolder ((fd.setRecord h r).record k) := by
  rw [Feeder.record_setRecord]
  split
  · next e => rw [← e.1]; exact hr
  · exact ⟨rfl, rfl, rfl⟩

/-- An active record written by one of the same terminal, active or ejected. -/
theorem State.IdentitiesSound.setRecord {s : State} (h : s.IdentitiesSound) (f : FeederId) (k : Nat) {r : Record}
    (hr : (s.record f k).SameHolder r) (ha : (s.record f k).state.active = true)
    (ht : (s.fd f).hunt.target = some k → r.state.active = true) :
    (s.setFd f ((s.fd f).setRecord k r)).IdentitiesSound := by
  refine h.setFd f (fun j => Feeder.sameHolder_setRecord _ k j r hr) (fun j e => ?_) (by simp) fun j hj => ?_
  · rw [Feeder.record_setRecord]
    split
    · next ej =>
      have e : (s.record f k).state = .ejected := by rw [ej.1]; exact e
      rw [e] at ha
      cases ha
    · exact e
  · rw [Feeder.setRecord_hunt] at hj
    rw [Feeder.record_setRecord]
    split
    · next ej => exact ht (ej.1 ▸ hj)
    · exact h.target f j hj

/-! ## Bars and arrivals (R22, R87) -/

theorem State.isBarred_bar (s : State) (n m : Serial) (h : (s.bar n).isBarred m = true) : m = n ∨ s.isBarred m = true := by
  obtain ⟨b, hb, rfl⟩ := (State.isBarred_iff _ m).mp h
  rcases addBar_entries s.bars n s.barHold b hb with hb | ⟨e, -⟩
  · exact .inr ((State.isBarred_iff s _).mpr ⟨b, hb, rfl⟩)
  · exact .inl e

theorem State.fd_dropArrivals (s : State) (n : Serial) (f : FeederId) :
    (s.dropArrivals n).fd f = (s.fd f).dropArrival n := by cases f <;> rfl

theorem State.fd_bar (s : State) (n : Serial) (f : FeederId) : (s.bar n).fd f = (s.fd f).dropArrival n := by
  cases f <;> rfl

theorem State.holdsActive_of_heldActive {s : State} {n : Serial} (h : s.heldActive n = false) {f : FeederId} {k : Nat}
    (hh : s.holds f k n) : (s.record f k).state.active = false := by
  have hb : 1 ≤ k ∧ k ≤ 255 := by
    by_contra hb
    have h1 := hh.1
    rw [State.record_of_out s f k (by omega)] at h1
    cases h1
  by_contra ha
  have ha : (s.record f k).state.active = true := by simpa using ha
  have hm : (s.record f k) ∈ (s.fd f).table.toList := ((s.fd f).mem_table _).mpr ⟨k, hb.1, hb.2, rfl⟩
  have hany : ((s.fd f).table.toList.any fun r => r.state.active && decide (r.serial = some n)) = true :=
    List.any_eq_true.mpr ⟨_, hm, by rw [ha, hh.2]; simp⟩
  have hx : s.heldActive n = true := by
    refine Bool.or_eq_true_iff.mpr ?_
    cases f
    · exact .inl hany
    · exact .inr hany
  rw [hx] at h
  cases h

/-- A serial barred whose live records are EJECTED (R19, R26, R97). -/
theorem State.IdentitiesSound.bar {s : State} (h : s.IdentitiesSound) {n : Serial} (hb : s.Barrable n) :
    (s.bar n).IdentitiesSound := by
  have hej : ∀ f k, s.holds f k n → (s.record f k).state = .ejected := by
    intro f k hh
    rcases hb with ⟨g, j, hn, he⟩ | hf | ⟨g, a, ha, e⟩
    · obtain ⟨rfl, rfl⟩ := h.unique f k g j n hh ⟨by rw [he]; rfl, hn⟩
      exact he
    · exact RecState.ejected_of_live hh.1 (State.holdsActive_of_heldActive hf hh)
    · exact absurd hh (e ▸ (h.arrivals g a ha).2 f k)
  have hrec : ∀ f k, (s.bar n).record f k = s.record f k := fun f k => by
    unfold State.record; rw [State.fd_bar]; rfl
  have harr : ∀ f, (((s.bar n).fd f).arrivals.map (·.serial)).Sublist ((s.fd f).arrivals.map (·.serial)) := fun f => by
    rw [State.fd_bar]; exact List.filter_sublist.map _
  have hholds : ∀ {f k m}, (s.bar n).holds f k m → s.holds f k m := fun {f k m} hh => by
    unfold State.holds at hh; rw [hrec] at hh; exact hh
  have hlinks : ∀ i, (s.bar n).linksTo i = s.linksTo i := fun i => by
    rw [State.linksTo_eq _ .A, State.linksTo_eq s .A, State.fd_bar, State.fd_bar]; rfl
  exact
    { target := fun f => by rw [State.fd_bar]; exact h.target f
      unique := fun f k g j m h1 h2 => h.unique f k g j m (hholds h1) (hholds h2)
      freed := fun f k e => by rw [hrec] at e ⊢; exact h.freed f k e
      barred := fun f k m hm hh => by
        rw [hrec]
        rcases s.isBarred_bar n m hm with rfl | hm
        · exact hej f k (hholds hh)
        · exact h.barred f k m hm (hholds hh)
      distinct := fun f => (h.distinct f).sublist (harr f)
      arrivals := fun f a ha => by
        rw [State.fd_bar] at ha
        obtain ⟨ha, hne⟩ := List.mem_filter.mp ha
        obtain ⟨h1, h2⟩ := h.arrivals f a ha
        refine ⟨Bool.eq_false_iff.mpr fun hm => ?_, fun g j hh => h2 g j (hholds hh)⟩
        rcases s.isBarred_bar n a.serial hm with e | e
        · exact of_decide_eq_true hne e
        · rw [h1] at e; cases e
      linked := fun f k i hi => by rw [hrec] at hi ⊢; exact h.linked f k i hi
      claimed := fun i f k hi => by rw [hrec]; exact h.claimed i f k hi
      counted := fun i hu hk => by rw [hlinks]; exact h.counted i hu hk }

theorem State.IdentitiesSound.dropArrivals {s : State} (h : s.IdentitiesSound) (n : Serial) :
    (s.dropArrivals n).IdentitiesSound :=
  have hrec : ∀ f k, (s.dropArrivals n).record f k = s.record f k := fun f k => by cases f <;> rfl
  h.of_same (fun f k => by rw [hrec]; exact ⟨rfl, rfl, rfl⟩) (fun f k e => by rw [hrec]; exact e)
    (fun f => by rw [State.fd_dropArrivals]; exact List.filter_sublist.map _) (fun _ hm => hm) rfl
    fun f => by rw [State.fd_dropArrivals]; exact h.target f

/-- A serial that nobody holds joins a list of arrivals that has it not (R90, R91). -/
theorem State.IdentitiesSound.join {s : State} (h : s.IdentitiesSound) {f : FeederId} {a : Arrival}
    (hj : s.Joinable f a.serial) : (s.modFd f fun fd => { fd with arrivals := fd.arrivals ++ [a] }).IdentitiesSound := by
  have hfd : ∀ g, (s.modFd f fun fd => { fd with arrivals := fd.arrivals ++ [a] }).fd g =
      { s.fd g with arrivals := if g = f then (s.fd g).arrivals ++ [a] else (s.fd g).arrivals } := fun g => by
    split
    · next e => rw [e, State.fd_modFd]
    · next e => rw [State.fd_modFd_of_ne _ _ _ _ e]
  have hrec : ∀ g k, (s.modFd f fun fd => { fd with arrivals := fd.arrivals ++ [a] }).record g k = s.record g k :=
    fun g k => by unfold State.record; rw [hfd]; rfl
  have hbars : ∀ m, (s.modFd f fun fd => { fd with arrivals := fd.arrivals ++ [a] }).isBarred m = s.isBarred m :=
    fun m => by unfold State.isBarred; rw [State.modFd_bars]
  have hplan : ∀ i, (s.modFd f fun fd => { fd with arrivals := fd.arrivals ++ [a] }).planAt i = s.planAt i :=
    fun i => by unfold State.planAt; rw [State.modFd_plan]
  have hlinks : ∀ i, (s.modFd f fun fd => { fd with arrivals := fd.arrivals ++ [a] }).linksTo i = s.linksTo i :=
    fun i => by rw [State.linksTo_eq _ .A, State.linksTo_eq s .A, hfd, hfd]; rfl
  exact
    { freed := fun g k e => by rw [hrec] at e ⊢; exact h.freed g k e
      target := fun g => by rw [hfd]; exact h.target g
      unique := fun g k g' k' n h1 h2 => by
        unfold State.holds at h1 h2; rw [hrec] at h1 h2; exact h.unique g k g' k' n h1 h2
      barred := fun g k n hb hh => by
        unfold State.holds at hh; rw [hrec] at hh ⊢; rw [hbars] at hb; exact h.barred g k n hb hh
      distinct := fun g => by
        rw [hfd]
        split
        · next e =>
          show (((s.fd g).arrivals ++ [a]).map (·.serial)).Nodup
          rw [List.map_append, List.map_singleton, List.nodup_append]
          refine ⟨h.distinct g, List.nodup_singleton _, fun n hn m hm e' => ?_⟩
          obtain ⟨b, hb, rfl⟩ := List.mem_map.mp hn
          exact hj.fresh b (e ▸ hb) (e'.trans (List.mem_singleton.mp hm))
        · exact h.distinct g
      arrivals := fun g b hb => by
        rw [hbars]
        have hun : b ∈ (s.fd g).arrivals ∨ b = a := by
          rw [hfd] at hb
          split at hb
          · exact (List.mem_append.mp hb).imp id List.mem_singleton.mp
          · exact .inl hb
        unfold State.holds
        rcases hun with hb | rfl
        · obtain ⟨h1, h2⟩ := h.arrivals g b hb
          exact ⟨h1, fun g' k hh => by rw [hrec] at hh; exact h2 g' k hh⟩
        · exact ⟨hj.unbarred, fun g' k hh => by rw [hrec] at hh; exact hj.unheld g' k hh⟩
      linked := fun g k i hi => by rw [hrec] at hi ⊢; rw [hplan]; exact h.linked g k i hi
      claimed := fun i g k hi => by rw [hplan] at hi ⊢; rw [hrec]; exact h.claimed i g k hi
      counted := fun i hu hk => by rw [hplan] at hu hk ⊢; rw [hlinks]; exact h.counted i hu hk }

end Sys2Proof.Machine

/-! PROOFS. Plan links: what a naming takes and what a drain and a close release keep the identities in agreement. -/
namespace Sys2Proof.Machine

open Sys2Proof

/-! ## Links released (R20, R21, R75) -/

/-- A plan entry that loses a number of links. -/
def PlanEntry.dropLinks (e : PlanEntry) (n : Nat) : PlanEntry :=
  match e.kind with
  | .exact => if n = 0 then e else { e with claim := none }
  | .pattern => { e with count := e.count.map (· - n) }

theorem PlanEntry.dropLinks_zero (e : PlanEntry) : e.dropLinks 0 = e := by
  obtain ⟨_, kind, _, _, _, _, _, _, _, _, _, count, _⟩ := e
  cases kind
  · rfl
  · cases count <;> rfl

theorem PlanEntry.dropLinks_fixed (e : PlanEntry) (n : Nat) :
    (e.dropLinks n).inUse = e.inUse ∧ (e.dropLinks n).kind = e.kind ∧ (e.dropLinks n).serial = e.serial ∧
      (e.dropLinks n).limit = e.limit := by
  unfold PlanEntry.dropLinks
  split
  · split <;> exact ⟨rfl, rfl, rfl, rfl⟩
  · exact ⟨rfl, rfl, rfl, rfl⟩

theorem PlanEntry.dropLinks_dropLink (e : PlanEntry) (n : Nat) : e.dropLink.dropLinks n = e.dropLinks (n + 1) := by
  unfold PlanEntry.dropLinks PlanEntry.dropLink
  cases hk : e.kind
  · simp
  · simp [Function.comp_def, Nat.sub_sub, Nat.add_comm]

theorem PlanEntry.dropLinks_one (e : PlanEntry) : e.dropLinks 1 = e.dropLink := by
  rw [← PlanEntry.dropLinks_dropLink e 0, PlanEntry.dropLinks_zero]

theorem PlanEntry.dropLinks_exact {e : PlanEntry} (hk : e.kind = .exact) {n : Nat} (h : n ≠ 0) :
    (e.dropLinks n).claim = none := by
  unfold PlanEntry.dropLinks
  rw [hk]
  simp [h]

theorem PlanEntry.dropLinks_pattern {e : PlanEntry} (hk : e.kind = .pattern) (n : Nat) :
    (e.dropLinks n).claim = e.claim ∧ (e.dropLinks n).count = e.count.map (· - n) := by
  unfold PlanEntry.dropLinks
  rw [hk]
  exact ⟨rfl, rfl⟩

theorem State.planAt_releaseLinks (l : List Record) :
    ∀ (s : State) (i : Nat), i < 512 → (l.foldl (fun t r => t.releaseLink r.planLink) s).planAt i =
      (s.planAt i).dropLinks (l.countP fun r => decide (r.planLink = some i)) := by
  induction l with
  | nil => exact fun s i _ => (PlanEntry.dropLinks_zero _).symm
  | cons r l ih =>
    intro s i hi
    rw [List.foldl_cons, ih _ i hi, State.planAt_releaseLink]
    by_cases e : r.planLink = some i
    · rw [if_pos ⟨e, hi⟩, PlanEntry.dropLinks_dropLink, List.countP_cons, if_pos (decide_eq_true e)]
    · rw [if_neg fun c => e c.1, List.countP_cons, if_neg (by simpa using e)]
      rfl

/-- Two links to an entry come from two records. -/
theorem State.exists_other_of_linksTo {s : State} {f : FeederId} {k i : Nat} (h : 1 < s.linksTo i) :
    ∃ g j, (s.record g j).planLink = some i ∧ ¬ (g = f ∧ j = k) := by
  by_cases hk : 1 ≤ k ∧ k ≤ 255
  · have hset := (s.fd f).linksTo_setRecord hk.1 hk.2 freeRecord i
    rw [show (if freeRecord.planLink = some i then 1 else 0) = 0 from rfl] at hset
    have hne : (s.modFd f (·.setRecord k freeRecord)).linksTo i ≠ 0 := by
      rw [State.linksTo_eq s f] at h
      rw [State.linksTo_eq _ f, State.fd_modFd, State.fd_modFd_other]
      split at hset <;> omega
    obtain ⟨g, j, e⟩ := State.exists_of_linksTo hne
    unfold State.record at e ⊢
    by_cases hg : g = f
    · rw [hg, State.fd_modFd, Feeder.record_setRecord] at e
      split at e
      · cases e
      · next hj => exact ⟨g, j, hg ▸ e, fun c => hj ⟨c.2.symm, hk⟩⟩
    · rw [State.fd_modFd_of_ne _ _ _ _ hg] at e
      exact ⟨g, j, e, fun c => hg c.1⟩
  · obtain ⟨g, j, e⟩ := State.exists_of_linksTo (s := s) (i := i) (by omega)
    refine ⟨g, j, e, fun c => ?_⟩
    rw [c.2, State.record_of_out s g k (by omega)] at e
    cases e

theorem State.IdentitiesSound.linksTo_exact {s : State} (h : s.IdentitiesSound) {i : Nat}
    (hk : (s.planAt i).kind = .exact) : s.linksTo i ≤ 1 := by
  by_contra hgt
  obtain ⟨f, k, e⟩ := State.exists_of_linksTo (s := s) (i := i) (by omega)
  obtain ⟨g, j, e', hne⟩ := State.exists_other_of_linksTo (f := f) (k := k) (by omega : 1 < s.linksTo i)
  have h1 := ((h.linked f k i e).2.2 hk).1
  have h2 := ((h.linked g j i e').2.2 hk).1
  rw [h1] at h2
  exact hne ⟨(Prod.mk.inj (Option.some.inj h2)).1.symm, (Prod.mk.inj (Option.some.inj h2)).2.symm⟩

/-- Records made FREE, each with its link released in the plan. -/
theorem State.IdentitiesSound.released {s t : State} (h : s.IdentitiesSound)
    (hrec : ∀ g k, t.record g k = s.record g k ∨
      t.record g k = freeRecord ∧ ∀ i, (s.record g k).planLink = some i → t.linksTo i < s.linksTo i)
    (hle : ∀ i, t.linksTo i ≤ s.linksTo i)
    (hplan : ∀ i, i < 512 → t.planAt i = (s.planAt i).dropLinks (s.linksTo i - t.linksTo i))
    (harr : ∀ f, ((t.fd f).arrivals.map (·.serial)).Sublist ((s.fd f).arrivals.map (·.serial)))
    (hbars : t.bars = s.bars) (htarget : ∀ f, (t.fd f).TargetActive) : t.IdentitiesSound := by
  have hholds : ∀ {f k n}, t.holds f k n → s.holds f k n ∧ t.record f k = s.record f k := fun {f k n} hh => by
    rcases hrec f k with e | ⟨e, -⟩
    · exact ⟨by unfold State.holds at hh; rwa [e] at hh, e⟩
    · have h1 := hh.1
      rw [e] at h1
      cases h1
  have hlink : ∀ {f k i}, (t.record f k).planLink = some i → t.record f k = s.record f k := fun {f k i} e => by
    rcases hrec f k with e' | ⟨e', -⟩
    · exact e'
    · rw [e'] at e; cases e
  have hfixed : ∀ i, i < 512 → (t.planAt i).inUse = (s.planAt i).inUse ∧ (t.planAt i).kind = (s.planAt i).kind ∧
      (t.planAt i).serial = (s.planAt i).serial ∧ (t.planAt i).limit = (s.planAt i).limit := fun i hi => by
    rw [hplan i hi]; exact (s.planAt i).dropLinks_fixed _
  have hused : ∀ {i}, (t.planAt i).inUse = true → i < 512 := fun {i} hu => by
    by_contra hi
    rw [show t.planAt i = unusedEntry by simp [State.planAt, hi]] at hu
    cases hu
  have hbarred : ∀ n, t.isBarred n = s.isBarred n := fun n => by unfold State.isBarred; rw [hbars]
  exact
    { freed := fun f k e => by
        rcases hrec f k with e' | ⟨e', -⟩
        · rw [e'] at e ⊢; exact h.freed f k e
        · rw [e']; exact ⟨rfl, rfl⟩
      target := htarget
      unique := fun f k g j n h1 h2 => h.unique f k g j n (hholds h1).1 (hholds h2).1
      barred := fun f k n hb hh => by
        rw [hbarred] at hb
        rw [(hholds hh).2]
        exact h.barred f k n hb (hholds hh).1
      distinct := fun f => (h.distinct f).sublist (harr f)
      arrivals := fun f a ha => by
        obtain ⟨b, hb, e⟩ := List.mem_map.mp ((harr f).subset (List.mem_map.mpr ⟨a, ha, rfl⟩))
        obtain ⟨h1, h2⟩ := h.arrivals f b hb
        rw [e] at h1 h2
        rw [hbarred]
        exact ⟨h1, fun g j hh => h2 g j (hholds hh).1⟩
      linked := fun f k i e => by
        have hr := hlink e
        have hpos := State.linksTo_ne_zero e
        rw [hr] at e ⊢
        obtain ⟨hi, hu, hx⟩ := h.linked f k i e
        obtain ⟨f1, f2, f3, -⟩ := hfixed i hi
        refine ⟨hi, f1.trans hu, fun hk => ?_⟩
        have hone := h.linksTo_exact (f2 ▸ hk)
        rw [f3, hplan i hi, show s.linksTo i - t.linksTo i = 0 by omega, PlanEntry.dropLinks_zero]
        exact hx (f2 ▸ hk)
      claimed := fun i f k hc => by
        by_cases hi : i < 512
        · obtain ⟨f1, f2, -, -⟩ := hfixed i hi
          rw [f1, f2]
          cases hk : (s.planAt i).kind with
          | exact =>
            have hz : s.linksTo i - t.linksTo i = 0 := by
              by_contra hz
              rw [hplan i hi, PlanEntry.dropLinks_exact hk hz] at hc
              cases hc
            rw [hplan i hi, hz, PlanEntry.dropLinks_zero] at hc
            obtain ⟨h1, -, h3⟩ := h.claimed i f k hc
            refine ⟨h1, rfl, ?_⟩
            rcases hrec f k with e | ⟨-, e⟩
            · rw [e]; exact h3
            · have := e i h3
              omega
          | pattern =>
            rw [hplan i hi, (PlanEntry.dropLinks_pattern hk _).1] at hc
            rw [(h.claimed i f k hc).2.1] at hk
            cases hk
        · rw [show t.planAt i = unusedEntry by simp [State.planAt, hi]] at hc
          cases hc
      counted := fun i hu hk => by
        have hi := hused hu
        obtain ⟨f1, f2, -, f4⟩ := hfixed i hi
        obtain ⟨l, h1, h2, h3⟩ := h.counted i (f1 ▸ hu) (f2 ▸ hk)
        refine ⟨l, ?_, f4.trans h2, (hle i).trans h3⟩
        rw [hplan i hi, (PlanEntry.dropLinks_pattern (f2 ▸ hk) _).2, h1, Option.map_some, Nat.sub_sub_self (hle i)] }

theorem State.IdentitiesSound.tearDown {s : State} (h : s.IdentitiesSound) {f : FeederId} {k : Nat}
    (he : (s.record f k).state = .ejected) : (s.tearDown f k).IdentitiesSound := by
  have hk : 1 ≤ k ∧ k ≤ 255 := by
    by_contra hk
    rw [State.record_of_out s f k (by omega)] at he
    cases he
  have hfd : (s.tearDown f k).fd f = { ((s.fd f).removeMessages k).setRecord k freeRecord with fullArmed := true } := by
    unfold State.tearDown State.releaseLink
    rw [State.fd_modFd]
    split <;> simp
  have hother : ∀ g, g ≠ f → (s.tearDown f k).fd g = s.fd g := fun g e => by
    unfold State.tearDown State.releaseLink
    rw [State.fd_modFd_of_ne _ _ _ _ e]
    split <;> simp
  have hrec : ∀ g j, (s.tearDown f k).record g j = if g = f ∧ j = k then freeRecord else s.record g j := fun g j => by
    by_cases e : g = f
    · rw [e, State.record_tearDown]
      by_cases ej : j = k
      · rw [if_pos ej.symm, if_pos ⟨rfl, ej⟩]
      · rw [if_neg (Ne.symm ej), if_neg fun c => ej c.2]
    · unfold State.record
      rw [hother g e, if_neg fun c => e c.1]
  have hlinks : ∀ i, (s.tearDown f k).linksTo i + (if (s.record f k).planLink = some i then 1 else 0) = s.linksTo i := by
    intro i
    have hset := (s.fd f).linksTo_setRecord hk.1 hk.2 freeRecord i
    rw [show (if freeRecord.planLink = some i then 1 else 0) = 0 from rfl, Nat.add_zero] at hset
    have ho : f.other ≠ f := by cases f <;> nofun
    rw [State.linksTo_eq s f, State.linksTo_eq _ f, hother _ ho, hfd, ← hset]
    have hsame : Feeder.linksTo { ((s.fd f).removeMessages k).setRecord k freeRecord with fullArmed := true } i =
        ((s.fd f).setRecord k freeRecord).linksTo i := by
      unfold Feeder.linksTo Feeder.setRecord; split <;> rfl
    rw [hsame]
    exact Nat.add_right_comm _ _ _
  refine h.released (fun g j => ?_) (fun i => ?_) (fun i hi => ?_) (fun g => ?_) ?_ fun g j hj => ?_
  · rw [hrec]
    split
    · next c =>
      rw [c.1, c.2]
      exact .inr ⟨rfl, fun i e => by have := hlinks i; rw [if_pos e] at this; omega⟩
    · exact .inl rfl
  · exact (hlinks i) ▸ Nat.le_add_right _ _
  · rw [← hlinks i, Nat.add_sub_cancel_left]
    show ((s.releaseLink (s.record f k).planLink).modFd f _).planAt i = _
    rw [show ∀ (u : State) g, (u.modFd f g).planAt i = u.planAt i from fun u g => by simp [State.modFd],
      State.planAt_releaseLink]
    by_cases e : (s.record f k).planLink = some i
    · rw [if_pos ⟨e, hi⟩, if_pos e, PlanEntry.dropLinks_one]
    · rw [if_neg fun c => e c.1, if_neg e, PlanEntry.dropLinks_zero]
  · by_cases e : g = f
    · rw [e, hfd]
      show ((Feeder.setRecord _ k freeRecord).arrivals.map _).Sublist _
      rw [Feeder.setRecord_arrivals]
      exact .refl _
    · rw [hother g e]
  · unfold State.tearDown State.releaseLink
    rw [State.modFd_bars]
    split <;> rfl
  · have ht : (s.fd g).hunt.target = some j := by
      by_cases e : g = f
      · rw [e, hfd] at hj
        have hj : (Feeder.setRecord _ k freeRecord).hunt.target = some j := hj
        rw [Feeder.setRecord_hunt] at hj
        exact e ▸ hj
      · rw [← hother g e]; exact hj
    have ha := h.target g j ht
    show ((s.tearDown f k).record g j).state.active = true
    rw [hrec, if_neg]
    · exact ha
    · rintro ⟨rfl, rfl⟩
      have ha : (s.record g j).state.active = true := ha
      rw [he] at ha
      cases ha

theorem State.IdentitiesSound.closeFeeder {s : State} (h : s.IdentitiesSound) (f : FeederId) :
    (s.closeFeeder f).IdentitiesSound := by
  obtain ⟨hfd, hother⟩ := s.fd_closeFeeder f
  have hof : ∀ g, g ≠ f → g = f.other := fun g e => by cases g <;> cases f <;> simp_all [FeederId.other]
  have hfree : ∀ k, ((s.closeFeeder f).fd f).record k = freeRecord := fun k => by
    rw [hfd]; exact Feeder.record_of_resetTable rfl k
  have hnone : ∀ i, ((s.closeFeeder f).fd f).linksTo i = 0 := fun i => by
    by_contra hne
    obtain ⟨k, -, -, e⟩ := Feeder.exists_of_linksTo hne
    rw [hfree] at e
    cases e
  have hlinks : ∀ i, (s.closeFeeder f).linksTo i + (s.fd f).linksTo i = s.linksTo i := fun i => by
    rw [State.linksTo_eq _ f, State.linksTo_eq s f, hnone, hother, Nat.zero_add, Nat.add_comm]
  refine h.released (fun g k => ?_) (fun i => ?_) (fun i hi => ?_) (fun g => ?_) ?_ fun g k hk => ?_
  · by_cases e : g = f
    · refine .inr ⟨by rw [e]; exact hfree k, fun i hi => ?_⟩
      have hpos := Feeder.linksTo_ne_zero (fd := s.fd f) (by rw [← e]; exact hi)
      have := hlinks i
      omega
    · refine .inl ?_
      unfold State.record
      rw [hof g e, hother]
  · exact (hlinks i) ▸ Nat.le_add_right _ _
  · rw [← hlinks i, Nat.add_sub_cancel_left]
    unfold State.closeFeeder
    rw [show ∀ (u : State) g, (u.modFd f g).planAt i = u.planAt i from fun u g => by simp [State.modFd]]
    exact State.planAt_releaseLinks _ s i hi
  · by_cases e : g = f
    · rw [e, hfd]; exact List.nil_sublist _
    · rw [hof g e, hother]
  · unfold State.closeFeeder
    rw [State.modFd_bars]
    exact (State.releaseLinks_bars _ s).1
  · by_cases e : g = f
    · rw [e, hfd] at hk; cases hk
    · rw [hof g e, hother] at hk ⊢
      exact h.target _ k hk

end Sys2Proof.Machine

/-! PROOFS. The identities of terminals (O58): naming, plan commands and the whole step. -/
namespace Sys2Proof.Machine

open Sys2Proof

theorem PlanEntry.takeLink_fixed (e : PlanEntry) (f : FeederId) (h : Nat) :
    (e.takeLink f h).inUse = e.inUse ∧ (e.takeLink f h).kind = e.kind ∧ (e.takeLink f h).serial = e.serial ∧
      (e.takeLink f h).limit = e.limit := by
  unfold PlanEntry.takeLink
  split <;> exact ⟨rfl, rfl, rfl, rfl⟩

theorem PlanEntry.takeLink_exact {e : PlanEntry} (hk : e.kind = .exact) (f : FeederId) (h : Nat) :
    (e.takeLink f h).claim = some (f, h) := by
  unfold PlanEntry.takeLink
  rw [hk]

theorem PlanEntry.takeLink_pattern {e : PlanEntry} (hk : e.kind = .pattern) (f : FeederId) (h : Nat) :
    (e.takeLink f h).claim = e.claim ∧ (e.takeLink f h).count = e.count.map (· + 1) := by
  unfold PlanEntry.takeLink
  rw [hk]
  exact ⟨rfl, rfl⟩

theorem State.planAt_of_le (s : State) {i : Nat} (hi : ¬ i < 512) : s.planAt i = unusedEntry := by
  simp [State.planAt, hi]

theorem State.lt_of_inUse {s : State} {i : Nat} (h : (s.planAt i).inUse = true) : i < 512 := by
  by_contra hi
  rw [s.planAt_of_le hi] at h
  cases h

theorem State.planAt_takeLink (s : State) (link : Option Nat) (f : FeederId) (h i : Nat) :
    (s.takeLink link f h).planAt i = if link = some i ∧ i < 512 then (s.planAt i).takeLink f h else s.planAt i := by
  unfold State.takeLink
  cases link with
  | none => simp
  | some j =>
    rw [State.planAt_setPlan]
    by_cases e : j = i
    · subst e; simp
    · simp [e]

section

variable {s : State} {f : FeederId} {h i : Nat} {a : Arrival} {link : Option Nat} {p : Fin 8}

theorem State.fd_named (s : State) (f : FeederId) (h : Nat) (a : Arrival) (link : Option Nat) (p : Fin 8)
    (g : FeederId) : (s.named f h a link p).fd g =
      (if g = f then (s.fd g).setRecord h (a.record link p) else s.fd g).dropArrival a.serial := by
  unfold State.named
  rw [State.fd_dropArrivals]
  have ht : ∀ u : State, (u.takeLink link f h).fd g = u.fd g := fun u => by
    unfold State.takeLink; split <;> simp
  rw [ht]
  split
  · next e => rw [e, State.fd_modFd]
  · next e => rw [State.fd_modFd_of_ne _ _ _ _ e]

theorem State.record_named (s : State) (f : FeederId) (a : Arrival) (link : Option Nat) (p : Fin 8) (h1 : 1 ≤ h)
    (h2 : h ≤ 255) (g : FeederId) (k : Nat) :
    (s.named f h a link p).record g k = if g = f ∧ k = h then a.record link p else s.record g k := by
  unfold State.record
  rw [State.fd_named]
  show Feeder.record (if g = f then _ else _) k = _
  by_cases e : g = f
  · rw [if_pos e, Feeder.record_setRecord]
    by_cases ek : k = h
    · rw [if_pos ⟨ek.symm, h1, h2⟩, if_pos ⟨e, ek⟩]
    · rw [if_neg fun c => ek c.1.symm, if_neg fun c => ek c.2]
  · rw [if_neg e, if_neg fun c => e c.1]

theorem State.planAt_named (s : State) (f : FeederId) (h : Nat) (a : Arrival) (link : Option Nat) (p : Fin 8) (i : Nat) :
    (s.named f h a link p).planAt i =
      if link = some i ∧ i < 512 then (s.planAt i).takeLink f h else s.planAt i := by
  have hd : ∀ u : State, (u.dropArrivals a.serial).planAt i = u.planAt i := fun u => by
    unfold State.dropArrivals State.modFd; simp
  have hm : ∀ g, (s.modFd f g).planAt i = s.planAt i := fun g => by simp [State.modFd]
  unfold State.named
  rw [hd, State.planAt_takeLink, hm]

/-- The record of a FREE handle filled for a serial that nobody holds, with the plan's link taken (R101). -/
theorem State.IdentitiesSound.named (hs : s.IdentitiesSound) (hb : s.isBarred a.serial = false)
    (hn : s.Nameable a link) (h1 : 1 ≤ h) (h2 : h ≤ 255) (hf : (s.record f h).state = .free) :
    (s.named f h a link p).IdentitiesSound := by
  have hrec := s.record_named f a link p h1 h2
  have hplan := s.planAt_named f h a link p
  have hfree := hs.freed f h hf
  have hbars : ∀ n, (s.named f h a link p).isBarred n = s.isBarred n := fun n => by
    unfold State.isBarred State.named State.takeLink State.dropArrivals
    simp only [State.modFd_bars]
    split <;> simp
  have hholds : ∀ {g k n}, (s.named f h a link p).holds g k n → (g = f ∧ k = h ∧ n = a.serial) ∨ s.holds g k n := by
    intro g k n hh
    unfold State.holds at hh
    rw [hrec] at hh
    split at hh
    · next c => exact .inl ⟨c.1, c.2, (Option.some.inj hh.2).symm⟩
    · exact .inr hh
  have hlink : ∀ {g k i}, (s.record g k).planLink = some i → ¬ (g = f ∧ k = h) := by
    rintro g k i e ⟨rfl, rfl⟩
    rw [hfree.2] at e
    cases e
  have hlinks : ∀ i, (s.named f h a link p).linksTo i = s.linksTo i + if link = some i then 1 else 0 := fun i => by
    have hset := (s.fd f).linksTo_setRecord h1 h2 (a.record link p) i
    rw [show ((s.fd f).record h).planLink = none from hfree.2, if_neg nofun, Nat.add_zero] at hset
    have ho : f.other ≠ f := by cases f <;> nofun
    rw [State.linksTo_eq _ f, State.linksTo_eq s f, State.fd_named, State.fd_named, if_pos rfl, if_neg ho,
      Nat.add_right_comm, show (if link = some i then 1 else 0) = if (a.record link p).planLink = some i then 1 else 0
        from rfl, ← hset]
    rfl
  exact
    { freed := fun g k e => by
        rw [hrec] at e ⊢
        split at e
        · cases e
        · next c => rw [if_neg c]; exact hs.freed g k e
      target := fun g k hk => by
        rw [State.fd_named] at hk
        have ht : (s.fd g).hunt.target = some k := by
          split at hk
          · exact (Feeder.setRecord_hunt (s.fd g) h (a.record link p)) ▸ hk
          · exact hk
        show ((State.named s f h a link p).record g k).state.active = true
        rw [hrec]
        split
        · rfl
        · exact hs.target g k ht
      unique := fun g k g' k' n e e' => by
        rcases hholds e with ⟨rfl, rfl, rfl⟩ | e1
        · rcases hholds e' with ⟨rfl, rfl, -⟩ | e'
          · exact ⟨rfl, rfl⟩
          · exact absurd e' (hn.unheld _ _)
        · rcases hholds e' with ⟨-, -, rfl⟩ | e'
          · exact absurd e1 (hn.unheld g k)
          · exact hs.unique g k g' k' n e1 e'
      barred := fun g k n hbn hh => by
        rw [hbars] at hbn
        rcases hholds hh with ⟨-, -, rfl⟩ | hh'
        · rw [hb] at hbn; cases hbn
        · rw [hrec, if_neg]
          · exact hs.barred g k n hbn hh'
          · rintro ⟨rfl, rfl⟩
            have hl := hh'.1
            rw [hf] at hl
            cases hl
      distinct := fun g => by
        rw [State.fd_named]
        have he : (if g = f then (s.fd g).setRecord h (a.record link p) else s.fd g).arrivals = (s.fd g).arrivals := by
          split <;> simp
        exact ((List.filter_sublist.map _).trans (he ▸ .refl _)).nodup (hs.distinct g)
      arrivals := fun g b hmem => by
        rw [State.fd_named] at hmem
        obtain ⟨hm, hne⟩ := List.mem_filter.mp hmem
        have he : (if g = f then (s.fd g).setRecord h (a.record link p) else s.fd g).arrivals = (s.fd g).arrivals := by
          split <;> simp
        rw [he] at hm
        obtain ⟨e1, e2⟩ := hs.arrivals g b hm
        refine ⟨by rw [hbars]; exact e1, fun g' k hh => ?_⟩
        rcases hholds hh with ⟨-, -, e⟩ | hh
        · exact of_decide_eq_true hne e
        · exact e2 g' k hh
      linked := fun g k i e => by
        rw [hrec] at e ⊢
        rw [hplan]
        obtain ⟨t1, t2, t3, -⟩ := (s.planAt i).takeLink_fixed f h
        split at e
        · next c =>
          have e : link = some i := e
          obtain ⟨hu, hx, -⟩ := hn.linked i e
          have hi := State.lt_of_inUse hu
          rw [if_pos ⟨e, hi⟩, if_pos c, t1, t2, t3]
          refine ⟨hi, hu, fun hk => ⟨?_, ?_⟩⟩
          · rw [PlanEntry.takeLink_exact hk, c.1, c.2]
          · rw [hx hk]; rfl
        · next c =>
          obtain ⟨hi, hu, hx⟩ := hs.linked g k i e
          rw [if_neg c]
          split
          · next hl =>
            rw [t1, t2, t3]
            refine ⟨hi, hu, fun hk => absurd ?_ (hn.unheld g k)⟩
            refine ⟨?_, by rw [(hx hk).2, (hn.linked i hl.1).2.1 hk]⟩
            by_contra hd
            rw [(hs.freed g k ((RecState.eq_free_iff _).mpr (by simpa using hd))).2] at e
            cases e
          · exact ⟨hi, hu, hx⟩
      claimed := fun i g k hc => by
        rw [hplan] at hc ⊢
        obtain ⟨t1, t2, -, -⟩ := (s.planAt i).takeLink_fixed f h
        have hold : (s.planAt i).claim = some (g, k) → (s.planAt i).inUse = true ∧ (s.planAt i).kind = .exact ∧
            ((s.named f h a link p).record g k).planLink = some i := fun hc => by
          obtain ⟨e1, e2, e3⟩ := hs.claimed i g k hc
          rw [hrec, if_neg (hlink e3)]
          exact ⟨e1, e2, e3⟩
        split at hc
        · next hl =>
          rw [if_pos hl, t1, t2]
          cases hk : (s.planAt i).kind with
          | exact =>
            rw [PlanEntry.takeLink_exact hk] at hc
            obtain ⟨rfl, rfl⟩ := Prod.mk.inj (Option.some.inj hc)
            rw [hrec, if_pos ⟨rfl, rfl⟩]
            exact ⟨(hn.linked i hl.1).1, rfl, hl.1⟩
          | pattern =>
            rw [(PlanEntry.takeLink_pattern hk f h).1] at hc
            have e := (hold hc).2.1
            rw [hk] at e
            cases e
        · next hl => rw [if_neg hl]; exact hold hc
      counted := fun i hu hk => by
        rw [hplan] at hu hk ⊢
        obtain ⟨t1, t2, -, t4⟩ := (s.planAt i).takeLink_fixed f h
        rw [hlinks]
        split at hu
        · next hl =>
          rw [if_pos hl, t2] at hk
          rw [t1] at hu
          obtain ⟨l, e1, e2, e3⟩ := hs.counted i hu hk
          have hfull := (hn.linked i hl.1).2.2 hk
          rw [e1, e2] at hfull
          have hlt : s.linksTo i ≠ l := fun e => hfull (by rw [e])
          rw [if_pos hl, if_pos hl.1, t4, (PlanEntry.takeLink_pattern hk f h).2, e1]
          exact ⟨l, rfl, e2, by omega⟩
        · next hl =>
          have hi := State.lt_of_inUse hu
          rw [if_neg hl] at hk
          rw [if_neg hl, if_neg fun e => hl ⟨e, hi⟩, Nat.add_zero]
          exact hs.counted i hu hk }

/-! ## The plan commands (R76 to R78) -/

/-- An entry that is not held has no link. -/
theorem State.IdentitiesSound.linksTo_of_not_held (hs : s.IdentitiesSound) (hh : (s.planAt i).held = false) :
    s.linksTo i = 0 := by
  by_contra hne
  obtain ⟨g, k, e⟩ := State.exists_of_linksTo hne
  obtain ⟨-, hu, hx⟩ := hs.linked g k i e
  unfold PlanEntry.held at hh
  rw [hu, Bool.true_and] at hh
  cases hk : (s.planAt i).kind with
  | exact =>
    simp only [hk, (hx hk).1] at hh
    cases hh
  | pattern =>
    obtain ⟨l, e1, -, -⟩ := hs.counted i hu hk
    simp only [hk, e1] at hh
    exact hne (by simpa using hh)

/-- An entry written that keeps what its links agree with. -/
theorem State.IdentitiesSound.setPlan (hs : s.IdentitiesSound) {e : PlanEntry}
    (hlinked : s.linksTo i ≠ 0 → e.inUse = true ∧ (e.kind = .exact → (s.planAt i).kind = .exact ∧
      e.serial = (s.planAt i).serial ∧ e.claim = (s.planAt i).claim))
    (hclaimed : ∀ c, e.claim = some c → e.inUse = true ∧ e.kind = .exact ∧ (s.planAt i).claim = some c)
    (hcounted : e.inUse = true → e.kind = .pattern →
      ∃ limit, e.count = some (s.linksTo i) ∧ e.limit = some limit ∧ s.linksTo i ≤ limit) :
    (s.setPlan i e).IdentitiesSound := by
  have hplan := fun j => s.planAt_setPlan i j e
  have hrec : ∀ g k, (s.setPlan i e).record g k = s.record g k := fun g k => by
    unfold State.record; rw [State.fd_setPlan]
  have hlinks : ∀ j, (s.setPlan i e).linksTo j = s.linksTo j := fun j => by
    rw [State.linksTo_eq _ .A, State.linksTo_eq s .A, State.fd_setPlan, State.fd_setPlan]
  have hholds : ∀ g k n, (s.setPlan i e).holds g k n ↔ s.holds g k n := fun g k n => by
    unfold State.holds; rw [hrec]
  exact
    { freed := fun g k => by rw [hrec]; exact hs.freed g k
      target := fun g => by rw [State.fd_setPlan]; exact hs.target g
      unique := fun g k g' k' n => by rw [hholds, hholds]; exact hs.unique g k g' k' n
      barred := fun g k n => by rw [hholds, hrec]; exact hs.barred g k n
      distinct := fun g => by rw [State.fd_setPlan]; exact hs.distinct g
      arrivals := fun g a => by
        rw [State.fd_setPlan]
        simp only [hholds]
        exact hs.arrivals g a
      linked := fun g k j hl => by
        rw [hrec] at hl ⊢
        rw [hplan]
        obtain ⟨hj, hu, hx⟩ := hs.linked g k j hl
        split
        · next c =>
          obtain ⟨rfl, -⟩ := c
          obtain ⟨h1, h2⟩ := hlinked (State.linksTo_ne_zero hl)
          refine ⟨hj, h1, fun hk => ?_⟩
          obtain ⟨h3, h4, h5⟩ := h2 hk
          rw [h4, h5]
          exact hx h3
        · exact ⟨hj, hu, hx⟩
      claimed := fun j g k hc => by
        rw [hrec]
        rw [hplan] at hc ⊢
        split at hc
        · next c =>
          rw [if_pos c]
          obtain ⟨h1, h2, h3⟩ := hclaimed _ hc
          exact ⟨h1, h2, c.1 ▸ (hs.claimed i g k h3).2.2⟩
        · next c => rw [if_neg c]; exact hs.claimed j g k hc
      counted := fun j hu hk => by
        rw [hlinks]
        rw [hplan] at hu hk ⊢
        split at hu
        · next c =>
          rw [if_pos c] at hk ⊢
          rw [← c.1]
          exact hcounted hu hk
        · next c =>
          rw [if_neg c] at hk ⊢
          exact hs.counted j hu hk }

theorem State.IdentitiesSound.erase (hs : s.IdentitiesSound) (hh : (s.planAt i).held = false) :
    (s.setPlan i unusedEntry).IdentitiesSound :=
  hs.setPlan (fun hne => absurd (hs.linksTo_of_not_held hh) hne) nofun nofun

theorem PlanEntry.claimedAgainst_iff (e n : PlanEntry) : e.claimedAgainst n = false ↔
    (e.held = true → n.kind = e.kind ∧ n.serial = e.serial ∧ n.mask = e.mask ∧ n.expected = e.expected ∧
      e.count.getD 0 ≤ n.limit.getD 255) := by
  unfold PlanEntry.claimedAgainst
  cases e.held <;> simp [and_assoc]

theorem State.IdentitiesSound.rewrite (hs : s.IdentitiesSound) {b : PlanArgs} {kind : PlanKind} {expected : Expected}
    {profile : Fin 8}
    (hc : (s.planAt i).claimedAgainst ((s.planAt i).rewrite b kind expected profile) = false) :
    (s.setPlan i ((s.planAt i).rewrite b kind expected profile)).IdentitiesSound := by
  rw [PlanEntry.claimedAgainst_iff] at hc
  have hheld : s.linksTo i ≠ 0 → (s.planAt i).held = true := fun hne => by
    by_contra hh
    exact hne (hs.linksTo_of_not_held (by simpa using hh))
  refine hs.setPlan (fun hne => ⟨rfl, fun hk => ?_⟩) (fun c hcl => ?_) fun _ hk => ?_
  · obtain ⟨h1, h2, -, -, -⟩ := hc (hheld hne)
    obtain ⟨g, k, e⟩ := State.exists_of_linksTo hne
    have hu := (hs.linked g k i e).2.1
    exact ⟨h1 ▸ hk, h2, if_pos ⟨hk, hu, h1 ▸ hk⟩⟩
  · have hcl : (if kind = .exact ∧ (s.planAt i).inUse = true ∧ (s.planAt i).kind = .exact then (s.planAt i).claim
      else none) = some c := hcl
    split at hcl
    · next h => exact ⟨rfl, h.1, hcl⟩
    · cases hcl
  · have hk : kind = .pattern := hk
    show ∃ limit, (if kind = .pattern then _ else none) = _ ∧ (if kind = .pattern then _ else none) = _ ∧ _
    rw [if_pos hk, if_pos hk]
    by_cases hz : s.linksTo i = 0
    · refine ⟨_, ?_, rfl, hz ▸ Nat.zero_le _⟩
      split
      · next h =>
        obtain ⟨l, e1, -, -⟩ := hs.counted i h.1 h.2
        exact e1
      · rw [hz]
    · obtain ⟨h1, -, -, -, h5⟩ := hc (hheld hz)
      obtain ⟨g, k, e⟩ := State.exists_of_linksTo hz
      have hu := (hs.linked g k i e).2.1
      have hkp : (s.planAt i).kind = .pattern := h1 ▸ hk
      obtain ⟨l, e1, -, -⟩ := hs.counted i hu hkp
      rw [if_pos ⟨hu, hkp⟩]
      refine ⟨_, e1, rfl, ?_⟩
      rw [e1] at h5
      have h6 : ((s.planAt i).rewrite b kind expected profile).limit = some (clampTo 1 255 b.limit.toNat) := if_pos hk
      rw [h6] at h5
      exact h5

end

/-! ## The whole step -/

/-- What an arrival to be named brings: its serial is not barred. -/
def Arrival.Unbarred (bars : List BarEntry) (a : Arrival) : Prop :=
  (bars.any fun e => decide (e.serial = a.serial)) = false

theorem Record.Tuned.ejected {N : Msg → Prop} {r q : Record} (h : r.Tuned N q) (e : r.state = .ejected) :
    q.state = .ejected := by
  rw [RecState.eq_ejected_iff] at e ⊢
  rw [h.live, h.active]
  exact e

theorem keepsCore_identitiesSound : KeepsCore (fun _ => True) (fun _ _ => True) (fun b _ a => a.Unbarred b)
    State.IdentitiesSound where
  fits _ _ _ := trivial
  names _ _ _ _ := trivial
  tells s f _ := (s.fd f).says_true
  arrival s f a h ha := (h.arrivals f a ha).1
  raise s k n h := h.of_fd (fun f => s.fd_raise k n f) (fun m hm => by unfold State.isBarred at hm ⊢; simpa using hm)
    (State.raise_plan s k n)
  soften s f x _ h hx := h.setFd f (fun k => (hx.records k).sameHolder) (fun k => (hx.records k).ejected) hx.serials
    fun k hk => by
      rcases hx.target with e | e <;> rw [e] at hk
      · rw [(hx.records k).active]; exact h.target f k hk
      · cases hk
  culprit s f k _ h ht :=
    have ha : (s.record f k).state.active = true := h.target f k ht
    h.setRecord f k ⟨rfl, rfl, (RecState.live_of_active ha).symm⟩ ha fun _ => rfl
  retarget s f k _ h ha := h.setFd f (fun _ => ⟨rfl, rfl, rfl⟩) (fun _ => id) (.refl _) fun j hj => by
    rw [← Option.some.inj hj]; exact ha
  ejectFor s f k n r _ h ha ht _ := h.setRecord f k ⟨rfl, rfl, (RecState.live_of_active ha).symm⟩ ha fun e => absurd e ht
  bar s n h hb := h.bar hb
  join s f a _ h hj _ := h.join hj
  name s f k a link p _ h hA hn h1 h2 hf := h.named hA hn h1 h2 hf
  tearDown s f k _ h he := h.tearDown he
  windows s ws h _ _ := h.of_fd (fun f => by cases f <;> rfl) (fun _ hm => hm) rfl
  addWindow s f n w _ h := h.of_fd (fun f => by cases f <;> rfl) (fun _ hm => hm) rfl
  award s a l h := h.of_fd (fun f => by cases f <;> rfl) (fun _ hm => hm) rfl

theorem State.Housekept.identitiesSound {s t : State} (e : s.Housekept t) (h : s.IdentitiesSound) : t.IdentitiesSound :=
  h.of_fd e.fd (fun _ hm => by rw [e.rest] at hm; exact hm) e.plan

theorem State.isBarred_of_sublist {s : State} {l : List BarEntry} (h : l.Sublist s.bars) (n : Serial) :
    { s with bars := l }.isBarred n = true → s.isBarred n = true := fun hm => by
  obtain ⟨b, hb, e⟩ := (State.isBarred_iff _ n).mp hm
  exact (State.isBarred_iff s n).mpr ⟨b, h.subset hb, e⟩

theorem keepsSteps_identitiesSound : KeepsSteps (fun _ => True) (fun _ _ => True) (fun b _ a => a.Unbarred b)
    (fun _ => True) State.IdentitiesSound State.IdentitiesSound :=
  { keepsCore_identitiesSound.keeps with
    sound := fun _ => id
    service := fun _ _ h e => e.housekept.identitiesSound h
    settings := fun _ f _ h _ => h.setFd f (fun _ => ⟨rfl, rfl, rfl⟩) (fun _ => id) (.refl _) (h.target f)
    tally := fun _ f _ h => h.setFd f (fun _ => ⟨rfl, rfl, rfl⟩) (fun _ => id) (.refl _) (h.target f)
    clear := fun _ f h => h.setFd f (fun _ => ⟨rfl, rfl, rfl⟩) (fun _ => id) (.refl _) (h.target f)
    watch := fun _ f _ h => h.setFd f (fun _ => ⟨rfl, rfl, rfl⟩) (fun _ => id) (.refl _) (h.target f)
    opens := fun _ f h _ => h.setFd f (fun _ => ⟨rfl, rfl, rfl⟩) (fun _ => id) (.refl _) (h.target f)
    close := fun _ f _ h => h.closeFeeder f
    rewrite := fun _ _ _ _ _ _ h _ _ hc => h.rewrite hc
    erase := fun _ _ h _ _ hh => h.erase hh
    barHold := fun _ _ h _ _ => h.of_fd (fun f => by cases f <;> rfl) (fun _ hm => hm) rfl
    unbar := fun s _ h hl => h.of_fd (fun f => by cases f <;> rfl) (State.isBarred_of_sublist hl) rfl
    forward := fun _ _ h _ => h.of_fd (fun f => by cases f <;> rfl) (fun _ hm => hm) rfl
    trunk := fun _ _ h e => e.identitiesSound h
    reply := fun _ _ h e => e.identitiesSound h
    tickBars := fun s h => h.of_fd (fun f => by cases f <;> rfl) (fun n hm => by
      obtain ⟨b, hb, e⟩ := (State.isBarred_iff _ n).mp hm
      obtain ⟨c, hc, rfl⟩ := List.mem_map.mp (List.mem_filter.mp hb).1
      exact (State.isBarred_iff s n).mpr ⟨c, hc, e⟩) rfl }

theorem State.identitiesSound_heldReset (l : List Instr) (phase : Phase) (pins : Pins) (sent : Option TrunkSent) :
    (State.heldReset l phase pins sent).IdentitiesSound := by
  have hrec : ∀ f k, (State.heldReset l phase pins sent).record f k = freeRecord := fun f k => by
    cases f <;> exact Feeder.record_of_resetTable rfl k
  have hplan : ∀ i, (State.heldReset l phase pins sent).planAt i = unusedEntry := fun i => by
    by_cases hi : i < 512
    · simp [State.planAt, State.heldReset, hi]
    · exact State.planAt_of_le _ hi
  have hholds : ∀ f k n, ¬ (State.heldReset l phase pins sent).holds f k n := fun f k n hh => by
    have hl := hh.1
    rw [hrec] at hl
    cases hl
  exact
    { freed := fun f k _ => by rw [hrec]; exact ⟨rfl, rfl⟩
      target := fun f => by cases f <;> exact nofun
      unique := fun f k _ _ n e => absurd e (hholds f k n)
      barred := nofun
      distinct := fun f => by cases f <;> exact List.nodup_nil
      arrivals := fun f => by cases f <;> exact nofun
      linked := fun f k i e => by rw [hrec] at e; cases e
      claimed := fun i f k e => by rw [hplan] at e; cases e
      counted := fun i e => by rw [hplan] at e; cases e }

/-- Settles O58: a link is taken with a naming, whose serial nobody holds, and released with its record. -/
theorem identitiesKeptSound : Obligations.IdentitiesKeptSound := fun _ _ hs e =>
  step_keeps (Q := State.IdentitiesSound)
    (fun _ _ h => h.of_fd (fun f => by cases f <;> rfl) (fun _ hm => hm) rfl)
    (fun l phase pins sent _ h => h.identitiesSound (State.identitiesSound_heldReset l phase pins sent))
    (fun _ _ _ h hr e => keepsSteps_identitiesSound.exec h (fun _ => .inl trivial) (fun _ _ => trivial) hr e) hs e

end Sys2Proof.Machine

/-! PROOFS. The block, its resets and its trunk: the reset state, the step, the sort of frames and the transmitter. -/
namespace Sys2Proof.Machine

open Sys2Proof

/-! ## The reset state -/

/-- Settles O52: each invariant holds of every state that a reset leaves. -/
theorem soundStatesAtReset : Obligations.SoundStatesAtReset :=
  have hc := State.closedSound_heldReset [] .running ⟨true, true, false, false⟩ none
  ⟨State.bounded_heldReset .., State.barsSound_heldReset ..,
    fun f => by cases f <;> exact Feeder.huntSound_reset resetFeeder.settings resetFeeder.watch resetFeeder.line, hc,
    fun f => by cases f <;> exact Feeder.recordsInRange_reset resetFeeder.settings resetFeeder.watch resetFeeder.line,
    State.identitiesSound_heldReset .., ⟨hc, fun f => (hc f (by cases f <;> rfl)).1.delaysWithin _⟩,
    fun f => by cases f <;> exact ⟨nofun, nofun⟩⟩

theorem Feeder.wait_reset (h : Nat) : resetFeeder.wait h = 0 := by
  unfold Feeder.wait
  cases h with
  | zero => rfl
  | succ n =>
    by_cases hn : n < 255
    · simp [resetFeeder, hn]
    · simp [resetFeeder, hn]

/-- Settles O4: the tables are read at any place, the other fields are the literals of the reset. -/
theorem resetValues : Obligations.ResetValues := by
  have hfd : ∀ f, State.reset.fd f = resetFeeder := fun f => by cases f <;> rfl
  refine ⟨fun f => ?_, ⟨rfl, rfl, ⟨rfl, rfl, rfl⟩, fun i hi => ?_, ⟨rfl, rfl, rfl⟩, fun i => ?_, rfl, ⟨rfl, rfl⟩,
    ⟨rfl, rfl, rfl, rfl, rfl⟩, ⟨rfl, rfl, rfl, rfl⟩, ⟨rfl, rfl, rfl, rfl, rfl, rfl⟩, fun k => ?_, rfl, rfl, rfl, rfl⟩⟩
  · rw [hfd]
    exact ⟨⟨rfl, rfl, rfl, rfl, rfl, rfl, rfl⟩, rfl, rfl, rfl, fun h _ _ => Feeder.record_of_resetTable rfl h,
      ⟨rfl, rfl, rfl⟩, ⟨rfl, rfl, rfl, rfl, rfl⟩, ⟨rfl, rfl, rfl, fun h _ _ => Feeder.wait_reset h⟩, ⟨rfl, rfl⟩,
      rfl, rfl, rfl⟩
  · simp [State.planAt, State.reset, State.heldReset, hi, unusedEntry]
  · exact Vector.getElem_replicate i.isLt
  · cases k <;> decide

/-! ## The step and the resets -/

theorem whenRunning_of_running {op : State → State} {s : State} (h : s.phase = .running) :
    whenRunning op s = .next (op s) := by
  unfold whenRunning; rw [if_pos h]

/-- Settles O1. -/
theorem stepTakesFrontCommand : Obligations.StepTakesFrontCommand := fun s =>
  ⟨fun c rest h => by unfold step; rw [h], fun h => by unfold step; rw [h]⟩

theorem State.sampleStraps_eq (s : State) (x : Straps) : s.sampleStraps x =
    { s with
      pins := { s.pins with mode1 := x.mode1, mode0 := x.mode0 }
      wdMode := if x.mode1 then .fromStart else if x.mode0 then .afterFirst else .off
      wdArmed := x.mode1
      wdCd := if x.mode1 then 16384 else 0 } := by
  obtain ⟨mode1, mode0⟩ := x
  cases mode1 <;> cases mode0 <;> rfl

/-- Settles O3: of the rows only four do not wait for the part to run. -/
theorem stoppedPartResetsAndPowerLoss : Obligations.StoppedPartResetsAndPowerLoss := by
  refine ⟨fun i s hp h1 h2 h3 h4 => ?_, fun s => ⟨rfl, fun hp => ?_, fun hp => ?_, fun mode1 mode0 hp => ?_, fun x hp => ?_,
    rfl⟩⟩
  · cases i
    case powerOnReset => exact absurd rfl h1
    case pinReset => exact absurd rfl h2
    case resetRelease x => exact absurd rfl (h3 x)
    case powerLoss => exact absurd rfl h4
    all_goals exact congrArg Host.Outcome.next (if_neg hp)
  · exact congrArg _ (if_neg hp)
  · exact congrArg _ (if_pos hp)
  · refine congrArg _ ((if_pos hp).trans ?_)
    rw [State.sampleStraps_eq]
  · exact congrArg _ (if_neg hp)

/-- Settles O5. -/
theorem partResetAfterItsReply : Obligations.PartResetAfterItsReply := by
  intro s mode1 mode0 r hp ht hr
  have hsends : s.sendsPartReset = true := by
    unfold State.sendsPartReset
    rw [ht]
    exact decide_eq_true hr
  have hsent : s.sentWhole = some { frame := .reply r, intact := true } := by unfold State.sentWhole; rw [ht]
  have hreset : s.partReset { mode1 := mode1, mode0 := mode0 } =
      { State.reset with
        pending := s.pending
        pins := { s.pins with mode1 := mode1, mode0 := mode0 }
        lastSent := some { frame := .reply r, intact := true }
        wdMode := if mode1 then .fromStart else if mode0 then .afterFirst else .off
        wdArmed := mode1
        wdCd := if mode1 then 16384 else 0 } := by
    rw [State.partReset, if_pos hsends, State.sampleStraps_eq, hsent]
    rfl
  have hboundary : s.frameBoundary { mode1 := mode1, mode0 := mode0 } = s.partReset { mode1 := mode1, mode0 := mode0 } :=
    if_pos hsends
  exact ⟨(whenRunning_of_running (op := (·.partReset _)) hp).trans (congrArg _ hreset),
    (whenRunning_of_running (op := (·.frameBoundary _)) hp).trans (congrArg _ (hboundary.trans hreset))⟩

/-! ## The trunk (R177, R178, R183) -/

theorem State.sortFrame_of_badTag {s : State} {frame : Bytes}
    (h : frame.length < 16 ∨ frameTagType frame ≠ s.tagType ∨ frameTarget frame = 3) : s.sortFrame frame = s.badTag := by
  unfold State.sortFrame
  split
  · rfl
  · next hn =>
    rw [not_or] at hn
    rw [(h.resolve_left hn.1).resolve_left hn.2]
    rfl

theorem State.sortFrame_of_goodTag {s : State} {frame : Bytes} (hl : 16 ≤ frame.length)
    (ht : frameTagType frame = s.tagType) :
    (frameTarget frame = 0 → s.sortFrame frame = s.joinManagement frame) ∧
      ∀ f : FeederId, frameTarget frame = (match f with | .A => 1 | .B => 2) →
        s.sortFrame frame = s.modFd f (·.takeFrame frame) := by
  have hn : ¬ (frame.length < tagEnd ∨ frameTagType frame ≠ s.tagType) :=
    not_or.mpr ⟨Nat.not_lt.mpr hl, not_not.mpr ht⟩
  refine ⟨fun h => ?_, fun f h => ?_⟩
  · rw [State.sortFrame, if_neg hn, h]; rfl
  · rw [State.sortFrame, if_neg hn]
    cases f <;> rw [h] <;> rfl

/-- R178. -/
theorem Feeder.admitsFrame_iff (fd : Feeder) (h : Nat) : fd.admitsFrame h = true ↔
    (fd.state = .opened ∨ fd.state = .paused) ∧
      (h = 0 ∨ (fd.record h).state = .inService ∨ (fd.record h).state = .suspect) := by
  have h1 : fd.state.serving = true ↔ fd.state = .opened ∨ fd.state = .paused := by
    cases fd.state <;> simp [FeederState.serving]
  have h2 : (fd.record h).state.carriesTraffic = true ↔
      (fd.record h).state = .inService ∨ (fd.record h).state = .suspect := by
    cases (fd.record h).state <;> simp [RecState.carriesTraffic]
  rw [Feeder.admitsFrame, Bool.and_eq_true, Bool.or_eq_true, decide_eq_true_eq, h1, h2]

/-- Settles O6. -/
theorem trunkFrameSort : Obligations.TrunkFrameSort := by
  intro s frame hp
  have hexec : exec (.trunkFrameArrival frame) s = .next (s.sortFrame frame) :=
    whenRunning_of_running (op := (·.sortFrame frame)) hp
  rw [hexec]
  refine ⟨fun h => by rw [State.sortFrame_of_badTag h]; rfl, fun hl ht h0 => ?_, fun f hl ht hf => ?_⟩
  · rw [(State.sortFrame_of_goodTag hl ht).1 h0]
    rfl
  · rw [(State.sortFrame_of_goodTag hl ht).2 f hf]
    have htaken : (checkGood tagEnd frame && (s.fd f).admitsFrame (frameHandle frame) &&
        decide ((s.fd f).downBuffer.length < Config.downstreamCapacity)) = true ↔
        checkGood 16 frame = true ∧ ((s.fd f).state = .opened ∨ (s.fd f).state = .paused) ∧
          (frameHandle frame = 0 ∨ ((s.fd f).record (frameHandle frame)).state = .inService ∨
            ((s.fd f).record (frameHandle frame)).state = .suspect) ∧ (s.fd f).downBuffer.length < 64 := by
      rw [Bool.and_eq_true, Bool.and_eq_true, Feeder.admitsFrame_iff, decide_eq_true_eq]
      exact ⟨fun ⟨⟨h1, h2, h3⟩, h4⟩ => ⟨h1, h2, h3, h4⟩, fun ⟨h1, h2, h3, h4⟩ => ⟨⟨h1, h2, h3⟩, h4⟩⟩
    exact ⟨fun h => congrArg (fun x => Host.Outcome.next (s.setFd f x)) (if_pos (htaken.mpr h)),
      fun h => congrArg (fun x => Host.Outcome.next (s.setFd f x)) (if_neg (mt htaken.mp h))⟩

/-- Settles O7. -/
theorem transmitterArbitration : Obligations.TransmitterArbitration := by
  intro s x hp hr
  have hsends : ¬ s.sendsPartReset = true := by
    unfold State.sendsPartReset
    split
    · next r e => exact fun h => hr r e (of_decide_eq_true h)
    · nofun
  refine (whenRunning_of_running (op := (·.frameBoundary x)) hp).trans (congrArg _ ?_)
  rw [State.frameBoundary, if_neg hsends, State.arbitrate]
  cases s.replies with
  | cons r replies => rfl
  | nil =>
    cases s.notices with
    | cons n notices => rfl
    | nil => cases s.upBuffer <;> rfl

/-- Settles O8. -/
theorem validFrameOpensTaking : Obligations.ValidFrameOpensTaking := State.opened_eq

end Sys2Proof.Machine

/-! PROOFS. How a command row answers, refusals, and the device and reading commands (chapter 10). -/
namespace Sys2Proof.Machine

open Sys2Proof

/-! ## Answers -/

section

variable {s u : State} {t : Taking} {c : Command} {r : CmdResult}

/-- A command row that is taken past the holdover check answers with the outcome of its command. -/
theorem exec_answers (h : s.mayTake) (hh : s.holdover = false ∨ servedInHoldover (commandCode c) = true)
    (hb : runCommand c (s.opened t) = (u, r)) : exec (rowOf t c) s = .next (s.answered u t (commandCode c) r) := by
  rw [exec_rowOf]
  refine State.takeCommand_answers h hh hb ?_
  have hr := (runCommand_trunkStands c (s.opened t)).replies
  rw [hb, State.opened_replies] at hr
  exact hr

theorem exec_served (h : s.mayTake) (hs : servedInHoldover (commandCode c) = true)
    (hb : runCommand c (s.opened t) = (u, r)) : exec (rowOf t c) s = .next (s.answered u t (commandCode c) r) :=
  exec_answers h (.inr hs) hb

theorem exec_writes (h : s.mayWrite) (hb : runCommand c (s.opened t) = (u, r)) :
    exec (rowOf t c) s = .next (s.answered u t (commandCode c) r) :=
  exec_answers h.1 (.inl h.2) hb

theorem State.planAt_opened (s : State) (t : Taking) (i : Nat) : (s.opened t).planAt i = s.planAt i := by
  unfold State.planAt; rw [State.opened_plan]

/-! ## Argument values (section 11.2) -/

theorem feederArg_eq_none {b : Byte} (h : 2 ≤ b.toNat) : feederArg b = none := by
  unfold feederArg; split
  · omega
  · omega
  · rfl

theorem two_le_of_feederArg {b : Byte} (h : feederArg b = none) : 2 ≤ b.toNat := by
  unfold feederArg at h; split at h
  · cases h
  · cases h
  · next h0 h1 => exact (Nat.two_le_iff _).mpr ⟨h0, h1⟩

theorem yesNoArg_eq_none {b : Byte} (h : 2 ≤ b.toNat) : yesNoArg b = none := by
  unfold yesNoArg; split
  · omega
  · omega
  · rfl

theorem yesNoArg_of_lt {b : Byte} (h : b.toNat < 2) : ∃ v, yesNoArg b = some v := by
  unfold yesNoArg; split
  · exact ⟨_, rfl⟩
  · exact ⟨_, rfl⟩
  · next h0 h1 => exact absurd ((Nat.two_le_iff _).mpr ⟨h0, h1⟩) (Nat.not_le.mpr h)

theorem watchModeArg_eq_none {b : Byte} (h : 2 ≤ b.toNat) : watchModeArg b = none := by
  unfold watchModeArg; split
  · omega
  · omega
  · rfl

theorem watchdogModeArg_eq_none {b : Byte} (h : 3 ≤ b.toNat) : watchdogModeArg b = none := by
  unfold watchdogModeArg; split
  · omega
  · omega
  · omega
  · rfl

theorem periodArg_of_mem {w : Word16} (h : w.toNat ∈ [2048, 4096, 8192, 16384]) : periodArg w = some w.toNat := by
  unfold periodArg
  simp only [List.mem_cons, List.not_mem_nil, or_false] at h
  rcases h with e | e | e | e <;> rw [e] <;> rfl

theorem periodArg_of_not_mem {w : Word16} (h : w.toNat ∉ [2048, 4096, 8192, 16384]) : periodArg w = none := by
  simp only [List.mem_cons, List.not_mem_nil, or_false, not_or] at h
  obtain ⟨h1, h2, h3, h4⟩ := h
  unfold periodArg
  split
  · next e => exact absurd e h1
  · next e => exact absurd e h2
  · next e => exact absurd e h3
  · next e => exact absurd e h4
  · rfl

theorem handleArg_of_ne {b : Byte} (h : b.toNat ≠ 0) : handleArg b = some b.toNat := if_neg h

theorem handleArg_of_eq {b : Byte} (h : b.toNat = 0) : handleArg b = none := if_pos h

theorem indexArg_of_lt {w : Word16} (h : w.toNat < 512) : indexArg w = some w.toNat := if_pos h

theorem indexArg_eq_none {w : Word16} (h : 512 ≤ w.toNat) : indexArg w = none := if_neg (Nat.not_lt.mpr h)

theorem profileArg_eq_none {b : Byte} (h : 8 ≤ b.toNat) : profileArg b = none := dif_neg (Nat.not_lt.mpr h)

theorem profileArg_of_lt {b : Byte} (h : b.toNat < 8) : profileArg b = some ⟨b.toNat, h⟩ := dif_pos h

theorem profileArg_of_eq {b : Byte} {i : Fin 8} (h : b.toNat = i.val) : profileArg b = some i := by
  rw [profileArg_of_lt (h ▸ i.isLt)]
  exact congrArg some (Fin.ext h)

/-! ## A refused command (R189) -/

/-- An outcome that is a refusal leaves the state as it was. -/
def Steady (s : State) (x : State × CmdResult) : Prop := ∀ reason, x.2 = .refused reason → x.1 = s

@[simp] theorem steady_refuse (s : State) (r : Reason) : Steady s (refuse s r) := fun _ _ => rfl

@[simp] theorem steady_done (s u : State) : Steady s (done u) := nofun

@[simp] theorem steady_reportDone (s u : State) (b : Bytes) : Steady s (reportDone u b) := nofun

@[simp] theorem steady_doneClamped (s u : State) (b : Bool) : Steady s (doneClamped u b) := by
  cases b <;> exact nofun

theorem steady_device (s : State) : (∀ b, Steady s (s.cmdStatusRead b)) ∧ (∀ b w, Steady s (s.cmdWatchdogSet b w)) ∧
    Steady s s.cmdHoldoverExit ∧ ∀ m, Steady s (s.cmdNoticeMaskSet m) := by
  refine ⟨fun b => ?_, fun b w => ?_, ?_, fun m => ?_⟩
  · unfold State.cmdStatusRead; split <;> simp
  · unfold State.cmdWatchdogSet; split <;> simp
  · unfold State.cmdHoldoverExit
    split
    · split <;> simp
    · simp
  · unfold State.cmdNoticeMaskSet; split <;> simp

theorem steady_feeder (s : State) (b : Byte) : (∀ x v w, Steady s (s.cmdFeederSet b x v w)) ∧ Steady s (s.cmdFeederOpen b) ∧
    Steady s (s.cmdFeederClose b) ∧ Steady s (s.cmdFeederPause b) ∧ Steady s (s.cmdFeederResume b) ∧
    (∀ x, Steady s (s.cmdFeederStatus b x)) ∧ (∀ x v w, Steady s (s.cmdWatchSet b x v w)) ∧ Steady s (s.cmdStrayClear b) := by
  refine ⟨fun x v w => ?_, ?_, ?_, ?_, ?_, fun x => ?_, fun x v w => ?_, ?_⟩
  · unfold State.cmdFeederSet
    split
    · simp
    · split
      · simp
      · split <;> simp
      · split
        · simp
        · split <;> simp
  · unfold State.cmdFeederOpen
    split
    · simp
    · split <;> simp
  · unfold State.cmdFeederClose
    split
    · simp
    · split <;> simp
  · unfold State.cmdFeederPause
    split
    · simp
    · split <;> simp
  · unfold State.cmdFeederResume
    split
    · simp
    · split <;> simp
  · unfold State.cmdFeederStatus; split <;> simp
  · unfold State.cmdWatchSet; split <;> simp
  · unfold State.cmdStrayClear
    split
    · simp
    · split <;> simp

theorem steady_plan (s : State) : (∀ a, Steady s (s.cmdPlanWrite a)) ∧ (∀ i, Steady s (s.cmdPlanRead i)) ∧
    (∀ i, Steady s (s.cmdPlanErase i)) ∧ (∀ b, Steady s (s.cmdFreezeSet b)) ∧ Steady s s.cmdFreezeLock ∧
    ∀ b, Steady s (s.cmdGuardSet b) := by
  refine ⟨fun a => ?_, fun i => ?_, fun i => ?_, fun b => ?_, ?_, fun b => ?_⟩
  · unfold State.cmdPlanWrite
    split
    · simp
    · split
      · split
        · simp
        · split
          · simp
          · simp only
            split
            · simp
            · split <;> simp
      · simp
  · unfold State.cmdPlanRead; split <;> simp
  · unfold State.cmdPlanErase
    split
    · simp
    · split
      · simp
      · split
        · simp
        · split <;> simp
  · unfold State.cmdFreezeSet
    split
    · simp
    · split
      · simp
      · split <;> simp
  · unfold State.cmdFreezeLock; split <;> simp
  · unfold State.cmdGuardSet
    split
    · simp
    · split <;> simp

theorem steady_profiles (s : State) : (∀ a, Steady s (s.cmdProfileWrite a)) ∧ (∀ i, Steady s (s.cmdProfileRead i)) ∧
    (∀ i b, Steady s (s.writeProfileLock i b)) ∧ Steady s s.cmdProfilesLockAll := by
  refine ⟨fun a => ?_, fun i => ?_, fun i b => ?_, ?_⟩
  · unfold State.cmdProfileWrite
    split
    · simp
    · split
      · split <;> simp
      · simp
  · unfold State.cmdProfileRead; split <;> simp
  · unfold State.writeProfileLock
    split
    · simp
    · split
      · simp
      · split <;> simp
  · unfold State.cmdProfilesLockAll
    split
    · simp
    · split <;> simp

theorem steady_arrivals (s : State) (b : Byte) : Steady s (s.cmdArrivalsRead b) ∧ (∀ n p, Steady s (s.cmdAdmit b n p)) ∧
    ∀ n x, Steady s (s.cmdRefuse b n x) := by
  refine ⟨?_, fun n p => ?_, fun n x => ?_⟩
  · unfold State.cmdArrivalsRead; split <;> simp
  · unfold State.cmdAdmit
    split
    · split
      · simp
      · split
        · simp
        · split <;> simp
    · simp
  · unfold State.cmdRefuse
    split
    · split
      · simp
      · split <;> simp
    · simp

theorem steady_terminals (s : State) (b : Byte) : (∀ x, Steady s (s.cmdTerminalRead b x)) ∧
    (∀ n, Steady s (s.cmdTerminalFind n)) ∧ (∀ x y, Steady s (s.cmdTerminalEject b x y)) ∧
    (∀ x, Steady s (s.cmdTerminalRelevel b x)) ∧ (∀ n w, Steady s (s.cmdBarAdd n w)) ∧ ∀ n, Steady s (s.cmdBarRemove n) := by
  refine ⟨fun x => ?_, fun n => ?_, fun x y => ?_, fun x => ?_, fun n w => ?_, fun n => ?_⟩
  · unfold State.cmdTerminalRead; split <;> simp
  · unfold State.cmdTerminalFind; split <;> simp
  · unfold State.cmdTerminalEject
    split
    · split
      · simp
      · split <;> simp
      · simp
    · simp
  · unfold State.cmdTerminalRelevel
    split
    · split <;> simp
    · simp
  · unfold State.cmdBarAdd
    split
    · simp
    · split <;> simp
  · unfold State.cmdBarRemove; split <;> simp

/-- A command that refuses leaves the state as it was. -/
theorem steady_runCommand (s : State) : ∀ c, Steady s (runCommand c s)
  | .identify => steady_reportDone s s _
  | .partReset => steady_done s _
  | .statusRead b => (steady_device s).1 b
  | .watchdogSet b w => (steady_device s).2.1 b w
  | .holdoverExit => (steady_device s).2.2.1
  | .noticeMaskSet m => (steady_device s).2.2.2 m
  | .feederSet b x v w => (steady_feeder s b).1 x v w
  | .feederOpen b => (steady_feeder s b).2.1
  | .feederClose b => (steady_feeder s b).2.2.1
  | .feederPause b => (steady_feeder s b).2.2.2.1
  | .feederResume b => (steady_feeder s b).2.2.2.2.1
  | .feederStatus b x => (steady_feeder s b).2.2.2.2.2.1 x
  | .watchSet b x v w => (steady_feeder s b).2.2.2.2.2.2.1 x v w
  | .strayClear b => (steady_feeder s b).2.2.2.2.2.2.2
  | .planWrite a => (steady_plan s).1 a
  | .planRead i => (steady_plan s).2.1 i
  | .planErase i => (steady_plan s).2.2.1 i
  | .freezeSet b => (steady_plan s).2.2.2.1 b
  | .freezeLock => (steady_plan s).2.2.2.2.1
  | .guardSet b => (steady_plan s).2.2.2.2.2 b
  | .profileWrite a => (steady_profiles s).1 a
  | .profileRead i => (steady_profiles s).2.1 i
  | .profileLock i => (steady_profiles s).2.2.1 i true
  | .profileUnlock i => (steady_profiles s).2.2.1 i false
  | .profilesLockAll => (steady_profiles s).2.2.2
  | .arrivalsRead b => (steady_arrivals s b).1
  | .admitArrival b n p => (steady_arrivals s b).2.1 n p
  | .refuse b n x => (steady_arrivals s b).2.2 n x
  | .terminalRead b x => (steady_terminals s b).1 x
  | .terminalFind n => (steady_terminals s 0#8).2.1 n
  | .terminalEject b x y => (steady_terminals s b).2.2.1 x y
  | .terminalRelevel b x => (steady_terminals s b).2.2.2.1 x
  | .barRead => steady_reportDone s s _
  | .barAdd n w => (steady_terminals s 0#8).2.2.2.2.1 n w
  | .barRemove n => (steady_terminals s 0#8).2.2.2.2.2 n

theorem steady_outsideHoldover (c : Command) (s : State) : Steady s (outsideHoldover (commandCode c) (runCommand c) s) := by
  rcases outsideHoldover_or (commandCode c) (runCommand c) s with e | e <;> rw [e]
  · exact steady_refuse s _
  · exact steady_runCommand s c

/-- Settles O13: every branch of a command that answers a refusal hands the state back (`steady_runCommand`). -/
theorem refusedCommandsChangeNothing : Obligations.RefusedCommandsChangeNothing := by
  intro s u t c r reason h e hr href
  rw [exec_rowOf_of_mayTake h] at e
  have hb := outsideHoldover_trunkStands c (s.opened t)
  have hs := steady_outsideHoldover c (s.opened t)
  generalize outsideHoldover (commandCode c) (runCommand c) (s.opened t) = x at e hb hs
  obtain ⟨v, result⟩ := x
  obtain rfl := Host.Outcome.next.inj e
  have hv : v.replies = s.replies := hb.replies.trans (s.opened_replies t)
  have hr : v.replies ++ _ = s.replies ++ [r] := hr
  rw [hv] at hr
  obtain rfl := List.singleton_inj.mp (List.append_cancel_left hr)
  have hresult : result = .refused reason := href
  have hv' : v = s.opened t := hs reason hresult
  rw [hresult, hv']
  unfold State.addReply State.answered
  rw [State.opened_replies]

end

end Sys2Proof.Machine

/-! PROOFS. Holdover and guard, and the commands that read or write the device (O14 to O17). -/
namespace Sys2Proof.Machine

open Sys2Proof

section

variable {s u : State} {t : Taking} {c : Command} {r : CmdResult}

/-! ## Holdover and guard (R82, R189) -/

theorem guarded_of_guardActs (h : s.guardActs t) : (s.opened t).guarded = true := by
  rw [State.opened_guarded, h.1, h.2]; rfl

theorem guarded_of_not_guardActs (h : ¬ s.guardActs t) : (s.opened t).guarded = false := by
  rw [State.opened_guarded]
  by_contra hg
  rw [Bool.not_eq_false, Bool.and_eq_true] at hg
  exact h hg

/-- The guarded commands refuse with GUARDED while the guard acts, whatever they carry. -/
theorem runCommand_guarded (hg : u.guarded = true)
    (hc : commandCode c ∈ ([0x20#8, 0x22#8, 0x23#8, 0x24#8, 0x25#8, 0x30#8, 0x32#8, 0x33#8, 0x34#8] : Bytes)) :
    runCommand c u = (u, .refused .guarded) := by
  cases c
  case planWrite | planErase | freezeSet | freezeLock | guardSet | profileWrite | profileLock | profileUnlock |
      profilesLockAll => exact if_pos hg
  all_goals simp [commandCode] at hc

/-- Settles O14. -/
theorem holdoverAndGuardRefuse : Obligations.HoldoverAndGuardRefuse :=
  ⟨⟨by decide, fun s t c h hh hs => by rw [exec_rowOf]; exact State.takeCommand_inHoldover h hh hs⟩,
    fun _ _ _ h hg hc => exec_writes h (runCommand_guarded (guarded_of_guardActs hg) hc)⟩

/-! ## TERMINAL_FIND (R192) -/

theorem RecState.live_iff (x : RecState) : x.live = true ↔ x ≠ .free := by cases x <;> simp [RecState.live]

theorem Feeder.holderOf_test (fd : Feeder) {n : Serial} {h : Nat} (e : fd.holderOf n = some h) :
    1 ≤ h ∧ h ≤ 255 ∧ (fd.record h).state ≠ .free ∧ (fd.record h).serial = some n := by
  obtain ⟨h1, h2, ht⟩ := Feeder.firstFrom_test e
  rw [Bool.and_eq_true, decide_eq_true_eq, RecState.live_iff] at ht
  exact ⟨h1, h2, ht⟩

theorem Feeder.holderOf_none (fd : Feeder) {n : Serial} : fd.holderOf n = none ↔
    ∀ h, ¬ (1 ≤ h ∧ h ≤ 255 ∧ (fd.record h).state ≠ .free ∧ (fd.record h).serial = some n) := by
  unfold Feeder.holderOf
  rw [Feeder.firstFrom_eq_none _ _ _ (le_refl 1)]
  refine ⟨fun h k ⟨h1, h2, h3, h4⟩ => ?_, fun h k h1 h2 => ?_⟩
  · have hk := h k h1 h2
    rw [(RecState.live_iff _).mpr h3, h4, decide_eq_true rfl] at hk
    cases hk
  · by_contra hn
    rw [Bool.not_eq_false, Bool.and_eq_true, decide_eq_true_eq, RecState.live_iff] at hn
    exact h k ⟨h1, h2, hn⟩

/-- A live record found holds the serial, and none is found only where none holds it. -/
theorem State.findSerial_spec (s : State) (n : Serial) :
    match s.findSerial n with
    | some (f, h) => 1 ≤ h ∧ h ≤ 255 ∧ (s.record f h).state ≠ .free ∧ (s.record f h).serial = some n
    | none => ∀ f h, ¬ (1 ≤ h ∧ h ≤ 255 ∧ (s.record f h).state ≠ .free ∧ (s.record f h).serial = some n) := by
  unfold State.findSerial
  cases eA : s.feederA.holderOf n with
  | some h => exact Feeder.holderOf_test _ eA
  | none =>
    cases eB : s.feederB.holderOf n with
    | some h => exact Feeder.holderOf_test _ eB
    | none =>
      intro f h
      cases f
      · exact (Feeder.holderOf_none _).mp eA h
      · exact (Feeder.holderOf_none _).mp eB h

theorem State.findSerial_opened (s : State) (t : Taking) (n : Serial) : (s.opened t).findSerial n = s.findSerial n := by
  unfold State.findSerial
  rw [show (s.opened t).feederA = s.feederA from s.fd_opened t .A, show (s.opened t).feederB = s.feederB from s.fd_opened t .B]

/-! ## The reading commands (R8, R79, R85, R89, R190, R192, R194) -/

theorem State.report_opened (s : State) (t : Taking) : (s.opened t).identityReport = s.identityReport ∧
    (s.opened t).barReport = s.barReport := by
  rw [State.opened_eq]; exact ⟨rfl, rfl⟩

theorem runCommand_planRead (s : State) (t : Taking) (index : Word16) (h : index.toNat < 512) :
    runCommand (.planRead index) (s.opened t) = (s.opened t, .done (s.planAt index.toNat).report) := by
  show State.cmdPlanRead _ _ = _
  unfold State.cmdPlanRead
  rw [indexArg_of_lt h, ← State.planAt_opened s t]
  rfl

theorem runCommand_terminalRead (s : State) (t : Taking) {feeder handle : Byte} {f : FeederId}
    (hf : feederArg feeder = some f) (h : handle.toNat ≠ 0) :
    runCommand (.terminalRead feeder handle) (s.opened t) =
      (s.opened t, .done (recordReport handle.toNat (s.record f handle.toNat))) := by
  show State.cmdTerminalRead _ _ _ = _
  unfold State.cmdTerminalRead
  rw [hf, handleArg_of_ne h, ← State.record_opened s t]
  rfl

/-- Settles O15. -/
theorem readCommandsReport : Obligations.ReadCommandsReport := by
  refine ⟨fun s t h => ⟨?_, fun index => ⟨fun hi hu => ?_, fun hi hu => ?_, fun hi => ?_⟩,
    fun index => ⟨fun hi => ?_, fun hi => ?_⟩,
    fun feeder => ⟨fun f hf => ⟨?_, fun handle => ⟨fun hh he => ?_, fun hh => ?_, fun hh => ?_⟩⟩,
      fun hf => ⟨?_, fun handle => ?_⟩⟩, ?_⟩, fun s t serial h => ⟨fun f k hk hu => ?_, fun hn => ?_⟩⟩
  · refine exec_served (c := .identify) h rfl ?_
    show (_, CmdResult.done (s.opened t).identityReport) = _
    rw [(s.report_opened t).1]
    rfl
  · exact exec_served (c := .planRead index) h rfl (runCommand_planRead s t index hi)
  · refine exec_served (c := .planRead index) h rfl ((runCommand_planRead s t index hi).trans ?_)
    rw [PlanEntry.report, hu]
    rfl
  · refine exec_served (c := .planRead index) h rfl ?_
    show State.cmdPlanRead _ _ = _
    unfold State.cmdPlanRead
    rw [indexArg_eq_none hi]
    rfl
  · refine exec_served (c := .profileRead index) h rfl ?_
    show State.cmdProfileRead _ _ = _
    unfold State.cmdProfileRead
    rw [profileArg_of_lt hi, State.opened_eq]
    rfl
  · refine exec_served (c := .profileRead index) h rfl ?_
    show State.cmdProfileRead _ _ = _
    unfold State.cmdProfileRead
    rw [profileArg_eq_none hi]
    rfl
  · refine exec_served (c := .arrivalsRead feeder) h rfl ?_
    show State.cmdArrivalsRead _ _ = _
    unfold State.cmdArrivalsRead
    rw [hf, ← State.fd_opened s t]
    rfl
  · refine exec_served (c := .terminalRead feeder handle) h rfl ((runCommand_terminalRead s t hf hh).trans ?_)
    rw [recordReport, if_pos he, he, BitVec.ofNat_toNat, BitVec.setWidth_eq]
    rfl
  · exact exec_served (c := .terminalRead feeder handle) h rfl (runCommand_terminalRead s t hf hh)
  · refine exec_served (c := .terminalRead feeder handle) h rfl ?_
    show State.cmdTerminalRead _ _ _ = _
    unfold State.cmdTerminalRead
    rw [hf, handleArg_of_eq hh]
    rfl
  · refine exec_served (c := .arrivalsRead feeder) h rfl ?_
    show State.cmdArrivalsRead _ _ = _
    unfold State.cmdArrivalsRead
    rw [hf]
    rfl
  · refine exec_served (c := .terminalRead feeder handle) h rfl ?_
    show State.cmdTerminalRead _ _ _ = _
    unfold State.cmdTerminalRead
    rw [hf]
    rfl
  · refine exec_served (c := .barRead) h rfl ?_
    show (_, CmdResult.done (s.opened t).barReport) = _
    rw [(s.report_opened t).2]
    exact congrArg (fun l => (_, CmdResult.done l)) (List.append_assoc ..).symm
  · refine exec_served (c := .terminalFind serial) h rfl ?_
    show State.cmdTerminalFind _ _ = _
    have hs := s.findSerial_spec serial
    unfold State.cmdTerminalFind
    rw [State.findSerial_opened]
    cases e : s.findSerial serial with
    | none =>
      rw [e] at hs
      exact absurd hk (hs f k)
    | some p =>
      obtain ⟨g, j⟩ := p
      rw [e] at hs
      obtain ⟨rfl, rfl⟩ := hu g j hs
      rw [← State.record_opened s t]
      rfl
  · refine exec_served (c := .terminalFind serial) h rfl ?_
    show State.cmdTerminalFind _ _ = _
    have hs := s.findSerial_spec serial
    unfold State.cmdTerminalFind
    rw [State.findSerial_opened]
    cases e : s.findSerial serial with
    | none => rfl
    | some p =>
      obtain ⟨g, j⟩ := p
      rw [e] at hs
      exact absurd hs (hn g j)

/-! ## Status (R49, R191) -/

theorem runCommand_feederStatus (s : State) (t : Taking) {feeder : Byte} {f : FeederId} (hf : feederArg feeder = some f) :
    runCommand (.feederStatus feeder 0#8) (s.opened t) = (s.opened t, .done (s.fd f).report) ∧
      runCommand (.feederStatus feeder 1#8) (s.opened t) =
        ((s.opened t).setFd f { s.fd f with counters := zeroCounters, latched := clearLatched }, .done (s.fd f).report) := by
  refine ⟨?_, ?_⟩ <;>
  · show State.cmdFeederStatus _ _ _ = _
    unfold State.cmdFeederStatus
    rw [hf, ← State.fd_opened s t]
    rfl

/-- Settles O16. -/
theorem statusReadsAndClears : Obligations.StatusReadsAndClears := by
  intro s t h
  refine ⟨exec_served (c := .statusRead 0#8) h rfl rfl, exec_served (c := .statusRead 1#8) h rfl rfl, fun clear hc => ?_,
    fun feeder f hf => ⟨exec_served (c := .feederStatus feeder 0#8) h rfl (runCommand_feederStatus s t hf).1,
      exec_served (c := .feederStatus feeder 1#8) h rfl (runCommand_feederStatus s t hf).2⟩, fun feeder clear hbad => ?_⟩
  · refine exec_served (c := .statusRead clear) h rfl ?_
    show State.cmdStatusRead _ _ = _
    unfold State.cmdStatusRead
    rw [yesNoArg_eq_none hc]
    rfl
  · refine exec_served (c := .feederStatus feeder clear) h rfl ?_
    show State.cmdFeederStatus _ _ _ = _
    unfold State.cmdFeederStatus
    rcases hbad with hb | hb
    · rw [feederArg_eq_none hb]; rfl
    · rw [yesNoArg_eq_none hb]
      cases feederArg feeder <;> rfl

/-! ## Watchdog, mask and reset (R197, R200, R202, R204) -/

theorem runCommand_watchdogSet {mode : Byte} {period : Word16} {m : WatchdogMode} (hm : watchdogModeArg mode = some m)
    (hp : period.toNat ∈ [2048, 4096, 8192, 16384]) (u : State) : runCommand (.watchdogSet mode period) u =
      ({ u with
        wdMode := m
        wdPeriod := period.toNat
        wdArmed := decide (m ≠ .off)
        wdCd := if m = .off then 0 else period.toNat }, .done []) := by
  show State.cmdWatchdogSet _ _ _ = _
  unfold State.cmdWatchdogSet
  rw [hm, periodArg_of_mem hp]
  rfl

/-- In holdover no period counts (R199). -/
theorem exec_watchdogPeriodEnd_holdover (h : u.holdover = true) : exec .watchdogPeriodEnd u = .next u := by
  have hw : u.watchdogPeriod = u := by
    unfold State.watchdogPeriod
    rw [h, if_neg]
    simp
  refine (congrArg Host.Outcome.next ?_ : exec .watchdogPeriodEnd u = .next u)
  show (if u.phase = .running then u.watchdogPeriod else u) = u
  rw [hw, ite_self]

theorem shift_eq_zero_iff (m : Word32) : m >>> 20 = 0#32 ↔ m.toNat < 2 ^ 20 := by
  rw [← BitVec.toNat_inj, BitVec.toNat_ushiftRight, Nat.shiftRight_eq_div_pow, BitVec.toNat_ofNat]
  omega

/-- Settles O17. -/
theorem watchdogSetAndHoldoverExit : Obligations.WatchdogSetAndHoldoverExit := by
  refine ⟨fun s t mode period h => ⟨fun m hm hp => ?_, fun hbad => ?_⟩, fun s t h => ⟨fun hh hm => ?_, fun hh hm => ?_,
    fun hh => ?_, fun mask hh hm => ?_, fun mask hh hm => ?_, exec_served (c := .partReset) h rfl rfl⟩⟩
  · have hm' : watchdogModeArg mode = some m := by
      rcases hm with ⟨rfl, rfl⟩ | ⟨rfl, rfl⟩ | ⟨rfl, rfl⟩ <;> rfl
    have e := exec_served (c := .watchdogSet mode period) (t := t) h rfl (runCommand_watchdogSet hm' hp _)
    refine ⟨e, fun hh u hu => exec_watchdogPeriodEnd_holdover ?_⟩
    obtain rfl := Host.Outcome.next.inj (e.symm.trans hu)
    exact (s.opened_holdover t).trans hh
  · refine exec_served (c := .watchdogSet mode period) h rfl ?_
    show State.cmdWatchdogSet _ _ _ = _
    unfold State.cmdWatchdogSet
    rcases hbad with hb | hb
    · rw [watchdogModeArg_eq_none hb]; rfl
    · rw [periodArg_of_not_mem hb]
      cases watchdogModeArg mode <;> rfl
  · refine exec_served (c := .holdoverExit) h rfl ?_
    show State.cmdHoldoverExit _ = _
    have hw : (s.opened t).wdMode ≠ .off := by rw [State.opened_eq]; exact hm
    rw [State.cmdHoldoverExit, if_pos ((s.opened_holdover t).trans hh), if_neg hw, State.opened_eq]
    rfl
  · refine exec_served (c := .holdoverExit) h rfl ?_
    show State.cmdHoldoverExit _ = _
    have hw : (s.opened t).wdMode = .off := by rw [State.opened_eq]; exact hm
    rw [State.cmdHoldoverExit, if_pos ((s.opened_holdover t).trans hh), if_pos hw]
    rfl
  · refine exec_served (c := .holdoverExit) h rfl ?_
    show State.cmdHoldoverExit _ = _
    rw [State.cmdHoldoverExit, if_neg (by rw [State.opened_holdover, hh]; nofun)]
    rfl
  · refine exec_writes (c := .noticeMaskSet mask) ⟨h, hh⟩ ?_
    show State.cmdNoticeMaskSet _ _ = _
    rw [State.cmdNoticeMaskSet, if_neg (not_not.mpr ((shift_eq_zero_iff mask).mpr hm))]
    rfl
  · refine exec_writes (c := .noticeMaskSet mask) ⟨h, hh⟩ ?_
    show State.cmdNoticeMaskSet _ _ = _
    rw [State.cmdNoticeMaskSet, if_pos (mt (shift_eq_zero_iff mask).mp (Nat.not_lt.mpr hm))]
    rfl

end

end Sys2Proof.Machine

/-! PROOFS. The feeder commands (O18 to O22). -/
namespace Sys2Proof.Machine

open Sys2Proof

/-! ## Values of FEEDER_SET (R32, R34) -/

theorem reachArg_eq_none {v : Word16} : reachArg v = none ↔ 4 ≤ v.toNat := by
  unfold reachArg
  split
  case h_5 h0 h1 h2 h3 => exact ⟨fun _ => by rcases h : v.toNat with _ | _ | _ | _ | n <;> simp_all, fun _ => rfl⟩
  all_goals exact ⟨nofun, fun h => absurd h (by omega)⟩

theorem spreadArg_eq_none {v : Word16} : spreadArg v = none ↔ v.toNat ∉ [8, 16, 32, 64] := by
  unfold spreadArg
  split
  case h_5 h0 h1 h2 h3 => exact ⟨fun _ => by simp_all, fun _ => rfl⟩
  all_goals exact ⟨nofun, fun h => absurd h (by simp [*])⟩

theorem fanArg_eq_none {v : Word16} : fanArg v = none ↔ v.toNat ∉ [2, 4, 8] := by
  unfold fanArg
  split
  case h_4 h0 h1 h2 => exact ⟨fun _ => by simp_all, fun _ => rfl⟩
  all_goals exact ⟨nofun, fun h => absurd h (by simp [*])⟩

theorem pollArg_eq_none {v : Word16} : pollArg v = none ↔ 2 ≤ v.toNat := by
  unfold pollArg
  split
  case h_3 h0 h1 => exact ⟨fun _ => (Nat.two_le_iff _).mpr ⟨h0, h1⟩, fun _ => rfl⟩
  all_goals exact ⟨nofun, fun h => absurd h (by omega)⟩

theorem writeChoice_eq_badValue {α : Type} {c : Option α} {put : α → Settings} :
    writeChoice c put = .badValue ↔ c = none := by
  cases c <;> simp [writeChoice]

/-- An enumerated value that is not assigned to its setting (R34, step 3). -/
def BadSettingValue (setting : Byte) (v : Word16) : Prop :=
  (setting = 0x00#8 ∧ 4 ≤ v.toNat) ∨ (setting = 0x03#8 ∧ v.toNat ∉ [8, 16, 32, 64]) ∨
    (setting = 0x04#8 ∧ v.toNat ∉ [2, 4, 8]) ∨ (setting = 0x05#8 ∧ 2 ≤ v.toNat)

theorem eq_ofNat_of_toNat {b : Byte} {k : Nat} (h : b.toNat = k) : b = BitVec.ofNat 8 k := by
  rw [← h, BitVec.ofNat_toNat, BitVec.setWidth_eq]

theorem Settings.write_eq_badValue (x : Settings) (setting : Byte) (v high : Word16) :
    x.write setting v high = .badValue ↔ 0x0E ≤ setting.toNat ∨ BadSettingValue setting v := by
  unfold Settings.write BadSettingValue
  split
  case h_1 h =>
    obtain rfl := eq_ofNat_of_toNat h
    simp [writeChoice_eq_badValue, reachArg_eq_none]
  case h_4 h =>
    obtain rfl := eq_ofNat_of_toNat h
    simp [writeChoice_eq_badValue, spreadArg_eq_none]
  case h_5 h =>
    obtain rfl := eq_ofNat_of_toNat h
    simp [writeChoice_eq_badValue, fanArg_eq_none]
  case h_6 h =>
    obtain rfl := eq_ofNat_of_toNat h
    simp [writeChoice_eq_badValue, pollArg_eq_none]
  case h_10 h =>
    obtain rfl := eq_ofNat_of_toNat h
    simp only [writeLevelWindow]
    split <;> simp
  case h_15 =>
    refine ⟨fun _ => .inl ?_, fun _ => rfl⟩
    by_contra hlt
    have hlt : setting.toNat < 14 := Nat.not_le.mp hlt
    interval_cases e : setting.toNat <;> simp_all
  all_goals
    next h =>
      obtain rfl := eq_ofNat_of_toNat h
      simp [writeNumber]

/-- LEVEL_WINDOW is refused as crossed when its low value then stands above its high value (R34, step 6). -/
theorem Settings.write_levelWindow (x : Settings) (v high : Word16) : x.write 0x09#8 v high =
    if min 63 high.toNat < min 63 v.toNat then .crossed
    else .written { x with levelLow := min 63 v.toNat, levelHigh := min 63 high.toNat }
      (decide (63 < v.toNat ∨ 63 < high.toNat)) := by
  show writeLevelWindow x v high = _
  unfold writeLevelWindow clampTo outside
  simp

section

variable {s u : State} {t : Taking} {f : FeederId} {feeder : Byte}

theorem FeederState.sequencing_iff (x : FeederState) : x.sequencing = true ↔ x = .quieting ∨ x = .purging := by
  cases x <;> simp [FeederState.sequencing]

theorem cmdFeederSet_eq (u : State) (hf : feederArg feeder = some f) (setting : Byte) (v high : Word16) :
    u.cmdFeederSet feeder setting v high =
      match (u.fd f).settings.write setting v high with
      | .badValue => refuse u .badArg
      | .crossed => if (u.fd f).state.sequencing then refuse u .busy else refuse u .badArg
      | .written x clamped =>
        if (u.fd f).state.sequencing then refuse u .busy
        else if setting = 0#8 ∧ (u.fd f).state ≠ .closed then refuse u .wrongState
        else doneClamped (u.modFd f fun fd => { fd with settings := x }) clamped := by
  unfold State.cmdFeederSet
  rw [hf] <;> rfl

/-- A FEEDER_SET whose value writes `put` of the settings that stood. -/
theorem feederSetWrites {setting : Byte} {v high : Word16} {put : Settings → Settings} {clamped : Bool}
    (hw : ∀ x : Settings, x.write setting v high = .written (put x) clamped) :
    FeederSetWrites setting v high put clamped := by
  intro s t feeder f h hf h1 h2 h3
  refine exec_writes (c := .feederSet feeder setting v high) h ?_
  show State.cmdFeederSet _ _ _ _ _ = _
  have hseq : ¬ (s.fd f).state.sequencing = true := by
    rw [FeederState.sequencing_iff]
    rintro (e | e)
    · exact h1 e
    · exact h2 e
  rw [cmdFeederSet_eq _ hf, State.fd_opened, hw]
  simp only
  rw [if_neg hseq, if_neg fun h => h.2 (h3 h.1)]
  unfold doneClamped State.modFd
  rw [State.fd_opened]

theorem feederSetWrites_number {setting : Byte} {v high : Word16} {put : Settings → Nat → Settings} {lo hi : Nat}
    (hw : ∀ x : Settings, x.write setting v high = writeNumber lo hi v (put x)) :
    FeederSetWrites setting v high (fun x => put x (max lo (min hi v.toNat))) (decide (v.toNat < lo ∨ hi < v.toNat)) :=
  feederSetWrites fun x => by rw [hw, writeNumber, outside, Bool.decide_or]; rfl

/-- Settles O18. -/
theorem feederSetWritesSettings : Obligations.FeederSetWritesSettings := by
  refine ⟨fun v high => ⟨?_, ?_, ?_, ?_, ?_, ?_, ?_, ?_, ?_⟩, fun high => ⟨⟨?_, ?_, ?_, ?_⟩, ⟨?_, ?_, ?_, ?_⟩, ⟨?_, ?_, ?_⟩,
    ⟨?_, ?_⟩, fun low hlow => feederSetWrites fun x => ?level⟩⟩
  · exact feederSetWrites_number (put := fun x n => { x with callInGap := n }) fun _ => rfl
  · exact feederSetWrites_number (put := fun x n => { x with rootInterval := n }) fun _ => rfl
  · exact feederSetWrites_number (put := fun x n => { x with decisionCycles := n }) fun _ => rfl
  · exact feederSetWrites_number (put := fun x n => { x with driftTrip := n }) fun _ => rfl
  · exact feederSetWrites_number (put := fun x n => { x with driftRun := n }) fun _ => rfl
  · exact feederSetWrites_number (put := fun x n => { x with levelPace := n }) fun _ => rfl
  · exact feederSetWrites_number (put := fun x n => { x with guard := n }) fun _ => rfl
  · exact feederSetWrites_number (put := fun x n => { x with darkDebounce := n }) fun _ => rfl
  · exact feederSetWrites_number (put := fun x n => { x with strayRun := n }) fun _ => rfl
  case level => rw [Settings.write_levelWindow, if_neg (Nat.not_lt.mpr hlow)]
  all_goals exact feederSetWrites fun _ => rfl

/-- The feeder identifier of the feeder commands that refuse one other than A or B before anything else. -/
def namedFeeder : Command → Option Byte
  | .feederOpen b | .feederClose b | .feederPause b | .feederResume b | .strayClear b | .watchSet b _ _ _
  | .admitArrival b _ _ | .refuse b _ _ | .terminalEject b _ _ | .terminalRelevel b _ => some b
  | _ => none

/-- The commands that name a feeder refuse a feeder identifier other than A or B (section 10.3). -/
theorem runCommand_badFeeder {c : Command} (hf : 2 ≤ feeder.toNat) (hc : namedFeeder c = some feeder) :
    runCommand c u = (u, .refused .badArg) := by
  have hf := feederArg_eq_none hf
  cases c <;> cases hc
  case feederOpen => show State.cmdFeederOpen _ _ = _; unfold State.cmdFeederOpen; rw [hf]; rfl
  case feederClose => show State.cmdFeederClose _ _ = _; unfold State.cmdFeederClose; rw [hf]; rfl
  case feederPause => show State.cmdFeederPause _ _ = _; unfold State.cmdFeederPause; rw [hf]; rfl
  case feederResume => show State.cmdFeederResume _ _ = _; unfold State.cmdFeederResume; rw [hf]; rfl
  case strayClear => show State.cmdStrayClear _ _ = _; unfold State.cmdStrayClear; rw [hf]; rfl
  case watchSet => show State.cmdWatchSet _ _ _ _ _ = _; unfold State.cmdWatchSet; rw [hf]; rfl
  case admitArrival => show State.cmdAdmit _ _ _ _ = _; unfold State.cmdAdmit; rw [hf]; rfl
  case refuse => show State.cmdRefuse _ _ _ _ = _; unfold State.cmdRefuse; rw [hf]; rfl
  case terminalEject => show State.cmdTerminalEject _ _ _ _ = _; unfold State.cmdTerminalEject; rw [hf]; rfl
  case terminalRelevel => show State.cmdTerminalRelevel _ _ _ = _; unfold State.cmdTerminalRelevel; rw [hf]; rfl

/-- Settles O19. -/
theorem feederCommandRefusals : Obligations.FeederCommandRefusals := by
  refine ⟨fun s t feeder setting v high h => ⟨fun hbad => ?_, fun f hf hset hval => ?_⟩, fun s t feeder h hf => ?_⟩
  · refine exec_writes (c := .feederSet feeder setting v high) h ?_
    show State.cmdFeederSet _ _ _ _ _ = _
    cases hf : feederArg feeder with
    | none => unfold State.cmdFeederSet; rw [hf]; rfl
    | some f =>
      have hb : 0x0E ≤ setting.toNat ∨ BadSettingValue setting v := by
        rcases hbad with hb | hb
        · rw [feederArg_eq_none hb] at hf; cases hf
        · exact hb
      rw [cmdFeederSet_eq _ hf, (Settings.write_eq_badValue _ setting v high).mpr hb]
      rfl
  · have hgood : ∀ x : Settings, x.write setting v high ≠ .badValue := fun x e =>
      ((x.write_eq_badValue setting v high).mp e).elim (fun hs => absurd hset (Nat.not_lt.mpr hs)) hval
    refine ⟨fun hst => ?_, fun hs hst => ?_, fun hs hcross hn1 hn2 => ?_⟩
    · refine exec_writes (c := .feederSet feeder setting v high) h ?_
      show State.cmdFeederSet _ _ _ _ _ = _
      rw [cmdFeederSet_eq _ hf, State.fd_opened, (FeederState.sequencing_iff _).mpr hst]
      cases e : (s.fd f).settings.write setting v high with
      | badValue => exact absurd e (hgood _)
      | crossed => rfl
      | written x c => rfl
    · refine exec_writes (c := .feederSet feeder setting v high) h ?_
      show State.cmdFeederSet _ _ _ _ _ = _
      have hseq : (s.fd f).state.sequencing = false := by rcases hst with e | e <;> rw [e] <;> rfl
      have hopen : (s.fd f).state ≠ .closed := by rcases hst with e | e <;> rw [e] <;> nofun
      rw [cmdFeederSet_eq _ hf, State.fd_opened, hseq]
      subst hs
      cases e : (s.fd f).settings.write 0#8 v high with
      | badValue => exact absurd e (hgood _)
      | crossed =>
        have e : writeChoice (reachArg v) _ = .crossed := e
        unfold writeChoice at e
        split at e <;> cases e
      | written x c => exact if_pos (show (0x00#8 : Byte) = 0#8 ∧ _ from ⟨rfl, hopen⟩)
    · refine exec_writes (c := .feederSet feeder setting v high) h ?_
      show State.cmdFeederSet _ _ _ _ _ = _
      have hseq : ¬ (s.fd f).state.sequencing = true := by
        rw [FeederState.sequencing_iff]
        rintro (e | e)
        · exact hn1 e
        · exact hn2 e
      rw [cmdFeederSet_eq _ hf, State.fd_opened, hs, Settings.write_levelWindow, if_pos hcross]
      exact if_neg hseq
  · have bad : ∀ c : Command, namedFeeder c = some feeder →
        exec (rowOf t c) s = .next (s.answered (s.opened t) t (commandCode c) (.refused .badArg)) :=
      fun c hc => exec_writes h (runCommand_badFeeder hf hc)
    exact ⟨bad (.feederOpen _) rfl, bad (.feederClose _) rfl, bad (.feederPause _) rfl, bad (.feederResume _) rfl,
      bad (.strayClear _) rfl, fun _ _ _ => bad (.watchSet ..) rfl, fun _ _ => bad (.admitArrival ..) rfl,
      fun _ _ => bad (.refuse ..) rfl, fun _ _ => bad (.terminalEject ..) rfl, fun _ => bad (.terminalRelevel ..) rfl⟩

/-! ## Opening, pausing and closing a feeder (R28, R36, R39 to R42) -/

theorem State.modFd_opened (s : State) (t : Taking) (f : FeederId) (g : Feeder → Feeder) :
    (s.opened t).modFd f g = (s.opened t).setFd f (g (s.fd f)) := by
  rw [State.modFd, State.fd_opened]

/-- The timing stands still only while both feeders are CLOSED (R28). -/
theorem State.timingRuns_eq (s : State) (f : FeederId) :
    s.timingRuns = (decide ((s.fd f).state ≠ .closed) || decide ((s.fd f.other).state ≠ .closed)) := by
  unfold State.timingRuns
  cases f
  · rfl
  · exact Bool.or_comm _ _

theorem cmdFeederOpen_eq (u : State) (hf : feederArg feeder = some f) : u.cmdFeederOpen feeder =
    match (u.fd f).state with
    | .closed => done (u.openFeeder f)
    | .quieting => refuse u .busy
    | .purging => refuse u .busy
    | .opened => refuse u .wrongState
    | .paused => refuse u .wrongState := by
  unfold State.cmdFeederOpen
  rw [hf] <;> rfl

/-- Settles O20. -/
theorem feederOpenPauseResume : Obligations.FeederOpenPauseResume := by
  refine ⟨fun s t feeder f h hf => ⟨fun hs ho => ?_, fun hs ho => ?_, fun hs => ?_, fun hs => ?_⟩,
    fun s t feeder f h hf => ⟨fun hs => ?_, fun hs => ?_, fun hs => ?_, fun hs => ?_⟩⟩
  · refine exec_writes (c := .feederOpen feeder) h ?_
    have hrun : (s.opened t).timingRuns = true := by
      rw [State.timingRuns_eq _ f, State.fd_opened, State.fd_opened, decide_eq_true ho, Bool.or_true]
    show State.cmdFeederOpen _ _ = _
    rw [cmdFeederOpen_eq _ hf, State.fd_opened, hs, State.openFeeder, if_pos hrun, State.modFd_opened]
    rfl
  · refine exec_writes (c := .feederOpen feeder) h ?_
    have hrun : ¬ (s.opened t).timingRuns = true := by
      rw [State.timingRuns_eq _ f, State.fd_opened, State.fd_opened, hs, ho]
      nofun
    show State.cmdFeederOpen _ _ = _
    rw [cmdFeederOpen_eq _ hf, State.fd_opened, hs, State.openFeeder, if_neg hrun, State.opened_eq]
    cases f <;> rfl
  · refine exec_writes (c := .feederOpen feeder) h ?_
    show State.cmdFeederOpen _ _ = _
    rw [cmdFeederOpen_eq _ hf, State.fd_opened]
    rcases hs with e | e <;> rw [e] <;> rfl
  · refine exec_writes (c := .feederOpen feeder) h ?_
    show State.cmdFeederOpen _ _ = _
    rw [cmdFeederOpen_eq _ hf, State.fd_opened]
    rcases hs with e | e <;> rw [e] <;> rfl
  · refine exec_writes (c := .feederPause feeder) h ?_
    show State.cmdFeederPause _ _ = _
    unfold State.cmdFeederPause
    rw [hf]
    simp only
    rw [State.fd_opened, if_pos hs, State.modFd_opened]
    rfl
  · refine exec_writes (c := .feederPause feeder) h ?_
    show State.cmdFeederPause _ _ = _
    unfold State.cmdFeederPause
    rw [hf]
    simp only
    rw [State.fd_opened, if_neg hs]
    rfl
  · refine exec_writes (c := .feederResume feeder) h ?_
    show State.cmdFeederResume _ _ = _
    unfold State.cmdFeederResume
    rw [hf]
    simp only
    rw [State.fd_opened, if_pos hs, State.modFd_opened]
    rfl
  · refine exec_writes (c := .feederResume feeder) h ?_
    show State.cmdFeederResume _ _ = _
    unfold State.cmdFeederResume
    rw [hf]
    simp only
    rw [State.fd_opened, if_neg hs]
    rfl

/-- The release of a list of records' links writes the plan only. -/
theorem State.releaseLinks_eq (l : List Record) : ∀ s : State,
    l.foldl (fun t r => t.releaseLink r.planLink) s =
      { s with plan := (l.foldl (fun t r => t.releaseLink r.planLink) s).plan } := by
  induction l with
  | nil => exact fun s => rfl
  | cons r l ih =>
    intro s
    rw [List.foldl_cons, ih]
    unfold State.releaseLink
    cases r.planLink <;> rfl

/-- Settles O21: the plan that a close leaves is `State.planAt_releaseLinks`. -/
theorem feederCloseEmptiesFeeder : Obligations.FeederCloseEmptiesFeeder := by
  intro s t feeder f h hf
  have hcmd : ∀ u : State, runCommand (.feederClose feeder) u =
      if (u.fd f).state = .closed then done u else done (u.closeFeeder f) := fun u => by
    show State.cmdFeederClose _ _ = _
    unfold State.cmdFeederClose
    rw [hf]
  refine ⟨fun hs => ?_, fun hs => ?_⟩
  · refine exec_writes (c := .feederClose feeder) h ?_
    rw [hcmd, State.fd_opened, if_pos hs]
    rfl
  · refine ⟨((s.fd f).table.toList.foldl (fun t r => t.releaseLink r.planLink) (s.opened t)).plan,
      exec_writes (c := .feederClose feeder) h ?_, fun i hi => ?_⟩
    · rw [hcmd, State.fd_opened, if_neg hs, State.closeFeeder, State.releaseLinks_eq, State.fd_opened, State.opened_eq]
      cases f <;> rfl
    · have hp := State.planAt_releaseLinks (s.fd f).table.toList (s.opened t) i hi
      rw [State.planAt_opened, State.planAt_eq_getElem _ hi] at hp
      exact hp.trans (by unfold PlanEntry.dropLinks; cases (s.planAt i).kind <;> rfl)

/-! ## WATCH_SET and STRAY_CLEAR (R46, R163, R165, R173) -/

/-- Settles O22. -/
theorem watchSetAndStrayClear : Obligations.WatchSetAndStrayClear := by
  intro s t feeder f h hf
  have hwatch : ∀ mode mask compare m, watchModeArg mode = some m →
      exec (.watchSet t feeder mode mask compare) s =
        .next (s.answered ((s.opened t).setFd f { s.fd f with watch := ⟨m, mask, compare⟩ }) t 0x16#8 (.done [])) := by
    intro mode mask compare m hm
    refine exec_writes (c := .watchSet feeder mode mask compare) h ?_
    show State.cmdWatchSet _ _ _ _ _ = _
    unfold State.cmdWatchSet
    rw [hf, hm]
    simp only
    rw [State.modFd_opened]
    rfl
  have hstray : ∀ u : State, runCommand (.strayClear feeder) u =
      if (u.fd f).stray then done (u.modFd f (·.endHunt)) else done u := fun u => by
    show State.cmdStrayClear _ _ = _
    unfold State.cmdStrayClear
    rw [hf]
  refine ⟨fun mode mask compare => ⟨fun e => hwatch _ _ _ _ (e ▸ rfl), fun e => hwatch _ _ _ _ (e ▸ rfl), fun hm => ?_⟩,
    fun hs => ?_, fun hs => ?_⟩
  · refine exec_writes (c := .watchSet feeder mode mask compare) h ?_
    show State.cmdWatchSet _ _ _ _ _ = _
    unfold State.cmdWatchSet
    rw [hf, watchModeArg_eq_none hm]
    rfl
  · refine exec_writes (c := .strayClear feeder) h ?_
    rw [hstray, State.fd_opened, if_neg (by rw [hs]; nofun)]
    rfl
  · refine exec_writes (c := .strayClear feeder) h ?_
    rw [hstray, State.fd_opened, if_pos hs, State.modFd_opened]
    unfold Feeder.endHunt Feeder.releaseHeld Feeder.endStray
    cases ht : (s.fd f).hunt.target with
    | none => rfl
    | some k =>
      cases hp : (s.fd f).hunt.phase with
      | none => rfl
      | some p => cases p <;> rfl

end

end Sys2Proof.Machine

/-! PROOFS. The plan commands, their refusals and protection, and the profile commands (O23 to O25). -/
namespace Sys2Proof.Machine

open Sys2Proof

section

variable {s u : State} {t : Taking}

/-! ## Argument values and the tests of a plan entry -/

theorem planKindArg_eq_none {b : Byte} (h : 2 ≤ b.toNat) : planKindArg b = none := by
  unfold planKindArg; split
  · omega
  · omega
  · rfl

theorem planKindArg_of_lt {b : Byte} (h : b.toNat < 2) :
    ∃ kind, planKindArg b = some kind ∧ (b = 0x00#8 ↔ kind = .exact) ∧ (b = 0x01#8 ↔ kind = .pattern) := by
  have h : b.toNat = 0 ∨ b.toNat = 1 := by omega
  rcases h with h | h
  · obtain rfl := eq_ofNat_of_toNat h
    exact ⟨.exact, rfl, by decide, by decide⟩
  · obtain rfl := eq_ofNat_of_toNat h
    exact ⟨.pattern, rfl, by decide, by decide⟩

theorem expectedArg_eq_none {b : Byte} (h : 3 ≤ b.toNat) : expectedArg b = none := by
  unfold expectedArg; split
  · omega
  · omega
  · omega
  · rfl

theorem expectedArg_of_lt {b : Byte} (h : b.toNat < 3) : ∃ x, expectedArg b = some x := by
  have h : b.toNat = 0 ∨ b.toNat = 1 ∨ b.toNat = 2 := by omega
  rcases h with h | h | h <;>
  · obtain rfl := eq_ofNat_of_toNat h
    exact ⟨_, rfl⟩

theorem PlanEntry.held_iff (e : PlanEntry) : e.held = true ↔
    e.inUse = true ∧ ((e.kind = .exact ∧ e.claim ≠ none) ∨ (e.kind = .pattern ∧ 0 < e.count.getD 0)) := by
  unfold PlanEntry.held
  rw [Bool.and_eq_true]
  cases e.kind <;> simp [Option.isSome_iff_ne_none, Nat.pos_iff_ne_zero]

/-- Another EXACT entry in use holds the serial (R76, step 6). -/
theorem State.duplicateExact_iff (s : State) (i : Nat) (n : Serial) : s.duplicateExact i n = true ↔
    ∃ j, j < 512 ∧ j ≠ i ∧ (s.planAt j).inUse = true ∧ (s.planAt j).kind = .exact ∧ (s.planAt j).serial = n := by
  unfold State.duplicateExact
  rw [List.any_eq_true]
  refine ⟨fun ⟨⟨e, j⟩, hm, ht⟩ => ?_, fun ⟨j, hj, hne, hu, hk, hn⟩ => ⟨(s.planAt j, j), ?_, ?_⟩⟩
  · obtain ⟨hj, he⟩ := List.mem_zipIdx' hm
    have hj : j < 512 := by simpa using hj
    simp only [Bool.and_eq_true, decide_eq_true_eq] at ht
    obtain ⟨⟨⟨hne, hu⟩, hk⟩, hn⟩ := ht
    have he : s.planAt j = e := by rw [State.planAt_eq_getElem s hj, he]; simp
    rw [← he] at hu hk hn
    exact ⟨j, hj, hne, hu, hk, hn⟩
  · rw [List.mem_zipIdx_iff_getElem?, State.planAt_eq_getElem s hj]
    simp [hj]
  · simp [hne, hu, hk, hn]

theorem FreezeRange.holds_iff (x : FreezeRange) (i : Nat) : x.holds i = true ↔
    match x with
    | .none => False
    | .upper64 => 448 ≤ i
    | .upper128 => 384 ≤ i
    | .upper256 => 256 ≤ i
    | .lower64 => i ≤ 63
    | .lower128 => i ≤ 127
    | .lower256 => i ≤ 255
    | .all => True := by
  cases x <;> simp [FreezeRange.holds] <;> omega

theorem doneClamped_eq (u : State) {b : Bool} {P : Prop} [Decidable P] (h : b = true ↔ P) :
    doneClamped u b = (u, if P then .clamped else .done []) := by
  unfold doneClamped
  by_cases hp : P
  · rw [if_pos hp, if_pos (h.mpr hp)]
  · rw [if_neg hp, if_neg (mt h.mp hp)]

theorem outside_iff (lo hi n : Nat) : outside lo hi n = true ↔ n < lo ∨ hi < n := by
  unfold outside; simp

/-! ## PLAN_WRITE and PLAN_ERASE (R76 to R78) -/

/-- PLAN_WRITE past the guard with every argument assigned. -/
theorem cmdPlanWrite_eq {a : PlanArgs} {kind : PlanKind} {x : Expected} {p : Fin 8} (hg : u.guarded = false)
    (hi : a.index.toNat < 512) (hk : planKindArg a.kind = some kind) (hx : expectedArg a.expected = some x)
    (hp : profileArg a.profile = some p) : u.cmdPlanWrite a =
      if a.flags.getLsbD 1 = true ∧ kind = .exact then refuse u .badArg
      else if u.freeze.holds a.index.toNat then refuse u .frozen
      else if (u.planAt a.index.toNat).claimedAgainst ((u.planAt a.index.toNat).rewrite a kind x p) then refuse u .claimed
      else if kind = .exact ∧ u.duplicateExact a.index.toNat a.serial = true then refuse u .duplicate
      else doneClamped (u.setPlan a.index.toNat ((u.planAt a.index.toNat).rewrite a kind x p))
        (decide (kind = .pattern) && outside 1 255 a.limit.toNat) := by
  unfold State.cmdPlanWrite
  rw [hg, indexArg_of_lt hi, hk, hx, hp]
  rfl

theorem cmdPlanErase_eq {w : Word16} (hg : u.guarded = false) (hi : w.toNat < 512) : u.cmdPlanErase w =
    if u.freeze.holds w.toNat then refuse u .frozen
    else if (u.planAt w.toNat).held then refuse u .claimed
    else done (u.setPlan w.toNat unusedEntry) := by
  unfold State.cmdPlanErase
  rw [hg, indexArg_of_lt hi]
  rfl

theorem State.opened_freeze (s : State) (t : Taking) : (s.opened t).freeze = s.freeze := by rw [State.opened_eq]

theorem State.duplicateExact_opened (s : State) (t : Taking) (i : Nat) (n : Serial) :
    (s.opened t).duplicateExact i n = s.duplicateExact i n := by
  unfold State.duplicateExact; rw [State.opened_plan]

/-- Settles O23. -/
theorem planWriteAndErase : Obligations.PlanWriteAndErase := by
  refine ⟨fun s t a kind x p h hg hi hk hx hp hauto hfree hclaim hdup => ?_, fun s t w h hg hi hfree hheld => ?_⟩
  · refine exec_writes (c := .planWrite a) h ?_
    show State.cmdPlanWrite _ _ = _
    have hnc : ¬ (s.planAt a.index.toNat).claimedAgainst ((s.planAt a.index.toNat).rewrite a kind x p) = true := by
      rw [Bool.not_eq_true, PlanEntry.claimedAgainst_iff]
      exact fun hh => hclaim (((PlanEntry.held_iff _).mp hh).1) ((PlanEntry.held_iff _).mp hh).2
    have hnd : ¬ (kind = .exact ∧ s.duplicateExact a.index.toNat a.serial = true) := by
      rw [State.duplicateExact_iff]
      rintro ⟨he, j, hj, hne, hu, hke, hn⟩
      exact hdup he j hj hne hu hke hn
    rw [cmdPlanWrite_eq (guarded_of_not_guardActs hg) hi hk hx (profileArg_of_eq hp),
      if_neg fun hf => absurd (hauto hf.2) (by rw [hf.1]; nofun), State.opened_freeze, if_neg (by rw [hfree]; nofun),
      State.planAt_opened, if_neg hnc, State.duplicateExact_opened, if_neg hnd]
    refine (doneClamped_eq _ (P := kind = .pattern ∧ (a.limit.toNat < 1 ∨ 255 < a.limit.toNat)) ?_).trans rfl
    rw [Bool.and_eq_true, decide_eq_true_eq, outside_iff]
  · refine exec_writes (c := .planErase w) h ?_
    show State.cmdPlanErase _ _ = _
    have hnh : ¬ (s.planAt w.toNat).held = true := by
      rw [PlanEntry.held_iff]
      rintro ⟨hu, hc | hc⟩
      · exact (hheld hu).1 hc
      · exact (hheld hu).2 hc
    rw [cmdPlanErase_eq (guarded_of_not_guardActs hg) hi, State.opened_freeze, if_neg (by rw [hfree]; nofun),
      State.planAt_opened, if_neg hnh]
    rfl

/-- The arguments of PLAN_WRITE that are refused with BAD_ARG (R76, step 2). -/
theorem cmdPlanWrite_badArg {a : PlanArgs} (hg : u.guarded = false) (hbad : 512 ≤ a.index.toNat ∨ 2 ≤ a.kind.toNat ∨
    3 ≤ a.expected.toNat ∨ 8 ≤ a.profile.toNat ∨ (a.kind = 0x00#8 ∧ a.flags.getLsbD 1 = true)) :
    u.cmdPlanWrite a = (u, .refused .badArg) := by
  unfold State.cmdPlanWrite
  rw [hg, if_neg nofun]
  cases hi : indexArg a.index with
  | none => rfl
  | some i =>
    cases hk : planKindArg a.kind with
    | none => rfl
    | some kind =>
      cases hx : expectedArg a.expected with
      | none => rfl
      | some x =>
        cases hp : profileArg a.profile with
        | none => rfl
        | some p =>
          rcases hbad with h | h | h | h | ⟨h, hf⟩
          · rw [indexArg_eq_none h] at hi; cases hi
          · rw [planKindArg_eq_none h] at hk; cases hk
          · rw [expectedArg_eq_none h] at hx; cases hx
          · rw [profileArg_eq_none h] at hp; cases hp
          · rw [h] at hk
            exact if_pos ⟨hf, (Option.some.inj hk).symm⟩

/-- What is not refused with BAD_ARG is assigned. -/
theorem planArgs_of_not_bad {a : PlanArgs} (h : ¬ (512 ≤ a.index.toNat ∨ 2 ≤ a.kind.toNat ∨ 3 ≤ a.expected.toNat ∨
    8 ≤ a.profile.toNat ∨ (a.kind = 0x00#8 ∧ a.flags.getLsbD 1 = true))) :
    ∃ kind x p, a.index.toNat < 512 ∧ planKindArg a.kind = some kind ∧ expectedArg a.expected = some x ∧
      profileArg a.profile = some p ∧ (a.kind = 0x00#8 ↔ kind = .exact) ∧ (a.kind = 0x01#8 ↔ kind = .pattern) ∧
      ¬ (a.flags.getLsbD 1 = true ∧ kind = .exact) := by
  simp only [not_or, Nat.not_le] at h
  obtain ⟨h1, h2, h3, h4, h5⟩ := h
  obtain ⟨kind, hk, hk0, hk1⟩ := planKindArg_of_lt h2
  obtain ⟨x, hx⟩ := expectedArg_of_lt h3
  exact ⟨kind, x, _, h1, hk, hx, profileArg_of_lt h4, hk0, hk1, fun hc => h5 ⟨hk0.mpr hc.2, hc.1⟩⟩

/-- A write that changes a held entry in what its links rest on is refused (R76, step 5). -/
theorem PlanEntry.claimedAgainst_of_changes {old : PlanEntry} {a : PlanArgs} {kind : PlanKind} {x : Expected} {p : Fin 8}
    (hh : old.held = true) (hx : expectedArg a.expected = some x) (h0 : a.kind = 0x00#8 ↔ kind = .exact)
    (h1 : a.kind = 0x01#8 ↔ kind = .pattern)
    (hc : (a.kind = 0x00#8 ∧ old.kind = .pattern) ∨ (a.kind = 0x01#8 ∧ old.kind = .exact) ∨ a.serial ≠ old.serial ∨
      (a.kind = 0x01#8 ∧ old.mask ≠ some a.mask) ∨ expectedArg a.expected ≠ some old.expected ∨
      (a.kind = 0x01#8 ∧ max 1 (min 255 a.limit.toNat) < old.count.getD 0)) :
    old.claimedAgainst (old.rewrite a kind x p) = true := by
  rw [← Bool.not_eq_false]
  intro hn
  obtain ⟨hkind, hserial, hmask, hexp, hcount⟩ := (PlanEntry.claimedAgainst_iff _ _).mp hn hh
  have hkind : kind = old.kind := hkind
  have hmask : (if kind = .pattern then some a.mask else none) = old.mask := hmask
  have hcount : old.count.getD 0 ≤ (if kind = .pattern then some (clampTo 1 255 a.limit.toNat) else none).getD 255 := hcount
  rcases hc with ⟨ha, ho⟩ | ⟨ha, ho⟩ | ha | ⟨ha, hm⟩ | ha | ⟨ha, hl⟩
  · rw [← hkind, h0.mp ha] at ho; cases ho
  · rw [← hkind, h1.mp ha] at ho; cases ho
  · exact ha hserial
  · rw [if_pos (h1.mp ha)] at hmask; exact hm hmask.symm
  · exact ha (hx.trans (congrArg some hexp))
  · rw [if_pos (h1.mp ha)] at hcount
    exact absurd hl (Nat.not_lt.mpr hcount)

theorem freezeArg_eq_none {b : Byte} (h : 8 ≤ b.toNat) : freezeArg b = none := by
  unfold freezeArg
  split
  case h_9 => rfl
  all_goals omega

theorem freezeArg_of_lt {b : Byte} (h : b.toNat < 8) : freezeArg b = some (match b.toNat with
    | 1 => .upper64
    | 2 => .upper128
    | 3 => .upper256
    | 4 => .lower64
    | 5 => .lower128
    | 6 => .lower256
    | 7 => .all
    | _ => .none) := by
  unfold freezeArg
  interval_cases b.toNat <;> rfl

theorem cmdFreezeSet_eq {b : Byte} (hg : u.guarded = false) : u.cmdFreezeSet b =
    match freezeArg b with
    | none => refuse u .badArg
    | some r => if u.freezeLock then refuse u .locked else done { u with freeze := r } := by
  unfold State.cmdFreezeSet
  rw [hg]
  rfl

theorem cmdGuardSet_eq {b : Byte} (hg : u.guarded = false) : u.cmdGuardSet b =
    match yesNoArg b with
    | none => refuse u .badArg
    | some v => done { u with guardEnable := v } := by
  unfold State.cmdGuardSet
  rw [hg]
  rfl

/-- Settles O24. -/
theorem planRefusalsAndProtection : Obligations.PlanRefusalsAndProtection := by
  refine ⟨fun s t a h hg => ?_, fun s t b h hg => ?_⟩
  · have hg := guarded_of_not_guardActs hg
    have hfr := (s.freeze.holds_iff a.index.toNat)
    have hheld := ((s.planAt a.index.toNat).held_iff)
    refine ⟨fun hbad => ?_, fun hi => ?_, fun hbad hf => ?_, fun hi hf => ?_, fun hbad hf hh hc => ?_, fun hi hf hh => ?_,
      fun hbad hf hh hk hd => ?_⟩
    · exact exec_writes (c := .planWrite a) h (cmdPlanWrite_badArg hg hbad)
    · refine exec_writes (c := .planErase a.index) h ?_
      show State.cmdPlanErase _ _ = _
      unfold State.cmdPlanErase
      rw [hg, indexArg_eq_none hi]
      rfl
    · obtain ⟨kind, x, p, hi, hk, hx, hp, -, -, hb⟩ := planArgs_of_not_bad hbad
      refine exec_writes (c := .planWrite a) h ((cmdPlanWrite_eq hg hi hk hx hp).trans ?_)
      rw [if_neg hb, State.opened_freeze, if_pos (hfr.mpr hf)]
      rfl
    · refine exec_writes (c := .planErase a.index) h ((cmdPlanErase_eq hg hi).trans ?_)
      rw [State.opened_freeze, if_pos (hfr.mpr hf)]
      rfl
    · obtain ⟨kind, x, p, hi, hk, hx, hp, h0, h1, hb⟩ := planArgs_of_not_bad hbad
      refine exec_writes (c := .planWrite a) h ((cmdPlanWrite_eq hg hi hk hx hp).trans ?_)
      rw [if_neg hb, State.opened_freeze, if_neg (mt hfr.mp hf), State.planAt_opened,
        if_pos (PlanEntry.claimedAgainst_of_changes (hheld.mpr hh) hx h0 h1 hc)]
      rfl
    · refine exec_writes (c := .planErase a.index) h ((cmdPlanErase_eq hg hi).trans ?_)
      rw [State.opened_freeze, if_neg (mt hfr.mp hf), State.planAt_opened, if_pos (hheld.mpr hh)]
      rfl
    · obtain ⟨kind, x, p, hi, hka, hx, hp, h0, -, hb⟩ := planArgs_of_not_bad hbad
      have hnc : ¬ (s.planAt a.index.toNat).claimedAgainst ((s.planAt a.index.toNat).rewrite a kind x p) = true := by
        rw [Bool.not_eq_true, PlanEntry.claimedAgainst_iff]
        exact fun hh' => absurd (hheld.mp hh') hh
      refine exec_writes (c := .planWrite a) h ((cmdPlanWrite_eq hg hi hka hx hp).trans ?_)
      rw [if_neg hb, State.opened_freeze, if_neg (mt hfr.mp hf), State.planAt_opened, if_neg hnc,
        if_pos ⟨h0.mp hk, by rw [State.duplicateExact_opened]; exact (s.duplicateExact_iff _ _).mpr hd⟩]
      rfl
  · have hg := guarded_of_not_guardActs hg
    have hlock : (s.opened t).freezeLock = s.freezeLock := by rw [State.opened_eq]
    refine ⟨fun hb => ?_, fun hb hl => ?_, fun hb hl => ?_, ?_, fun hb => ?_, fun hb => ?_, fun hb => ?_⟩
    · refine exec_writes (c := .freezeSet b) h ((cmdFreezeSet_eq hg).trans ?_)
      rw [freezeArg_eq_none hb]
      rfl
    · refine exec_writes (c := .freezeSet b) h ((cmdFreezeSet_eq hg).trans ?_)
      rw [freezeArg_of_lt hb, hlock, hl]
      rfl
    · refine exec_writes (c := .freezeSet b) h ((cmdFreezeSet_eq hg).trans ?_)
      rw [freezeArg_of_lt hb, hlock, hl]
      rfl
    · refine exec_writes (c := .freezeLock) h ?_
      show State.cmdFreezeLock _ = _
      rw [State.cmdFreezeLock, hg]
      rfl
    · subst hb; exact exec_writes (c := .guardSet 0x00#8) h ((cmdGuardSet_eq (b := 0x00#8) hg).trans rfl)
    · subst hb; exact exec_writes (c := .guardSet 0x01#8) h ((cmdGuardSet_eq (b := 0x01#8) hg).trans rfl)
    · refine exec_writes (c := .guardSet b) h ((cmdGuardSet_eq hg).trans ?_)
      rw [yesNoArg_eq_none hb]
      rfl

/-! ## Profiles (R83, R85, R86) -/

theorem policyArg_eq_none {b : Byte} (h : 4 ≤ b.toNat) : policyArg b = none := by
  unfold policyArg
  split
  case h_5 => rfl
  all_goals omega

theorem cmdProfileWrite_eq {a : ProfileArgs} {i : Fin 8} {policy : Policy} (hg : u.guarded = false)
    (hi : a.index.toNat = i.val) (hp : policyArg a.policy = some policy) : u.cmdProfileWrite a =
      if u.profiles[i].locked || u.allLock then refuse u .locked
      else doneClamped (u.setProfile i (u.profiles[i].rewrite a policy)) (profileClamped a) := by
  unfold State.cmdProfileWrite
  rw [hg, profileArg_of_eq hi, hp]
  rfl

theorem writeProfileLock_eq {b : Byte} (hg : u.guarded = false) (locked : Bool) : u.writeProfileLock b locked =
    match profileArg b with
    | none => refuse u .badArg
    | some i => if u.allLock then refuse u .locked else done (u.setProfile i { u.profiles[i] with locked := locked }) := by
  unfold State.writeProfileLock
  rw [hg]
  rfl

theorem profileClamped_iff (a : ProfileArgs) : profileClamped a = true ↔
    4000 < a.dataLength.toNat ∨ (a.dataInterval.toNat < 1 ∨ 64 < a.dataInterval.toNat) ∨
      (a.presence.toNat < 16 ∨ 4096 < a.presence.toNat) ∨ (a.missLimit.toNat < 1 ∨ 15 < a.missLimit.toNat) ∨
      15 < a.grace.toNat := by
  unfold profileClamped
  simp only [Bool.or_eq_true, outside_iff]
  omega

/-- Settles O25. -/
theorem profileWriteAndLocks : Obligations.ProfileWriteAndLocks := by
  refine ⟨fun s t a h hg => ⟨fun hbad => ?_, fun i policy hi hp => ⟨fun hl => ?_, fun hl ha => ?_⟩⟩,
    fun s t b h hg => ⟨fun hb => ?_, fun hb ha => ?_, fun i hi ha => ?_, fun ha => ?_, fun ha => ?_⟩⟩
  · have hg := guarded_of_not_guardActs hg
    refine exec_writes (c := .profileWrite a) h ?_
    show State.cmdProfileWrite _ _ = _
    unfold State.cmdProfileWrite
    rw [hg]
    rcases hbad with hb | hb
    · rw [profileArg_eq_none hb]; rfl
    · rw [policyArg_eq_none hb]
      cases profileArg a.index <;> rfl
  · refine exec_writes (c := .profileWrite a) h ((cmdProfileWrite_eq (guarded_of_not_guardActs hg) hi hp).trans ?_)
    rw [State.opened_eq]
    exact if_pos (Bool.or_eq_true_iff.mpr hl)
  · refine exec_writes (c := .profileWrite a) h ((cmdProfileWrite_eq (guarded_of_not_guardActs hg) hi hp).trans ?_)
    rw [doneClamped_eq _ (profileClamped_iff a), State.opened_eq]
    refine (if_neg ?_).trans ?_
    · show ¬ (s.profiles[i].locked || s.allLock) = true
      rw [hl, ha]
      nofun
    · simp only [State.setProfile, Profile.rewrite, clampTo, Nat.zero_max, hl]
  · have hg := guarded_of_not_guardActs hg
    refine ⟨exec_writes (c := .profileLock b) h ((writeProfileLock_eq hg true).trans ?_),
      exec_writes (c := .profileUnlock b) h ((writeProfileLock_eq hg false).trans ?_)⟩ <;>
    · rw [profileArg_eq_none hb]
      rfl
  · have hg := guarded_of_not_guardActs hg
    have hlock : (s.opened t).allLock = true := by rw [State.opened_eq]; exact ha
    refine ⟨exec_writes (c := .profileLock b) h ((writeProfileLock_eq hg true).trans ?_),
      exec_writes (c := .profileUnlock b) h ((writeProfileLock_eq hg false).trans ?_)⟩ <;>
    · rw [profileArg_of_lt hb]
      exact if_pos hlock
  · have hg := guarded_of_not_guardActs hg
    have hlock : ¬ (s.opened t).allLock = true := by rw [State.opened_eq]; exact Bool.not_eq_true _ ▸ ha
    refine ⟨exec_writes (c := .profileLock b) h ((writeProfileLock_eq hg true).trans ?_),
      exec_writes (c := .profileUnlock b) h ((writeProfileLock_eq hg false).trans ?_)⟩ <;>
    · rw [profileArg_of_eq hi]
      refine (if_neg hlock).trans ?_
      unfold State.setProfile
      rw [State.opened_profiles]
      rfl
  · refine exec_writes (c := .profilesLockAll) h ?_
    show State.cmdProfilesLockAll _ = _
    have hlock : (s.opened t).allLock = true := by rw [State.opened_eq]; exact ha
    rw [State.cmdProfilesLockAll, guarded_of_not_guardActs hg, hlock]
    rfl
  · refine exec_writes (c := .profilesLockAll) h ?_
    show State.cmdProfilesLockAll _ = _
    have hlock : (s.opened t).allLock = false := by rw [State.opened_eq]; exact ha
    rw [State.cmdProfilesLockAll, guarded_of_not_guardActs hg, hlock]
    rfl

end

end Sys2Proof.Machine

/-! PROOFS. The commands of arrivals, terminals and the Bar List (O26 to O30). -/
namespace Sys2Proof.Machine

open Sys2Proof

section

variable {s u : State} {t : Taking} {f : FeederId} {feeder : Byte}

theorem State.isBarred_opened (s : State) (t : Taking) (n : Serial) : (s.opened t).isBarred n = s.isBarred n := by
  unfold State.isBarred; rw [State.opened_bars]

theorem Feeder.missingReason_eq (fd : Feeder) (n : Serial) :
    fd.missingReason n = if n ∈ fd.expired then .tooLate else .notFound := by
  unfold Feeder.missingReason
  have h : (fd.expired.any fun x => decide (x = n)) = true ↔ n ∈ fd.expired := by simp
  by_cases hn : n ∈ fd.expired
  · rw [if_pos hn, if_pos (h.mpr hn)]
  · rw [if_neg hn, if_neg (mt h.mp hn)]

/-! ## ADMIT (R96) -/

theorem cmdAdmit_eq {profile : Byte} {n : Serial} {p : Fin 8} (u : State) (hf : feederArg feeder = some f)
    (hp : profileArg profile = some p) : u.cmdAdmit feeder n profile =
      if u.isBarred n then refuse u .barred
      else
        match (u.fd f).arrivals.find? fun a => decide (a.serial = n) with
        | none => refuse u ((u.fd f).missingReason n)
        | some a =>
          match a.status with
          | .held _ _ => done (u.modFd f (·.readyArrival n p))
          | _ => refuse u .wrongState := by
  unfold State.cmdAdmit
  rw [hf, hp] <;> rfl

theorem find?_serial_split {before after : List Arrival} {a : Arrival} {n : Serial} (ha : a.serial = n)
    (hb : ∀ x ∈ before, x.serial ≠ n) :
    (before ++ a :: after).find? (fun x => decide (x.serial = n)) = some a := by
  rw [List.find?_append, List.find?_eq_none.mpr fun x hx => by simpa using hb x hx]
  simp [ha]

theorem Feeder.readyArrival_split {fd : Feeder} {before after : List Arrival} {a : Arrival} {n : Serial} (p : Fin 8)
    (hl : fd.arrivals = before ++ a :: after) (ha : a.serial = n) (hn : ∀ x ∈ before ++ after, x.serial ≠ n) :
    fd.readyArrival n p = { fd with arrivals := before ++ { a with status := .readyCommand p } :: after } := by
  have hid : ∀ l : List Arrival, (∀ x ∈ l, x.serial ≠ n) →
      l.map (fun a => if a.serial = n then { a with status := .readyCommand p } else a) = l := fun l h =>
    (List.map_congr_left fun x hx => if_neg (h x hx)).trans (List.map_id' l)
  unfold Feeder.readyArrival
  rw [hl, List.map_append, List.map_cons, if_pos ha, hid before fun x hx => hn x (List.mem_append_left _ hx),
    hid after fun x hx => hn x (List.mem_append_right _ hx)]

/-- Settles O26. -/
theorem admitReadiesHeldArrival : Obligations.AdmitReadiesHeldArrival := by
  intro s t feeder profile n f h hf
  have hbarred := s.isBarred_iff n
  have hcmd := fun (p : Fin 8) (hp : profileArg profile = some p) => cmdAdmit_eq (n := n) (s.opened t) hf hp
  simp only [State.isBarred_opened, State.fd_opened] at hcmd
  refine ⟨fun hp => ?_, fun hp hb => ?_, fun p hp hb => ⟨fun before a after reason m hl ha hst hn => ?_,
    fun before a after hl ha hn hst => ?_, fun hn => ?_⟩⟩
  · refine exec_writes (c := .admitArrival feeder n profile) h ?_
    show State.cmdAdmit _ _ _ _ = _
    unfold State.cmdAdmit
    rw [hf, profileArg_eq_none hp]
    rfl
  · refine exec_writes (c := .admitArrival feeder n profile) h ((hcmd _ (profileArg_of_lt hp)).trans ?_)
    rw [if_pos (hbarred.mpr hb)]
    rfl
  · refine exec_writes (c := .admitArrival feeder n profile) h ((hcmd _ (profileArg_of_eq hp)).trans ?_)
    rw [if_neg (mt hbarred.mp hb), hl, find?_serial_split ha fun x hx => hn x (List.mem_append_left _ hx)]
    simp only [hst]
    rw [State.modFd_opened, Feeder.readyArrival_split p hl ha hn]
    rfl
  · refine exec_writes (c := .admitArrival feeder n profile) h ((hcmd _ (profileArg_of_eq hp)).trans ?_)
    rw [if_neg (mt hbarred.mp hb), hl, find?_serial_split ha hn]
    cases e : a.status with
    | held reason m => exact absurd e (hst reason m)
    | readyPlan p' => simp only [e]; rfl
    | readyCommand p' => simp only [e]; rfl
  · refine exec_writes (c := .admitArrival feeder n profile) h ((hcmd _ (profileArg_of_eq hp)).trans ?_)
    rw [if_neg (mt hbarred.mp hb), List.find?_eq_none.mpr fun x hx => by simpa using hn x hx,
      Feeder.missingReason_eq]
    rfl

/-! ## REFUSE (R97) -/

theorem cmdRefuse_eq {bar : Byte} {n : Serial} {b : Bool} (u : State) (hf : feederArg feeder = some f)
    (hb : yesNoArg bar = some b) : u.cmdRefuse feeder n bar =
      if u.isBarred n then refuse u .barred
      else if (u.fd f).arrivals.any fun a => decide (a.serial = n) then
        done (if b then (u.modFd f (·.dropArrival n)).bar n else u.modFd f (·.dropArrival n))
      else refuse u ((u.fd f).missingReason n) := by
  unfold State.cmdRefuse
  rw [hf, hb]

theorem Feeder.dropArrival_dropArrival (fd : Feeder) (n : Serial) : (fd.dropArrival n).dropArrival n = fd.dropArrival n := by
  unfold Feeder.dropArrival
  simp

/-- A serial barred, after its arrivals have left one of the lists. -/
theorem State.bar_modFd_dropArrival (u : State) (f : FeederId) (n : Serial) :
    (u.modFd f (·.dropArrival n)).bar n = u.bar n := by
  cases f
  · exact congrArg (fun x => { u.bar n with feederA := x }) (u.feederA.dropArrival_dropArrival n)
  · exact congrArg (fun x => { u.bar n with feederB := x }) (u.feederB.dropArrival_dropArrival n)

/-- Settles O27. -/
theorem refuseRemovesArrival : Obligations.RefuseRemovesArrival := by
  intro s t feeder bar n f h hf
  have hbarred := s.isBarred_iff n
  have hany : ((s.fd f).arrivals.any fun a => decide (a.serial = n)) = true ↔ ∃ a ∈ (s.fd f).arrivals, a.serial = n := by
    simp
  have hcmd := fun (b : Bool) (hb : yesNoArg bar = some b) => cmdRefuse_eq (n := n) (s.opened t) hf hb
  simp only [State.isBarred_opened, State.fd_opened, State.bar_modFd_dropArrival] at hcmd
  refine ⟨fun hb => ?_, fun hb hbar => ?_, fun hb hbar hno => ?_, fun hbar ha => ⟨fun hb => ?_, fun hb => ?_⟩⟩
  · refine exec_writes (c := .refuse feeder n bar) h ?_
    show State.cmdRefuse _ _ _ _ = _
    unfold State.cmdRefuse
    rw [hf, yesNoArg_eq_none hb]
    rfl
  · obtain ⟨v, hv⟩ := yesNoArg_of_lt hb
    refine exec_writes (c := .refuse feeder n bar) h ((hcmd v hv).trans ?_)
    rw [if_pos (hbarred.mpr hbar)]
    rfl
  · obtain ⟨v, hv⟩ := yesNoArg_of_lt hb
    refine exec_writes (c := .refuse feeder n bar) h ((hcmd v hv).trans ?_)
    rw [if_neg (mt hbarred.mp hbar), if_neg (mt hany.mp fun ⟨a, ha, e⟩ => hno a ha e), Feeder.missingReason_eq]
    rfl
  · subst hb
    refine exec_writes (c := .refuse feeder n 0x00#8) h ((hcmd false rfl).trans ?_)
    rw [if_neg (mt hbarred.mp hbar), if_pos (hany.mpr ha), State.modFd_opened]
    rfl
  · subst hb
    refine exec_writes (c := .refuse feeder n 0x01#8) h ((hcmd true rfl).trans ?_)
    rw [if_neg (mt hbarred.mp hbar), if_pos (hany.mpr ha), State.opened_eq]
    rfl

/-! ## TERMINAL_EJECT and TERMINAL_RELEVEL (R12, R13, R18, R130, R164, R193) -/

theorem RecState.active_iff (x : RecState) : x.active = true ↔ x ≠ .free ∧ x ≠ .ejected := by
  cases x <;> simp [RecState.active]

/-- The ejected record, with what its terminal is told (R12, R13). -/
theorem Feeder.ejectRecord_eq (fd : Feeder) (h : Nat) (reason : EjectReason) :
    fd.ejectRecord h reason =
      if (fd.record h).state = .named then
        { (fd.setRecord h { fd.record h with
            state := .ejected, ejectReason := some reason, owed := none, drain := some 4 }) with
          ordinary := fd.ordinary.filter fun q => decide (q.handle ≠ h) }
      else
        Feeder.offerUrgent { (fd.setRecord h { fd.record h with
            state := .ejected, ejectReason := some reason, owed := none, drain := none }) with
          ordinary := fd.ordinary.filter fun q => decide (q.handle ≠ h) } h (.eject reason) := by
  by_cases hn : (fd.record h).state = .named
  · simp [Feeder.ejectRecord, Feeder.removeOrdinary, Feeder.modRecord, Record.ejectFor, hn]
  · simp [Feeder.ejectRecord, Feeder.removeOrdinary, Feeder.modRecord, Record.ejectFor, hn]

theorem Feeder.ejectRecord_hunt (fd : Feeder) (h : Nat) (reason : EjectReason) :
    (fd.ejectRecord h reason).hunt = fd.hunt := by
  rw [Feeder.ejectRecord_eq]
  split
  · simp
  · exact (Feeder.talked_offerUrgent _ h _).hunt.trans (by simp)

/-- The notice EJECTED raised over a feeder that has lost a record's terminal (R18). -/
def State.noteEjected (s : State) (f : FeederId) (h : Nat) (reason : EjectReason) (fd : Feeder) : State :=
  (s.setFd f fd).raise .ejected
    { feeder := some f, handle := some h, serial := (s.record f h).serial
      dwelling := (s.record f h).planLink.map fun i => (s.planAt i).dwelling, reason := some (.eject reason) }

/-- The ejection of an active record: the hunt chooses anew when it was its target (R12, R13, R18, R164). -/
theorem State.eject_active (s : State) (f : FeederId) (h : Nat) (reason : EjectReason)
    (ha : (s.record f h).state.active = true) :
    ((s.fd f).hunt.target ≠ some h → s.eject f h reason = s.noteEjected f h reason ((s.fd f).ejectRecord h reason)) ∧
      ((s.fd f).hunt.target = some h → HuntChooses (s.noteEjected f h reason { (s.fd f).ejectRecord h reason with
        hunt := { (s.fd f).hunt with target := none, phase := none, hushCycle := none, watchCd := 0 } }) f
        (s.eject f h reason)) := by
  have he : s.eject f h reason = (s.noteEjected f h reason ((s.fd f).ejectRecord h reason)).huntEjected f h := if_pos ha
  have hh : ((s.noteEjected f h reason ((s.fd f).ejectRecord h reason)).fd f).hunt = (s.fd f).hunt := by
    unfold State.noteEjected
    rw [State.fd_raise, State.fd_setFd, Feeder.ejectRecord_hunt]
  rw [he]
  unfold State.huntEjected
  rw [hh]
  refine ⟨fun ht => if_neg ht, fun ht => ?_⟩
  rw [if_pos ht]
  have e : (s.noteEjected f h reason ((s.fd f).ejectRecord h reason)).modFd f (fun fd => { fd with
      hunt := { fd.hunt with target := none, phase := none, hushCycle := none, watchCd := 0 } }) =
      s.noteEjected f h reason { (s.fd f).ejectRecord h reason with
        hunt := { (s.fd f).hunt with target := none, phase := none, hushCycle := none, watchCd := 0 } } := by
    unfold State.noteEjected
    rw [State.modFd_raise, State.modFd, State.fd_setFd, State.setFd_setFd, Feeder.ejectRecord_hunt]
  rw [e]
  exact State.chooseTarget_spec _ f

theorem State.noteEjected_opened (s : State) (t : Taking) (f : FeederId) (h : Nat) (reason : EjectReason) (fd : Feeder) :
    (s.opened t).noteEjected f h reason fd = ((s.opened t).setFd f fd).raise .ejected
      { feeder := some f, handle := some h, serial := ((s.fd f).record h).serial
        dwelling := ((s.fd f).record h).planLink.map fun i => (s.planAt i).dwelling, reason := some (.eject reason) } := by
  unfold State.noteEjected State.record
  simp only [State.fd_opened, State.planAt_opened]

theorem cmdTerminalEject_eq {handle bar : Byte} {b : Bool} (u : State) (hf : feederArg feeder = some f)
    (hh : handle.toNat ≠ 0) (hb : yesNoArg bar = some b) : u.cmdTerminalEject feeder handle bar =
      match (u.record f handle.toNat).state with
      | .free => refuse u .notFound
      | .ejected => if b then done (u.barHeld (u.record f handle.toNat).serial) else refuse u .wrongState
      | _ => done (if b then u.ejectAndBar f handle.toNat .ordered else u.eject f handle.toNat .ordered) := by
  unfold State.cmdTerminalEject
  rw [hf, handleArg_of_ne hh, hb] <;> rfl

/-- TERMINAL_EJECT of an active record, with and without the bar choice. -/
theorem cmdTerminalEject_active {handle bar : Byte} {b : Bool} (u : State) (hf : feederArg feeder = some f)
    (hh : handle.toNat ≠ 0) (hb : yesNoArg bar = some b) (ha : (u.record f handle.toNat).state.active = true) :
    u.cmdTerminalEject feeder handle bar =
      done (if b then (u.eject f handle.toNat .ordered).barHeld (u.record f handle.toNat).serial
        else u.eject f handle.toNat .ordered) := by
  rw [cmdTerminalEject_eq u hf hh hb]
  cases e : (u.record f handle.toNat).state <;> rw [e] at ha <;> cases ha <;> rfl

theorem cmdTerminalRelevel_eq {handle : Byte} (u : State) (hf : feederArg feeder = some f)
    (hh : handle.toNat ≠ 0) : u.cmdTerminalRelevel feeder handle =
      match (u.record f handle.toNat).state with
      | .free => refuse u .notFound
      | .inService => done (u.modRecord f handle.toNat fun r => { r with walking := true, levelRun := 0 })
      | .levelling => done u
      | _ => refuse u .wrongState := by
  unfold State.cmdTerminalRelevel
  rw [hf, handleArg_of_ne hh] <;> rfl

/-- Settles O28. -/
theorem terminalEjectAndRelevel : Obligations.TerminalEjectAndRelevel := by
  refine ⟨fun s t feeder handle bar f h hf hh hb => ?_, fun s t feeder handle bar f h hf => ⟨fun hbad => ?_, fun h0 => ?_,
    fun hh => ⟨fun hs => ?_, fun hs => ?_, fun hs => ?_, fun h1 h2 h3 => ?_⟩⟩⟩
  · obtain ⟨b, hv⟩ := yesNoArg_of_lt hb
    have hcmd := cmdTerminalEject_eq (s.opened t) hf hh hv
    rw [State.record_opened] at hcmd
    have hact : ∀ v, ((s.fd f).record handle.toNat).state ≠ .free → ((s.fd f).record handle.toNat).state ≠ .ejected →
        (s.opened t).eject f handle.toNat .ordered = v →
        (bar = 0x00#8 → exec (.terminalEject t feeder handle bar) s = .next (s.answered v t 0x52#8 (.done []))) ∧
          (bar = 0x01#8 → ∀ serial, ((s.fd f).record handle.toNat).serial = some serial →
            exec (.terminalEject t feeder handle bar) s = .next (s.answered (v.bar serial) t 0x52#8 (.done []))) := by
      intro v h1 h2 hv'
      have ha : ((s.opened t).record f handle.toNat).state.active = true := by
        rw [State.record_opened]
        exact (RecState.active_iff _).mpr ⟨h1, h2⟩
      refine ⟨fun e => ?_, fun e serial hser => ?_⟩
      · subst e
        refine exec_writes (c := .terminalEject feeder handle 0x00#8) h
          ((cmdTerminalEject_active (bar := 0x00#8) (b := false) _ hf hh rfl ha).trans ?_)
        rw [hv']
        rfl
      · subst e
        refine exec_writes (c := .terminalEject feeder handle 0x01#8) h
          ((cmdTerminalEject_active (bar := 0x01#8) (b := true) _ hf hh rfl ha).trans ?_)
        have hser : (s.record f handle.toNat).serial = some serial := hser
        rw [hv', State.record_opened, hser]
        rfl
    have hej := fun h1 h2 => State.eject_active (s.opened t) f handle.toNat .ordered
      (by rw [State.record_opened]; exact (RecState.active_iff _).mpr ⟨h1, h2⟩)
    simp only [State.fd_opened, State.noteEjected_opened, Feeder.ejectRecord_eq] at hej
    refine ⟨fun hs => ?_, fun hs e => ?_, fun hs serial hser e => ?_, fun h1 h2 ht => ?_, fun h1 h2 ht => ?_⟩
    · refine exec_writes (c := .terminalEject feeder handle bar) h (hcmd.trans ?_)
      have hs : (s.record f handle.toNat).state = .free := hs
      rw [hs]
      rfl
    · subst e
      obtain rfl := Option.some.inj hv
      refine exec_writes (c := .terminalEject feeder handle 0x00#8) h (hcmd.trans ?_)
      have hs : (s.record f handle.toNat).state = .ejected := hs
      rw [hs]
      rfl
    · subst e
      obtain rfl := Option.some.inj hv
      refine exec_writes (c := .terminalEject feeder handle 0x01#8) h (hcmd.trans ?_)
      have hs : (s.record f handle.toNat).state = .ejected := hs
      have hser : (s.record f handle.toNat).serial = some serial := hser
      rw [hs, hser]
      rfl
    · exact hact _ h1 h2 ((hej h1 h2).1 ht)
    · exact ⟨_, (hej h1 h2).2 ht, hact _ h1 h2 rfl⟩
  · refine exec_writes (c := .terminalEject feeder handle bar) h ?_
    show State.cmdTerminalEject _ _ _ _ = _
    unfold State.cmdTerminalEject
    rw [hf]
    rcases hbad with hb | hb
    · rw [handleArg_of_eq hb]
      rfl
    · rw [yesNoArg_eq_none hb]
      cases handleArg handle <;> rfl
  · refine exec_writes (c := .terminalRelevel feeder handle) h ?_
    show State.cmdTerminalRelevel _ _ _ = _
    unfold State.cmdTerminalRelevel
    rw [hf, handleArg_of_eq h0]
    rfl
  · refine exec_writes (c := .terminalRelevel feeder handle) h ((cmdTerminalRelevel_eq _ hf hh).trans ?_)
    rw [State.record_opened, hs]
    rfl
  · refine exec_writes (c := .terminalRelevel feeder handle) h ((cmdTerminalRelevel_eq _ hf hh).trans ?_)
    rw [State.modRecord_eq, State.record_opened, State.fd_opened, hs]
    rfl
  · refine exec_writes (c := .terminalRelevel feeder handle) h ((cmdTerminalRelevel_eq _ hf hh).trans ?_)
    rw [State.record_opened, hs]
    rfl
  · refine exec_writes (c := .terminalRelevel feeder handle) h ((cmdTerminalRelevel_eq _ hf hh).trans ?_)
    rw [State.record_opened]
    cases e : (s.record f handle.toNat).state with
    | free => exact absurd e h1
    | inService => exact absurd e h2
    | levelling => exact absurd e h3
    | named | confirming | probing | suspect | huntHeld | hushed | ejected => rfl

/-! ## The Bar List (R22 to R26, R194, R195) -/

theorem State.heldActive_iff (s : State) (n : Serial) : s.heldActive n = true ↔
    ∃ f h, 1 ≤ h ∧ h ≤ 255 ∧ (s.record f h).serial = some n ∧ (s.record f h).state ≠ .free ∧
      (s.record f h).state ≠ .ejected := by
  have hside : ∀ fd : Feeder, (fd.table.toList.any fun r => r.state.active && decide (r.serial = some n)) = true ↔
      ∃ h, 1 ≤ h ∧ h ≤ 255 ∧ (fd.record h).serial = some n ∧ (fd.record h).state ≠ .free ∧ (fd.record h).state ≠ .ejected := by
    intro fd
    rw [List.any_eq_true]
    refine ⟨fun ⟨r, hr, ht⟩ => ?_, fun ⟨h, h1, h2, h3, h4⟩ => ⟨fd.record h, (fd.mem_table _).mpr ⟨h, h1, h2, rfl⟩, ?_⟩⟩
    · obtain ⟨h, h1, h2, rfl⟩ := (fd.mem_table r).mp hr
      rw [Bool.and_eq_true, decide_eq_true_eq, RecState.active_iff] at ht
      exact ⟨h, h1, h2, ht.2, ht.1⟩
    · rw [Bool.and_eq_true, decide_eq_true_eq, RecState.active_iff]
      exact ⟨h4, h3⟩
  refine (Bool.or_eq_true_iff.trans (or_congr (hside s.feederA) (hside s.feederB))).trans ⟨?_, ?_⟩
  · rintro (⟨h, hh⟩ | ⟨h, hh⟩)
    · exact ⟨.A, h, hh⟩
    · exact ⟨.B, h, hh⟩
  · rintro ⟨f, h, hh⟩
    cases f
    · exact .inl ⟨h, hh⟩
    · exact .inr ⟨h, hh⟩

theorem State.heldActive_opened (s : State) (t : Taking) (n : Serial) : (s.opened t).heldActive n = s.heldActive n := by
  rw [State.opened_eq]; rfl

/-- A serial on the list keeps its place and is reloaded (R25, step 1). -/
theorem addBar_of_split {before after : List BarEntry} {b : BarEntry} {n : Serial} (hold : Nat) (hb : b.serial = n)
    (hn : ∀ x ∈ before ++ after, x.serial ≠ n) : addBar (before ++ b :: after) n hold =
      before ++ { serial := n, countdown := hold } :: after := by
  have hid : ∀ l : List BarEntry, (∀ x ∈ l, x.serial ≠ n) →
      l.map (fun b => if b.serial = n then { b with countdown := hold } else b) = l := fun l h =>
    (List.map_congr_left fun x hx => if_neg (h x hx)).trans (List.map_id' l)
  unfold addBar
  rw [if_pos (by simp [hb]), List.map_append, List.map_cons, if_pos hb, hb,
    hid before fun x hx => hn x (List.mem_append_left _ hx), hid after fun x hx => hn x (List.mem_append_right _ hx)]

/-- A serial not on the list joins it, behind the entry that a full list gives up (R25, steps 2 and 3). -/
theorem addBar_of_fresh {bars : List BarEntry} {n : Serial} (hold : Nat) (hn : ∀ b ∈ bars, b.serial ≠ n) :
    addBar bars n hold =
      (if bars.length < 32 then bars else bars.eraseIdx (barVictim bars)) ++ [{ serial := n, countdown := hold }] := by
  unfold addBar
  rw [if_neg (by simpa using hn)]
  rfl

/-- The oldest of the entries with the smallest countdown (R25, step 2). -/
theorem barVictim_split {before after : List BarEntry} {b : BarEntry} (hb : ∀ x ∈ before, b.countdown < x.countdown)
    (ha : ∀ x ∈ after, b.countdown ≤ x.countdown) : barVictim (before ++ b :: after) = before.length := by
  unfold barVictim
  rw [List.findIdx_append, List.findIdx_eq_length_of_false, if_neg (Nat.lt_irrefl _), List.findIdx_cons]
  · have hall : ((before ++ b :: after).all fun c => decide (b.countdown ≤ c.countdown)) = true := by
      rw [List.all_eq_true]
      intro x hx
      rw [decide_eq_true_eq]
      rcases List.mem_append.mp hx with hx | hx
      · exact (hb x hx).le
      · rcases List.mem_cons.mp hx with rfl | hx
        · exact le_refl _
        · exact ha x hx
    rw [hall]
    simp
  · intro x hx
    rw [List.all_eq_false]
    exact ⟨b, by simp, by simpa using hb x hx⟩

theorem State.bar_of_addBar (s : State) (n : Serial) {l : List BarEntry} (h : addBar s.bars n s.barHold = l) :
    s.bar n = { s with
      bars := l
      feederA := { s.feederA with arrivals := s.feederA.arrivals.filter fun a => decide (a.serial ≠ n) }
      feederB := { s.feederB with arrivals := s.feederB.arrivals.filter fun a => decide (a.serial ≠ n) } } := by
  subst h
  rfl

/-- BAR_HOLD as BAR_ADD leaves it. -/
def barHoldOf (old : Nat) (hold : Option Word16) : Nat :=
  match hold with
  | none => old
  | some v => max 1024 (min 65535 v.toNat)

/-- How BAR_ADD answers. -/
def barAddResult (hold : Option Word16) : CmdResult :=
  match hold with
  | none => .done []
  | some v => if v.toNat < 1024 then .clamped else .done []

theorem cmdBarAdd_accepted (s : State) (t : Taking) {serial : Option Serial} (hold : Option Word16)
    (h1 : ¬ (serial = none ∧ hold = none)) (h2 : ¬ serial.any (s.opened t).heldActive = true) :
    (s.opened t).cmdBarAdd serial hold =
      ({ s.opened t with barHold := barHoldOf s.barHold hold }.barHeld serial, barAddResult hold) := by
  have hhold : (s.opened t).writeBarHold hold = { s.opened t with barHold := barHoldOf s.barHold hold } := by
    rw [State.opened_eq]
    cases hold <;> rfl
  have hresult : ∀ u : State, doneClamped u (hold.any fun v => outside 1024 65535 v.toNat) = (u, barAddResult hold) := by
    intro u
    cases hold with
    | none => rfl
    | some v =>
      refine doneClamped_eq u ((outside_iff 1024 65535 v.toNat).trans ?_)
      have := v.isLt
      omega
  rw [State.cmdBarAdd, if_neg h1, if_neg h2, hresult, hhold]

/-- Settles O29. -/
theorem barAddHoldsAndBars : Obligations.BarAddHoldsAndBars := by
  refine ⟨fun s t serial hold h => ⟨fun h1 h2 => ?_, fun hc => ?_, fun hc hsome => ?_⟩,
    fun s n => ⟨fun before b after hl hb hn => ?_, fun hn hlt => ?_, fun hn hge before b after hl hb ha => ?_⟩⟩
  · subst h1 h2
    exact exec_writes (c := .barAdd none none) h rfl
  · obtain ⟨n, f, k, rfl, hk⟩ := hc
    refine exec_writes (c := .barAdd (some n) hold) h ?_
    show State.cmdBarAdd _ _ _ = _
    have hheld : ((some n).any (s.opened t).heldActive) = true :=
      (State.heldActive_opened s t n).trans ((s.heldActive_iff n).mpr ⟨f, k, hk⟩)
    rw [State.cmdBarAdd, if_neg fun h => absurd h.1 nofun, if_pos hheld]
    rfl
  · have h1 : ¬ (serial = none ∧ hold = none) := fun h => hsome.elim (fun e => e h.1) fun e => e h.2
    refine exec_writes (c := .barAdd serial hold) h ((cmdBarAdd_accepted s t hold h1 fun hheld => ?_).trans
      (by cases serial <;> rfl))
    cases serial with
    | none => cases hheld
    | some n =>
      have hheld : (s.opened t).heldActive n = true := hheld
      rw [State.heldActive_opened, State.heldActive_iff] at hheld
      obtain ⟨f, k, hk⟩ := hheld
      exact hc ⟨n, f, k, rfl, hk⟩
  · exact s.bar_of_addBar n (by rw [hl]; exact addBar_of_split _ hb hn)
  · exact s.bar_of_addBar n (by rw [addBar_of_fresh _ hn, if_pos hlt])
  · refine s.bar_of_addBar n ?_
    rw [addBar_of_fresh _ hn, if_neg (Nat.not_lt.mpr hge), hl, barVictim_split hb ha,
      List.eraseIdx_append_of_length_le (le_refl _), Nat.sub_self]
    rfl

/-- Settles O30. -/
theorem barRemoveTakesEntry : Obligations.BarRemoveTakesEntry := by
  intro s t n h
  refine ⟨fun hh => ?_, fun hh hn => ?_, fun hh before b after hl hb hn => ?_⟩
  · have e := exec_rowOf t (.barRemove n) s
    exact e.trans (State.takeCommand_inHoldover h hh rfl)
  · refine exec_writes (c := .barRemove n) ⟨h, hh⟩ ?_
    have hnb : ¬ (s.opened t).isBarred n = true := by
      rw [State.isBarred_opened, State.isBarred_iff]
      rintro ⟨b, hb, e⟩
      exact hn b hb e
    exact (if_neg hnb : State.cmdBarRemove _ _ = _)
  · refine exec_writes (c := .barRemove n) ⟨h, hh⟩ ?_
    have hb' : (s.opened t).isBarred n = true := by
      rw [State.isBarred_opened, State.isBarred_iff]
      exact ⟨b, by rw [hl]; simp, hb⟩
    have hfilter : s.bars.filter (fun b => decide (b.serial ≠ n)) = before ++ after := by
      have hkeep : ∀ l : List BarEntry, (∀ x ∈ l, x.serial ≠ n) → l.filter (fun b => decide (b.serial ≠ n)) = l :=
        fun l h => List.filter_eq_self.mpr fun x hx => decide_eq_true (h x hx)
      rw [hl, List.filter_append, List.filter_cons_of_neg (by simpa using hb),
        hkeep before fun x hx => hn x (List.mem_append_left _ hx), hkeep after fun x hx => hn x (List.mem_append_right _ hx)]
    refine (if_pos hb' : State.cmdBarRemove _ _ = _).trans ?_
    rw [State.opened_bars, hfilter]
    rfl

end

end Sys2Proof.Machine

/-! PROOFS. The encodings of section 11.2 read back, and the taking of a management frame (O9 to O11). -/
namespace Sys2Proof.Machine

open Sys2Proof

/-! ## Numbers as bytes -/

theorem length_beBytes (k n : Nat) : (beBytes k n).length = k := by
  induction k with
  | zero => rfl
  | succ k ih => rw [beBytes, List.length_cons, ih]

theorem foldl_beBytes (k n acc : Nat) :
    (beBytes k n).foldl (fun acc (b : Byte) => acc * 256 + b.toNat) acc = acc * 256 ^ k + n % 256 ^ k := by
  induction k generalizing acc with
  | zero => simp [beBytes, Nat.mod_one]
  | succ k ih =>
    rw [beBytes, List.foldl_cons, ih, BitVec.toNat_ofNat, Nat.mod_pow_succ (b := 256), Nat.pow_succ]
    ring

theorem beNat_beBytes (k n : Nat) : beNat (beBytes k n) = n % 256 ^ k := by
  rw [beNat, foldl_beBytes, Nat.zero_mul, Nat.zero_add]

theorem ofNat_beNat_beBytes {k : Nat} (v : BitVec (8 * k)) : BitVec.ofNat (8 * k) (beNat (beBytes k v.toNat)) = v := by
  have hlt : v.toNat < 256 ^ k := by
    have := v.isLt
    rw [Nat.pow_mul] at this
    exact this
  rw [beNat_beBytes, Nat.mod_eq_of_lt hlt, BitVec.ofNat_toNat, BitVec.setWidth_eq]

/-! ## Readers -/

/-- A reader takes exactly these bytes for this value, and nothing shorter. -/
structure Reads {α : Type} (read : Bytes → Option (α × Bytes)) (enc : Bytes) (a : α) : Prop where
  whole : ∀ extra, read (enc ++ extra) = some (a, extra)
  short : ∀ k, k < enc.length → read (enc.take k) = none

/-- A parser reads these bytes as this value, whatever stands behind them, and nothing shorter. -/
structure Parses {α : Type} (parse : Bytes → Option α) (enc : Bytes) (a : α) : Prop where
  whole : ∀ extra, parse (enc ++ extra) = some a
  short : ∀ k, k < enc.length → parse (enc.take k) = none

theorem parses_pure {α : Type} (a : α) : Parses (fun _ => some a) [] a := ⟨fun _ => rfl, nofun⟩

/-- A reader, then a parser of what is left. -/
theorem Parses.bind {α β : Type} {read : Bytes → Option (α × Bytes)} {rest : α × Bytes → Option β} {e e' : Bytes} {a : α}
    {b : β} (h : Reads read e a) (h' : Parses (fun bs => rest (a, bs)) e' b) :
    Parses (fun bs => (read bs).bind rest) (e ++ e') b where
  whole extra := by
    simp only [List.append_assoc, h.whole, Option.bind_some]
    exact h'.whole extra
  short k hk := by
    rw [List.length_append] at hk
    by_cases hlt : k < e.length
    · simp only [List.take_append_of_le_length hlt.le, h.short k hlt, Option.bind_none]
    · have ht : (e ++ e').take k = e ++ e'.take (k - e.length) := by
        rw [List.take_append, List.take_of_length_le (Nat.not_lt.mp hlt)]
      simp only [ht, h.whole, Option.bind_some]
      exact h'.short _ (by omega)

theorem Parses.map {α β : Type} {parse : Bytes → Option α} {rest : α → Option β} {e : Bytes} {a : α} {b : β}
    (h : Parses parse e a) (h' : rest a = some b) : Parses (fun bs => (parse bs).bind rest) e b where
  whole extra := by simp only [h.whole, Option.bind_some, h']
  short k hk := by simp only [h.short k hk, Option.bind_none]

theorem reads_bv {k : Nat} (v : BitVec (8 * k)) : Reads (readBv k) (beBytes k v.toNat) v where
  whole extra := by
    unfold readBv
    rw [if_neg (by rw [List.length_append, length_beBytes]; omega), List.take_left' (length_beBytes ..),
      List.drop_left' (length_beBytes ..), ofNat_beNat_beBytes]
  short j hj := by
    unfold readBv
    rw [length_beBytes] at hj
    rw [if_pos (by rw [List.length_take, length_beBytes]; omega)]

theorem reads_byte (b : Byte) : Reads readByte [b] b := by
  have h := reads_bv (k := 1) b
  rwa [show beBytes 1 b.toNat = [b] by simp [beBytes]] at h

theorem reads_word16 (v : Word16) : Reads readWord16 (beBytes 2 v.toNat) v := reads_bv (k := 2) v

theorem reads_word32 (v : Word32) : Reads readWord32 (beBytes 4 v.toNat) v := reads_bv (k := 4) v

theorem reads_word64 (v : BitVec 64) : Reads readWord64 (beBytes 8 v.toNat) v := reads_bv (k := 8) v

/-- The last reader of a parser. -/
theorem Reads.last {α β : Type} {read : Bytes → Option (α × Bytes)} {rest : α × Bytes → Option β} {e : Bytes} {a : α} {b : β}
    (h : Reads read e a) (h' : ∀ bs, rest (a, bs) = some b) : Parses (fun bs => (read bs).bind rest) e b where
  whole extra := by simp only [h.whole, Option.bind_some, h']
  short k hk := by simp only [h.short k hk, Option.bind_none]

/-- An optional argument reads back (R207). -/
theorem reads_option {α : Type} {read : Bytes → Option (α × Bytes)} {enc : α → Bytes}
    (h : ∀ a, Reads read (enc a) a) (o : Option α) : Reads (readOption read) (optionBytes enc o) o := by
  cases o with
  | none =>
    refine ⟨fun extra => ?_, fun k hk => ?_⟩
    · unfold readOption
      rw [show optionBytes enc none = [0#8] from rfl, (reads_byte 0#8).whole]
      rfl
    · obtain rfl : k = 0 := Nat.lt_one_iff.mp hk
      rfl
  | some a =>
    refine ⟨fun extra => ?_, fun k hk => ?_⟩
    · unfold readOption
      rw [show optionBytes enc (some a) ++ extra = [1#8] ++ (enc a ++ extra) from rfl, (reads_byte 1#8).whole]
      show ((read (enc a ++ extra)).map fun q => (some q.1, q.2)) = _
      rw [(h a).whole]
      rfl
    · cases k with
      | zero => rfl
      | succ k =>
        unfold readOption
        rw [show (optionBytes enc (some a)).take (k + 1) = [1#8] ++ (enc a).take k from rfl, (reads_byte 1#8).whole]
        show ((read ((enc a).take k)).map fun q => (some q.1, q.2)) = _
        rw [(h a).short k (Nat.lt_of_succ_lt_succ hk)]
        rfl

/-! ## FEEDER_SET's value (R32, R207) -/

theorem settingWidth_cases (id : Byte) :
    settingWidth id = 0 ∨ settingWidth id = 1 ∨ settingWidth id = 2 ∨ settingWidth id = 4 := by
  unfold settingWidth
  split <;> simp

theorem setWidth_setWidth_of_lt {v : Word16} (h : v.toNat < 256) : (v.setWidth 8).setWidth 16 = v := by
  apply BitVec.eq_of_toNat_eq
  rw [BitVec.toNat_setWidth, BitVec.toNat_setWidth]
  omega

/-- FEEDER_SET's value bytes, as long as its setting carries them. -/
theorem parses_setting {α : Type} {rest : Word16 × Word16 × Bytes → Option α} {b : α} (id : Byte) (v high : Word16)
    (hfit : settingFits id v high = true) (h' : ∀ bs, rest (v, high, bs) = some b) :
    Parses (fun bs => (readSetting id bs).bind rest) (settingBytes id v high) b := by
  unfold settingFits at hfit
  unfold readSetting settingBytes
  rcases settingWidth_cases id with hw | hw | hw | hw <;> rw [hw] at hfit <;> simp only [hw]
  · simp only [Bool.and_eq_true, decide_eq_true_eq] at hfit
    obtain ⟨rfl, rfl⟩ := hfit
    exact ⟨fun _ => h' _, nofun⟩
  · simp only [Bool.and_eq_true, decide_eq_true_eq] at hfit
    obtain ⟨hv, rfl⟩ := hfit
    have h := reads_byte (v.setWidth 8)
    refine ⟨fun extra => ?_, fun k hk => by rw [h.short k hk]; rfl⟩
    rw [h.whole]
    show rest ((v.setWidth 8).setWidth 16, 0#16, extra) = _
    rw [setWidth_setWidth_of_lt hv]
    exact h' extra
  · simp only [decide_eq_true_eq] at hfit
    subst hfit
    exact ⟨fun extra => by rw [(reads_word16 v).whole]; exact h' extra,
      fun k hk => by rw [(reads_word16 v).short k hk]; rfl⟩
  · have h := Parses.bind (rest := fun p => (readWord16 p.2).bind fun q => rest (p.1, q.1, q.2))
      (reads_word16 v) ((reads_word16 high).last (rest := fun q => rest (v, q.1, q.2)) h')
    have hsame : ∀ bs, ((readWord16 bs).bind fun p => (readWord16 p.2).map fun q => (p.1, q.1, q.2)).bind rest =
        (readWord16 bs).bind fun p => (readWord16 p.2).bind fun q => rest (p.1, q.1, q.2) := fun bs => by
      cases readWord16 bs with
      | none => rfl
      | some p =>
        show ((readWord16 p.2).map _).bind _ = (readWord16 p.2).bind _
        cases readWord16 p.2 <;> rfl
    exact ⟨fun extra => (hsame _).trans (h.whole extra), fun k hk => (hsame _).trans (h.short k hk)⟩

/-! ## Commands -/

theorem parses_planArgs (a : PlanArgs) : Parses readPlanArgs
    (beBytes 2 a.index.toNat ++ a.kind :: (beBytes 8 a.serial.toNat ++ (beBytes 8 a.mask.toNat ++
      (beBytes 4 a.dwelling.toNat ++ a.expected :: a.profile :: a.flags :: beBytes 2 a.limit.toNat)))) a := by
  unfold readPlanArgs
  refine Parses.bind (reads_word16 _) ?_
  refine Parses.bind (e := [a.kind]) (reads_byte _) ?_
  refine Parses.bind (reads_word64 _) ?_
  refine Parses.bind (reads_word64 _) ?_
  refine Parses.bind (reads_word32 _) ?_
  refine Parses.bind (e := [a.expected]) (reads_byte _) ?_
  refine Parses.bind (e := [a.profile]) (reads_byte _) ?_
  refine Parses.bind (e := [a.flags]) (reads_byte _) ?_
  exact (reads_word16 _).last fun _ => rfl

theorem parses_profileArgs (a : ProfileArgs) : Parses readProfileArgs
    (a.index :: (beBytes 2 a.dataLength.toNat ++ (beBytes 2 a.dataInterval.toNat ++ (beBytes 2 a.presence.toNat ++
      (beBytes 2 a.missLimit.toNat ++ (beBytes 2 a.grace.toNat ++ [a.policy])))))) a := by
  unfold readProfileArgs
  refine Parses.bind (e := [a.index]) (reads_byte _) ?_
  refine Parses.bind (reads_word16 _) ?_
  refine Parses.bind (reads_word16 _) ?_
  refine Parses.bind (reads_word16 _) ?_
  refine Parses.bind (reads_word16 _) ?_
  refine Parses.bind (reads_word16 _) ?_
  exact (reads_byte _).last fun _ => rfl

/-- The arguments of a command read back from the bytes that carry them. -/
theorem parses_argBytes (c : Command) (hc : c.wellFormed = true) : Parses (readCommand (commandCode c)) (argBytes c) c := by
  cases c with
  | identify | partReset | holdoverExit | freezeLock | profilesLockAll | barRead => exact parses_pure _
  | statusRead b | feederOpen b | feederClose b | feederPause b | feederResume b | strayClear b | freezeSet b | guardSet b
  | profileRead b | profileLock b | profileUnlock b | arrivalsRead b => exact (reads_byte b).last fun _ => rfl
  | planRead w | planErase w => exact (reads_word16 w).last fun _ => rfl
  | terminalFind n | barRemove n => exact (reads_word64 n).last fun _ => rfl
  | noticeMaskSet m => exact (reads_word32 m).last fun _ => rfl
  | watchdogSet b w => exact Parses.bind (e := [b]) (reads_byte b) ((reads_word16 w).last fun _ => rfl)
  | feederStatus b x | terminalRead b x | terminalRelevel b x =>
    exact Parses.bind (e := [b]) (reads_byte b) ((reads_byte x).last fun _ => rfl)
  | terminalEject b x y =>
    exact Parses.bind (e := [b]) (reads_byte b) (Parses.bind (e := [x]) (reads_byte x) ((reads_byte y).last fun _ => rfl))
  | watchSet b x y z =>
    exact Parses.bind (e := [b]) (reads_byte b) (Parses.bind (e := [x]) (reads_byte x)
      (Parses.bind (e := [y]) (reads_byte y) ((reads_byte z).last fun _ => rfl)))
  | feederSet b x v w =>
    exact Parses.bind (e := [b]) (reads_byte b) (Parses.bind (e := [x]) (reads_byte x)
      (parses_setting x v w hc fun _ => rfl))
  | planWrite a => exact (parses_planArgs a).map rfl
  | profileWrite a => exact (parses_profileArgs a).map rfl
  | admitArrival b n x | refuse b n x =>
    exact Parses.bind (e := [b]) (reads_byte b) (Parses.bind (reads_word64 n) ((reads_byte x).last fun _ => rfl))
  | barAdd n w =>
    exact Parses.bind (reads_option (fun v : Serial => reads_word64 v) n)
      ((reads_option (fun v : Word16 => reads_word16 v) w).last fun _ => rfl)

/-- Settles O9. -/
theorem argumentsReadBack : Obligations.ArgumentsReadBack := fun c hc =>
  ⟨by cases c <;> rfl, (parses_argBytes c hc).whole, (parses_argBytes c hc).short⟩

/-! ## Management frames (R187, R206) -/

theorem length_checkBytes (bs : Bytes) : (checkBytes bs).length = 4 := rfl

theorem withCheck_parts (body : Bytes) : (withCheck body).length - 4 = body.length ∧
    (withCheck body).take ((withCheck body).length - 4) = body ∧
    (withCheck body).drop ((withCheck body).length - 4) = checkBytes body := by
  have hl : (withCheck body).length - 4 = body.length := by
    unfold withCheck
    rw [List.length_append, length_checkBytes]
    rfl
  rw [hl]
  exact ⟨rfl, List.take_left' rfl, List.drop_left' rfl⟩

theorem checkGood_withCheck {least : Nat} {body : Bytes} (h : least ≤ body.length) :
    checkGood least (withCheck body) = true := by
  obtain ⟨hl, ht, hd⟩ := withCheck_parts body
  unfold checkGood
  rw [ht, hd, Bool.and_eq_true, decide_eq_true_eq, decide_eq_true_eq]
  refine ⟨?_, rfl⟩
  unfold withCheck
  rw [List.length_append, length_checkBytes]
  exact Nat.add_le_add_right h 4

/-- The header of a trunk frame: addresses and tag. -/
def trunkHeader (destination source : Address) (tagType : BitVec 16) (target : Byte) (handle : Nat) : Bytes :=
  beBytes 6 destination.toNat ++ (beBytes 6 source.toNat ++ (beBytes 2 tagType.toNat ++ [target, BitVec.ofNat 8 handle]))

theorem length_trunkHeader (d r : Address) (w : BitVec 16) (b : Byte) (k : Nat) : (trunkHeader d r w b k).length = 16 := by
  simp [trunkHeader, length_beBytes]

theorem trunkFrame_eq (d r : Address) (w : BitVec 16) (b : Byte) (k : Nat) (payload : Bytes) :
    trunkFrame d r w b k payload = withCheck (trunkHeader d r w b k ++ payload) := by
  unfold trunkFrame trunkHeader
  simp only [List.append_assoc]

theorem framePayload_trunkFrame (d r : Address) (w : BitVec 16) (b : Byte) (k : Nat) (payload : Bytes) :
    framePayload (trunkFrame d r w b k payload) = payload := by
  unfold framePayload
  rw [trunkFrame_eq, (withCheck_parts _).2.1]
  exact List.drop_left' (length_trunkHeader ..)

theorem frameAddresses_trunkFrame (d r : Address) (w : BitVec 16) (b : Byte) (k : Nat) (payload : Bytes) :
    frameDestination (trunkFrame d r w b k payload) = d ∧ frameSource (trunkFrame d r w b k payload) = r := by
  unfold frameDestination frameSource
  rw [trunkFrame_eq, withCheck, trunkHeader]
  simp only [List.append_assoc]
  rw [List.take_left' (length_beBytes ..), List.drop_left' (length_beBytes ..), List.take_left' (length_beBytes ..)]
  exact ⟨ofNat_beNat_beBytes (k := 6) d, ofNat_beNat_beBytes (k := 6) r⟩

/-- What the frame of a command gives its taking. -/
theorem commandFrame_parts (t : Taking) (w : BitVec 16) (c : Command) (extra : Bytes) (guardPin : Bool) :
    validFrame (commandFrame t w c extra) = true ∧
      takingOf guardPin (commandFrame t w c extra) = { t with guardPin := guardPin } ∧
      frameCode (commandFrame t w c extra) = commandCode c ∧
      (framePayload (commandFrame t w c extra)).drop managementHeader = argBytes c ++ extra := by
  have hp : framePayload (commandFrame t w c extra) =
      beBytes 2 t.reference.toNat ++ (commandCode c :: (argBytes c ++ extra)) := by
    unfold commandFrame
    rw [framePayload_trunkFrame]
    simp
  have hl : (beBytes 2 t.reference.toNat).length = 2 := length_beBytes ..
  obtain ⟨hd, hr⟩ := frameAddresses_trunkFrame t.destination t.source w 0#8 0
    (beBytes 2 t.reference.toNat ++ [commandCode c] ++ argBytes c ++ extra)
  refine ⟨?_, ?_, ?_, ?_⟩
  · unfold validFrame
    rw [hp, Bool.and_eq_true, decide_eq_true_eq]
    refine ⟨?_, by rw [List.length_append, hl, List.length_cons]; unfold managementHeader; omega⟩
    unfold commandFrame
    rw [trunkFrame_eq]
    exact checkGood_withCheck (by rw [List.length_append, length_trunkHeader]; simp [tagEnd])
  · unfold takingOf
    rw [hp, List.take_left' hl, ofNat_beNat_beBytes (k := 2)]
    unfold commandFrame
    rw [hd, hr]
  · unfold frameCode
    rw [hp, List.getD_append_right _ _ _ _ (le_of_eq hl), hl]
    rfl
  · rw [hp]
    have h := List.drop_length_add_append (l₁ := beBytes 2 t.reference.toNat) (l₂ := commandCode c :: (argBytes c ++ extra))
      (i := 1)
    rw [hl] at h
    exact h

theorem State.takeFrame_eq {s : State} {frame : Bytes} {rest : List Bytes} (h : s.mayTake) (hm : s.mgmtBuffer = frame :: rest)
    (guardPin : Bool) : s.takeFrame guardPin =
      if validFrame frame then
        State.takeValid { s with mgmtBuffer := rest } (takingOf guardPin frame) (frameCode frame)
          (runBytes (frameCode frame) ((framePayload frame).drop managementHeader))
      else { s with mgmtBuffer := rest } := by
  unfold State.takeFrame
  rw [hm]
  exact if_pos (State.canTake_of_mayTake h)

theorem exec_managementFrameTake {s : State} (h : s.phase = .running) (guardPin : Bool) :
    exec (.managementFrameTake guardPin) s = .next (s.takeFrame guardPin) :=
  whenRunning_of_running (op := (·.takeFrame guardPin)) h

theorem runBytes_command (c : Command) (hc : c.wellFormed = true) (extra : Bytes) :
    runBytes (commandCode c) (argBytes c ++ extra) = outsideHoldover (commandCode c) (runCommand c) := by
  funext u
  unfold runBytes
  rw [if_pos (argumentsReadBack c hc).1, (parses_argBytes c hc).whole]

/-- Settles O10. -/
theorem frameTakingRunsItsCommand : Obligations.FrameTakingRunsItsCommand := by
  intro s t w c extra rest h hc hm
  obtain ⟨hv, ht, hcode, hargs⟩ := commandFrame_parts t w c extra t.guardPin
  have h' : State.mayTake { s with mgmtBuffer := rest } := h
  rw [exec_managementFrameTake h.1, State.takeFrame_eq h hm, if_pos hv, ht, hcode, hargs, runBytes_command c hc, exec_rowOf,
    whenRunning, if_pos h'.1, State.takeCommand, if_pos (State.canTake_of_mayTake h')]

/-! ## Takings that run no command (R182, R187, R189) -/

theorem validFrame_iff (frame : Bytes) : validFrame frame = true ↔ checkGood 16 frame = true ∧ 23 ≤ frame.length := by
  unfold validFrame framePayload
  rw [Bool.and_eq_true, decide_eq_true_eq, List.length_drop, List.length_take]
  have : managementHeader = 3 := rfl
  have : tagEnd = 16 := rfl
  exact and_congr_right fun _ => by omega

/-- The header of a management frame long enough to hold one. -/
theorem framePayload_parts {frame : Bytes} (h : 23 ≤ frame.length) :
    (framePayload frame).take 2 = (frame.drop 16).take 2 ∧ frameCode frame = frame.getD 18 0#8 ∧
      (framePayload frame).drop managementHeader = (frame.take (frame.length - 4)).drop 19 := by
  unfold frameCode framePayload
  refine ⟨?_, ?_, List.drop_drop ..⟩
  · rw [List.drop_take, List.take_take, show tagEnd = 16 from rfl]
    congr 1
    omega
  · rw [List.getD_eq_getElem?_getD, List.getD_eq_getElem?_getD, List.getElem?_drop, List.getElem?_take,
      if_pos (by have : tagEnd = 16 := rfl; omega)]
    rfl

/-- Settles O11. -/
theorem frameTakingWithoutCommand : Obligations.FrameTakingWithoutCommand := by
  intro s guardPin hp
  refine ⟨fun hno => ?_, fun frame rest h hm => ⟨fun hbad => ?_, fun hgood hlen => ?_⟩⟩
  · rw [exec_managementFrameTake hp]
    unfold State.takeFrame
    rcases hno with hno | hno
    · rw [hno]
    · have hc : ¬ s.canTake = true := by
        unfold State.canTake
        rw [Bool.and_eq_true, decide_eq_true_eq]
        rintro ⟨h1, h2⟩
        rcases hno with hno | hno
        · exact absurd h1 (Nat.not_lt.mpr hno)
        · rw [hno] at h2; cases h2
      cases s.mgmtBuffer with
      | nil => rfl
      | cons frame rest => exact congrArg _ (if_neg hc)
  · have hv : ¬ validFrame frame = true := by
      rw [validFrame_iff]
      rintro ⟨h1, h2⟩
      rcases hbad with hb | hb
      · rw [hb] at h1; cases h1
      · exact absurd h2 (Nat.not_le.mpr hb)
    rw [exec_managementFrameTake hp, State.takeFrame_eq h hm, if_neg hv]
  · obtain ⟨href, hcode, hargs⟩ := framePayload_parts hlen
    have htake : takingOf guardPin frame =
        { guardPin := guardPin, reference := BitVec.ofNat 16 (beNat ((frame.drop 16).take 2)),
          destination := BitVec.ofNat 48 (beNat (frame.take 6)),
          source := BitVec.ofNat 48 (beNat ((frame.drop 6).take 6)) } := by
      unfold takingOf
      rw [href]
      rfl
    have answer : ∀ reason, (∀ u : State, u.holdover = s.holdover → runBytes (frame.getD 18 0#8)
        ((frame.take (frame.length - 4)).drop 19) u = (u, .refused reason)) →
        exec (.managementFrameTake guardPin) s = .next (State.answered { s with mgmtBuffer := rest }
          (State.opened { s with mgmtBuffer := rest } (takingOf guardPin frame)) (takingOf guardPin frame)
          (frame.getD 18 0#8) (.refused reason)) := by
      intro reason hrun
      have hrun := hrun (State.opened { s with mgmtBuffer := rest } (takingOf guardPin frame)) (State.opened_holdover ..)
      rw [exec_managementFrameTake hp, State.takeFrame_eq h hm, if_pos ((validFrame_iff frame).mpr ⟨hgood, hlen⟩), hcode,
        hargs]
      unfold State.takeValid
      simp only
      rw [show State.openTaking _ _ = State.opened _ _ from rfl, hrun]
      unfold State.addReply State.answered
      rw [State.opened_replies, State.opened_receipt]
    rw [htake] at answer
    refine ⟨fun ha => answer .unknown fun u _ => ?_, fun ha hh hs => answer .holdover fun u hu => ?_,
      fun ha hh hread => answer .badArg fun u hu => ?_⟩
    · rw [runBytes, ha]
      rfl
    · rw [runBytes, if_pos ha, outsideHoldover, hu, hh, hs]
      rfl
    · have hpass : ¬ (u.holdover && !servedInHoldover (frame.getD 18 0#8)) = true := by
        rw [hu]
        rcases hh with e | e <;> rw [e] <;> simp
      rw [runBytes, if_pos ha, outsideHoldover, if_neg hpass, hread]
      rfl

end Sys2Proof.Machine

/-! PROOFS. The ends of countdowns, one at a time, the watchdog and the raising of a notice (O32, O33, O34). -/
namespace Sys2Proof.Machine

open Sys2Proof

section

variable {s : State} {f : FeederId}

/-- An event of one feeder, of a part that runs. -/
theorem exec_event_running {i : Instr} (hi : feederOf i = some f) (hp : s.phase = .running) :
    exec i s = .next (eventOf i s) :=
  (exec_event hi s).trans (whenRunning_of_running (op := eventOf i) hp)

theorem FeederState.serving_iff (x : FeederState) : x.serving = true ↔ x = .opened ∨ x = .paused := by
  cases x <;> simp [FeederState.serving]

/-! ## One countdown each (O32) -/

/-- Settles O32: each event is the one branch of its countdown's last decrement. -/
theorem countdownEnds : Obligations.CountdownEnds := by
  intro s f h hp fd r record
  have hfd {i : Instr} {g : Feeder → Feeder} {x : Feeder} (hi : feederOf i = some f) (he : eventOf i s = s.modFd f g)
      (hg : g fd = x) : exec i s = .next (s.setFd f x) := by
    rw [exec_event_running hi hp, he, ← hg]; rfl
  have hsame {i : Instr} {g : Feeder → Feeder} (hi : feederOf i = some f) (he : eventOf i s = s.modFd f g)
      (hg : g fd = fd) : exec i s = .next s := by
    rw [exec_event_running hi hp, he, State.modFd_of_eq hg]
  have hrec {i : Instr} {g : Record → Record} {x : Record} (hi : feederOf i = some f)
      (he : eventOf i s = s.modRecord f h g) (hg : g r = x) : exec i s = record x := by
    rw [exec_event_running hi hp, he, ← hg]; rfl
  refine ⟨fun hq hc => hfd rfl rfl ?_, fun hn => hsame rfl rfl ?_, fun hq hc => hfd rfl rfl ?_,
    fun hn => hsame rfl rfl ?_, fun hs hc => hfd rfl rfl ?_, fun hs hc => hfd rfl rfl ?_,
    fun hs hc => hrec rfl rfl (if_pos ⟨hs, hc⟩), fun hs hc => hrec rfl rfl (if_pos ⟨hs, hc⟩),
    fun hs he hc => hrec rfl rfl (if_pos ⟨(RecState.active_iff _).mpr ⟨hs, he⟩, hc⟩),
    fun hs hc => hrec rfl rfl (if_pos ⟨hs, hc⟩)⟩
  · exact if_pos ⟨hq, by rw [hc]; exact Nat.le_refl 1⟩
  · refine if_neg fun ⟨hq, hle⟩ => ?_
    rcases hn with hn | ⟨n, h2, hc⟩
    · exact hn hq
    · rw [hc] at hle; exact absurd hle (Nat.not_le.mpr h2)
  · exact if_pos ⟨hq, by rw [hc]; exact Nat.le_refl 1⟩
  · refine if_neg fun ⟨hq, hle⟩ => ?_
    rcases hn with hn | ⟨n, h2, hc⟩
    · exact hn hq
    · rw [hc] at hle; exact absurd hle (Nat.not_le.mpr h2)
  · exact if_pos ⟨(FeederState.serving_iff _).mpr hs, hc⟩
  · exact if_pos ⟨(FeederState.serving_iff _).mpr hs, hc⟩

/-! ## Drain, bar, decision and recovery (O33) -/

theorem State.setFd_setPlan (s : State) (f : FeederId) (x : Feeder) (i : Nat) (e : PlanEntry) :
    (s.setPlan i e).setFd f x = (s.setFd f x).setPlan i e := by cases f <;> rfl

/-- A teardown: the feeder without the record and its messages, and the plan without its link (R20). -/
theorem State.tearDown_eq (s : State) (f : FeederId) (h : Nat) :
    s.tearDown f h =
      (s.setFd f { ((s.fd f).setRecord h freeRecord) with
        ordinary := (s.fd f).ordinary.filter fun q => decide (q.handle ≠ h)
        urgent := (s.fd f).urgent.filter fun q => decide (q.handle ≠ h)
        fullArmed := true }).releaseLink (s.record f h).planLink := by
  have hx (fd : Feeder) : ({ (fd.removeMessages h).setRecord h freeRecord with fullArmed := true } : Feeder) =
      { (fd.setRecord h freeRecord) with
        ordinary := fd.ordinary.filter fun q => decide (q.handle ≠ h)
        urgent := fd.urgent.filter fun q => decide (q.handle ≠ h)
        fullArmed := true } := by
    unfold Feeder.removeMessages Feeder.setRecord; split <;> rfl
  unfold State.tearDown State.modFd State.releaseLink
  cases (s.record f h).planLink with
  | none => simp only [hx]
  | some i => simp only [hx, State.fd_setPlan, State.setFd_setPlan, State.planAt_setFd]

theorem State.drainEnd_of_one {h : Nat} (he : (s.record f h).state = .ejected) (hd : (s.record f h).drain = some 1) :
    s.drainEnd f h = s.tearDown f h := if_pos ⟨he, .inl hd⟩

theorem State.barEnd_of_split {before after : List BarEntry} {b : BarEntry}
    (hs : s.feederA.state.serving = true ∨ s.feederB.state.serving = true) (hl : s.bars = before ++ b :: after)
    (hc : b.countdown = 1) (hn : ∀ x ∈ before ++ after, x.serial ≠ b.serial) :
    s.barEnd b.serial = { s with bars := before ++ after } := by
  have hkeep (l : List BarEntry) (h : ∀ x ∈ l, x.serial ≠ b.serial) :
      l.filter (fun x => !(decide (x.serial = b.serial) && decide (x.countdown ≤ 1))) = l :=
    List.filter_eq_self.mpr fun x hx => by simp [h x hx]
  unfold State.barEnd
  rw [if_pos (by rcases hs with h | h <;> simp [h]), hl, List.filter_append, List.filter_cons_of_neg (by simp [hc]),
    hkeep _ fun x hx => hn x (List.mem_append_left _ hx), hkeep _ fun x hx => hn x (List.mem_append_right _ hx)]

theorem Feeder.dropArrival_split {fd : Feeder} {before after : List Arrival} {a : Arrival}
    (hl : fd.arrivals = before ++ a :: after) (hn : ∀ x ∈ before ++ after, x.serial ≠ a.serial) :
    fd.dropArrival a.serial = { fd with arrivals := before ++ after } := by
  have hkeep (l : List Arrival) (h : ∀ x ∈ l, x.serial ≠ a.serial) :
      l.filter (fun x => decide (x.serial ≠ a.serial)) = l :=
    List.filter_eq_self.mpr fun x hx => by simp [h x hx]
  unfold Feeder.dropArrival
  rw [hl, List.filter_append, List.filter_cons_of_neg (by simp),
    hkeep _ fun x hx => hn x (List.mem_append_left _ hx), hkeep _ fun x hx => hn x (List.mem_append_right _ hx)]

theorem State.decisionEnd_of_split {before after : List Arrival} {a : Arrival} {reason : HeldReason}
    (ho : (s.fd f).state = .opened) (hl : (s.fd f).arrivals = before ++ a :: after) (hst : a.status = .held reason 1)
    (hn : ∀ x ∈ before ++ after, x.serial ≠ a.serial) : s.decisionEnd f a.serial = s.expireArrival f a := by
  unfold State.decisionEnd
  rw [if_pos ho, hl, find?_serial_split rfl fun x hx => hn x (List.mem_append_left _ hx)]
  simp [hst]

theorem Policy.givesUp_iff (p : Policy) (n : Nat) : p.givesUp n = true ↔ p = .off ∨ (p ≠ .endless512 ∧ 3 ≤ n) := by
  cases p <;> simp [Policy.givesUp]

theorem State.recoveryEnd_of_one {h : Nat} (hh : (s.record f h).state = .hushed) (hc : (s.record f h).recCd = 1) :
    s.recoveryEnd f h = (s.setFd f ((s.fd f).setRecord h { s.record f h with recCd := 0 })).recoveryDecision f h :=
  if_pos ⟨hh, hc⟩

/-- A HUSH or a RESUME offered touches records only in what they owe. -/
theorem Feeder.record_offerHush (fd : Feeder) (k h : Nat) (hk : h ≠ k) :
    ∃ o, (fd.offerHush k).record h = { fd.record h with owed := o } := by
  obtain ⟨o, e⟩ := (Feeder.talked_offerUrgent (fd.modRecord k (·.clearOwed .resume)) k .hush).owed h
  exact ⟨o, e.trans (by rw [Feeder.record_modRecord_of_ne _ _ _ _ hk])⟩

/-- A choice of the hunt leaves a record that is no candidate, but for what it owes. -/
theorem State.record_chooseTarget (s : State) (f : FeederId) (h : Nat)
    (hh : (s.record f h).state.carriesTraffic = false) :
    ∃ o, (s.chooseTarget f).record f h = { s.record f h with owed := o } := by
  cases e : (s.fd f).firstFrom (s.fd f).hunt.nextHandle (·.state.carriesTraffic) with
  | none =>
    rw [State.chooseTarget_of_none e, State.record_raise]
    exact ⟨(s.record f h).owed, by unfold State.record; rw [State.fd_setFd]; rfl⟩
  | some k =>
    have hk : h ≠ k := fun hk => by
      have := (Feeder.firstFrom_test e).2.2
      rw [← hk] at this
      exact absurd this (by rw [show (s.fd f).record h = s.record f h from rfl, hh]; decide)
    rw [State.chooseTarget_of_some e]
    unfold State.record
    rw [State.fd_setFd]
    obtain ⟨o, eo⟩ := Feeder.record_offerHush { ((s.fd f).modRecord k fun r =>
      { r.endWatch with state := .huntHeld, heldFrom := r.state.heldFrom }) with hunt := (s.fd f).hunt.choose k } k h hk
    exact ⟨o, eo.trans (congrArg (fun r : Record => { r with owed := o })
      (Feeder.record_modRecord_of_ne (s.fd f) _ _ _ hk))⟩

/-- The record that an ejection leaves, but for what it owes (R12, R13). -/
theorem State.record_eject (s : State) (f : FeederId) (h : Nat) (reason : EjectReason) (h1 : 1 ≤ h) (h2 : h ≤ 255)
    (ha : (s.record f h).state.active = true) :
    ∃ o, (s.eject f h reason).record f h = { (s.record f h).ejectFor reason with owed := o } := by
  have hrec : ∃ o, ((s.fd f).ejectRecord h reason).record h = { (s.record f h).ejectFor reason with owed := o } := by
    have hself : (((s.fd f).modRecord h (·.ejectFor reason)).removeOrdinary h).record h =
        (s.record f h).ejectFor reason := Feeder.record_modRecord_self (s.fd f) h _ h1 h2
    unfold Feeder.ejectRecord
    simp only
    split
    · exact ⟨none, hself⟩
    · obtain ⟨o, e⟩ := (Feeder.talked_offerUrgent
        (((s.fd f).modRecord h (·.ejectFor reason)).removeOrdinary h) h (.eject reason)).owed h
      exact ⟨o, e.trans (by rw [hself])⟩
  have hnoted (u : State) (x : Feeder) (e : u = s.noteEjected f h reason x) (ht : x.table =
      ((s.fd f).ejectRecord h reason).table) :
      ∃ o, u.record f h = { (s.record f h).ejectFor reason with owed := o } := by
    obtain ⟨o, eo⟩ := hrec
    refine ⟨o, ?_⟩
    rw [e, State.noteEjected, State.record_raise, State.record, State.fd_setFd, ← eo]
    unfold Feeder.record
    rw [ht]
  have he : s.eject f h reason = (s.noteEjected f h reason ((s.fd f).ejectRecord h reason)).huntEjected f h := if_pos ha
  rw [he]
  unfold State.huntEjected
  split
  · obtain ⟨o, eo⟩ := hnoted ((s.noteEjected f h reason ((s.fd f).ejectRecord h reason)).modFd f fun fd => { fd with
      hunt := { fd.hunt with target := none, phase := none, hushCycle := none, watchCd := 0 } })
      { (s.fd f).ejectRecord h reason with hunt := { ((s.fd f).ejectRecord h reason).hunt with
        target := none, phase := none, hushCycle := none, watchCd := 0 } }
      (by rw [State.noteEjected, State.modFd_raise, State.modFd, State.fd_setFd, State.setFd_setFd]; rfl) rfl
    obtain ⟨o', eo'⟩ := State.record_chooseTarget _ f h (by rw [eo]; rfl)
    exact ⟨o', eo'.trans (by rw [eo])⟩
  · exact hnoted _ _ rfl rfl

/-- The Bar List holds a serial that has just been barred. -/
theorem State.isBarred_bar_self (s : State) (n : Serial) : (s.bar n).isBarred n = true := by
  rw [State.isBarred_iff]; exact mem_addBar _ _ _

theorem State.fd_other_ejectAndBar (s : State) (f : FeederId) (h : Nat) (reason : EjectReason) :
    ∃ l, (s.ejectAndBar f h reason).fd f.other = { s.fd f.other with arrivals := l } := by
  have he : (s.eject f h reason).fd f.other = s.fd f.other := (State.within_eject f s h reason).1
  unfold State.ejectAndBar State.barHeld
  cases (s.record f h).serial with
  | none => exact ⟨_, he⟩
  | some n => exact ⟨_, (State.fd_bar _ n _).trans (congrArg (·.dropArrival n) he)⟩

/-- Settles O33: each event is the one branch of its countdown's last decrement; a recovery that gives the record up is its
ejection. -/
theorem drainBarDecisionRecoveryExpiries : Obligations.DrainBarDecisionRecoveryExpiries := by
  refine ⟨fun s f hp => ⟨fun h h1 h2 he hd => ?_, fun before b after hs hl hc hn => ?_,
    fun before a after reason ho hl hst hn => ?_⟩, fun s f h hp h1 h2 => ?_⟩
  · have hrow : exec (.drainExpiry f h) s = .next (s.tearDown f h) := by
      rw [exec_event_running rfl hp]; exact congrArg _ (State.drainEnd_of_one he hd)
    rw [hrow, State.tearDown_eq]
    refine ⟨fun hl => ?_, fun i hl hi => ⟨fun hk => ?_, fun hk => ?_⟩⟩
    · rw [State.record, hl]; rfl
    · rw [State.record, hl]
      simp only [State.releaseLink, PlanEntry.dropLink, State.planAt_setFd, hk]
    · rw [State.record, hl]
      simp only [State.releaseLink, PlanEntry.dropLink, State.planAt_setFd, hk]
  · have hrow : exec (.barHoldExpiry b.serial) s = .next (s.barEnd b.serial) :=
      whenRunning_of_running (op := (·.barEnd b.serial)) hp
    rw [hrow, State.barEnd_of_split _ hl hc hn]
    simp only [FeederState.serving_iff]
    rcases hs with hs | hs | hs | hs <;> simp [hs]
  · rw [exec_event_running rfl hp]
    refine congrArg _ ((State.decisionEnd_of_split ho hl hst hn).trans ?_)
    unfold State.expireArrival State.modFd State.dwellingOf
    simp only [Feeder.dropArrival_split hl hn, Option.map_map]
    rfl
  · intro fd r policy gives hh hc
    have hself : (fd.setRecord h { r with recCd := 0 }).record h = { r with recCd := 0 } :=
      Feeder.record_setRecord_self fd h _ h1 h2
    have hrow : exec (.recoveryExpiry f h) s =
        .next ((s.setFd f (fd.setRecord h { r with recCd := 0 })).recoveryDecision f h) := by
      rw [exec_event_running rfl hp]; exact congrArg _ (State.recoveryEnd_of_one hh hc)
    have hrec : (s.setFd f (fd.setRecord h { r with recCd := 0 })).record f h = { r with recCd := 0 } := by
      rw [State.record, State.fd_setFd, hself]
    have hpol : ((s.setFd f (fd.setRecord h { r with recCd := 0 })).policyOf f h).givesUp r.recAttempts = true ↔
        gives := by
      rw [State.policyOf, hrec, State.profileOf_setFd]
      exact Policy.givesUp_iff _ _
    have hact : ((s.setFd f (fd.setRecord h { r with recCd := 0 })).record f h).state.active = true := by
      rw [hrec]
      exact (congrArg RecState.active hh).trans rfl
    have hgive (hg : gives) : (s.setFd f (fd.setRecord h { r with recCd := 0 })).recoveryDecision f h =
        (s.setFd f (fd.setRecord h { r with recCd := 0 })).ejectAndBar f h .stray := by
      unfold State.recoveryDecision
      rw [hrec, if_pos (hpol.mpr hg)]
    rw [hrow]
    refine ⟨fun hg ht => ?_, fun hg => ⟨_, rfl, ?_⟩, fun hg => ?_⟩
    · rw [hgive hg, State.ejectAndBar_eq_barringEjection _ f h _ h1 h2 hact]
      · rw [hrec]; exact fun e => by rw [show r.state = .hushed from hh] at e; cases e
      · rw [State.fd_setFd, Feeder.setRecord_hunt]; exact ht
    · rw [hgive hg]
      obtain ⟨o, eo⟩ := State.record_eject _ f h .stray h1 h2 hact
      obtain ⟨l, el⟩ := State.fd_other_ejectAndBar (s.setFd f (fd.setRecord h { r with recCd := 0 })) f h .stray
      have er : ((s.setFd f (fd.setRecord h { r with recCd := 0 })).ejectAndBar f h .stray).record f h =
          { r.ejectFor .stray with recCd := 0, owed := o } := by
        rw [State.ejectAndBar, State.record_barHeld, eo, hrec]; rfl
      rw [er]
      refine ⟨rfl, rfl, rfl, rfl, fun n hn => ?_, ?_⟩
      · unfold State.ejectAndBar
        rw [hrec, hn]
        exact State.isBarred_bar_self _ n
      · rw [el, State.fd_setFd_other]
    · unfold State.recoveryDecision
      rw [hrec, if_neg (mt hpol.mp hg), State.modFd, State.fd_setFd, State.setFd_setFd]
      unfold Feeder.offerResume
      have hcl : Record.clearOwed { r with recCd := 0 } .hush =
          { r with recCd := 0, owed := if r.owed = some .hush then none else r.owed } := Record.clearOwed_hush _
      rw [Feeder.modRecord_eq _ h (·.clearOwed .hush), hself, hcl, Feeder.setRecord_setRecord]
      have hatt (x : Record) (m : Msg) :
          (((fd.setRecord h x).offerUrgent h m).record h).recAttempts = x.recAttempts := by
        obtain ⟨o, eo⟩ := (Feeder.talked_offerUrgent (fd.setRecord h x) h m).owed h
        rw [eo, Feeder.record_setRecord_self fd h x h1 h2]
      unfold Feeder.modRecord
      simp only [hatt]
      rfl

/-! ## The watchdog and the notices (O34) -/

/-- Settles O34. -/
theorem watchdogRunsIntoHoldover : Obligations.WatchdogRunsIntoHoldover := by
  refine ⟨fun s hp => ?_, rfl, fun s k x => ?_⟩
  · have h1 : exec .watchdogPeriodEnd s = .next s.watchdogPeriod := whenRunning_of_running (op := (·.watchdogPeriod)) hp
    have h2 : exec .watchdogExpiry s = .next s.watchdogEnd := whenRunning_of_running (op := (·.watchdogEnd)) hp
    intro expired
    rw [h1, h2]
    unfold State.watchdogPeriod State.watchdogEnd
    refine ⟨fun hno => ?_, fun ha hh hc => ?_, fun ha hh hc => ?_⟩
    · have hno : ¬ (s.wdArmed = true ∧ s.holdover = false) := by rcases hno with h | h <;> simp [h]
      rw [if_neg hno, if_neg fun h => hno ⟨h.1, h.2.1⟩]
      exact ⟨rfl, rfl⟩
    · rw [if_pos ⟨ha, hh⟩, if_neg (Nat.not_le.mpr hc), if_neg fun h => Nat.not_le.mpr hc h.2.2]
      exact ⟨rfl, rfl⟩
    · rw [if_pos ⟨ha, hh⟩, if_pos (Nat.le_of_eq hc), if_pos ⟨ha, hh, Nat.le_of_eq hc⟩]
      exact ⟨rfl, rfl⟩
  · rcases s.raise_cases k x with ⟨hm, e⟩ | ⟨hm, hl, e⟩ | ⟨hm, hl, e⟩
    · exact ⟨fun _ => e, fun h => absurd (hm.symm.trans h) (by decide), fun h => absurd (hm.symm.trans h) (by decide)⟩
    · exact ⟨fun h => absurd (hm.symm.trans h) (by decide), fun _ _ => e, fun _ h => absurd hl (Nat.not_lt.mpr h)⟩
    · exact ⟨fun h => absurd (hm.symm.trans h) (by decide), fun _ h => absurd h (Nat.not_lt.mpr hl), fun _ _ => e⟩

end

end Sys2Proof.Machine

/-! PROOFS. Measurements: what a clean burst is heard as, the call-in, the probe and the drift watch (O39, O42, O44). -/
namespace Sys2Proof.Machine

open Sys2Proof

section

variable {s : State} {f : FeederId} {n : CycleNumber}

/-! ## A burst heard (R31, R139) -/

/-- A burst counts as received in its upstream cycle. -/
def State.heard (s : State) (f : FeederId) (n : CycleNumber) : State :=
  s.modFd f (·.modMap n fun m => { m with burstSeen := true })

theorem State.fd_heard (s : State) (f : FeederId) (n : CycleNumber) :
    (s.heard f n).fd f = (s.fd f).modMap n fun m => { m with burstSeen := true } := State.fd_modFd s f _

theorem State.record_heard (s : State) (f : FeederId) (n : CycleNumber) (h : Nat) :
    (s.heard f n).record f h = s.record f h := by
  unfold State.record; rw [State.fd_heard]; rfl

theorem State.windowOf_heard (s : State) (f : FeederId) (n : CycleNumber) :
    (s.heard f n).windowOf f n = s.windowOf f n := by
  unfold State.windowOf State.heard; rw [State.modFd_windows]

theorem Feeder.liveMap_of_serving {fd : Feeder} {m : HeldMap} (ho : fd.state = .opened ∨ fd.state = .paused)
    (hm : fd.mapOf n = some m) : fd.liveMap n = some m := by
  unfold Feeder.liveMap; rw [if_pos ((FeederState.serving_iff _).mpr ho), hm]

theorem Feeder.mapOf_cycle {fd : Feeder} {m : HeldMap} (hm : fd.mapOf n = some m) : m.cycle = n :=
  of_decide_eq_true (List.find?_some hm :)

/-- What takes a burst, by its contents (R139, R210). -/
def State.takeBurst (u : State) (f : FeederId) (n : CycleNumber) (m : HeldMap) (m8 level : Nat) : BurstContent → State
  | .callIn serial slot attempts firmware => u.callInBurst f n m8 level serial slot attempts firmware
  | .probe handle serial => u.probeBurst f n m8 level handle.toNat serial
  | .check handle condition => u.checkBurst f m m8 level handle.toNat condition
  | .data handle frames => u.dataBurst f m m8 handle.toNat frames
  | .unknown _ => u

/-- A clean burst of a cycle whose map is held. -/
theorem exec_cleanBurst {m : HeldMap} (hp : s.phase = .running) (ho : (s.fd f).state = .opened ∨ (s.fd f).state = .paused)
    (hm : (s.fd f).mapOf n = some m) (m8 level : Nat) (content : BurstContent) :
    exec (.cleanBurst f n m8 level content) s = .next ((s.heard f n).takeBurst f n m m8 level content) := by
  rw [exec_event_running rfl hp]
  show Host.Outcome.next (s.cleanBurst f n m8 level content) = _
  unfold State.cleanBurst
  rw [Feeder.liveMap_of_serving ho hm]
  cases content <;> rfl

theorem State.fd_modWindow (s : State) (g : FeederId) (n : CycleNumber) (c : WindowRecord → WindowRecord) :
    (s.modWindow g n c).fd f = s.fd f := by cases f <;> rfl

/-! ## The bands of Q8 (R104, R105) -/

section

variable {span : Nat} {q : Int}

theorem bandOf_beyond (h : q < -4) : bandOf span q = .beyondReach := if_pos h

theorem bandOf_early (h : 8 * (span : Int) + 4 < q) : bandOf span q = .early := by
  unfold bandOf; rw [if_neg (by omega), if_pos h]

theorem bandOf_inRange (h1 : -4 ≤ q) (h2 : q ≤ 8 * (span : Int) + 4) : bandOf span q = .inRange := by
  unfold bandOf; rw [if_neg (by omega), if_neg (by omega)]

theorem delayOf_cast (span : Nat) (q : Int) : (delayOf span q : Int) = (max 0 (min q (8 * (span : Int))) + 4) / 8 := by
  unfold delayOf clampDelay; omega

theorem residueOf_eq (span : Nat) (q : Int) : residueOf span q =
    max 0 (min q (8 * (span : Int))) - 8 * ((max 0 (min q (8 * (span : Int))) + 4) / 8) := by
  unfold residueOf; rw [delayOf_cast]; rfl

end

theorem Reach.cast_span (x : Reach) :
    (match x with | .near => (2000 : Int) | .mid => 4000 | .far => 6000 | .extended => 8000) = (x.span : Int) := by
  cases x <;> rfl

/-! ## The call-in (O39) -/

theorem Window.holds_iff (w : Window) (m8 : Nat) : w.holds m8 = true ↔ m8 < 8 * w.spanEnd := decide_eq_true_iff

theorem State.callInBurst_held {w : WindowRecord} {g : Subgroup} {spread : Spread} {m8 : Nat}
    (hw : s.windowOf f n = some w) (hu : w.window.use = .callIn g spread) (hin : m8 < 8 * w.window.spanEnd) (level : Nat)
    (serial : Serial) (slot attempts firmware : Byte) :
    s.callInBurst f n m8 level serial slot attempts firmware =
      (s.modWindow f n fun w => { w with clean := w.clean + 1 }).judgeCallIn f n w.window m8 level serial slot attempts
        firmware := by
  have hcall : w.window.isCallIn = true := by unfold Window.isCallIn; rw [hu]
  unfold State.callInBurst
  rw [hw]
  exact if_pos (by rw [hcall, (Window.holds_iff _ _).mpr hin]; rfl)

/-- Settles O39: the three bands of Q8. -/
theorem callInIsMeasured : Obligations.CallInIsMeasured := by
  intro s f n m8 level serial slot attempts firmware m w g spread hp ho hm hw hu hin reach q clamped eqd counted after
  have hreach : reach = ((s.fd f).settings.reach.span : Int) := Reach.cast_span _
  have hcounted : (s.heard f n).modWindow f n (fun w => { w with clean := w.clean + 1 }) = counted := rfl
  have hspan : (counted.fd f).settings.reach.span = (s.fd f).settings.reach.span := by
    rw [← hcounted, State.fd_modWindow, State.fd_heard]; rfl
  have hafter : after = .next (counted.judgeCallIn f n w.window m8 level serial slot attempts firmware) := by
    refine (exec_cleanBurst hp ho hm m8 level _).trans (congrArg _ ?_)
    exact State.callInBurst_held ((State.windowOf_heard s f n).trans hw) hu hin level serial slot attempts firmware
  have hq : neededDelay w.window.grantOffset slot.toNat m8 = q := rfl
  have hclamped : clamped = max 0 (min q (8 * ((s.fd f).settings.reach.span : Int))) := by rw [← hreach]
  rw [hafter, hreach]
  unfold State.judgeCallIn
  simp only [hq, hspan]
  refine ⟨fun h => ?_, fun h => ?_, fun h1 h2 => ?_⟩
  · rw [bandOf_beyond h]
  · rw [bandOf_early h]; rfl
  · have heqd : eqd = (clamped + 4) / 8 := rfl
    refine ⟨by omega, by omega, by omega, by omega, ?_⟩
    have hd : delayOf (s.fd f).settings.reach.span q = eqd.toNat := by
      have := delayOf_cast (s.fd f).settings.reach.span q
      omega
    have hres : residueOf (s.fd f).settings.reach.span q = clamped - 8 * eqd := by
      rw [residueOf_eq, heqd, hclamped]
    rw [bandOf_inRange h1 h2]
    simp only [hd, hres]

/-! ## The probe (O42) -/

theorem State.probeBurst_held {w : WindowRecord} {h m8 : Nat} (hw : s.windowOf f n = some w)
    (hu : w.window.use = .probe h) (hin : m8 < 8 * w.window.spanEnd) (ha : w.answered = false) (level : Nat)
    (serial : Serial) : s.probeBurst f n m8 level h serial =
      (s.modWindow f n fun w => { w with answered := true }).judgeProbe f h serial w.window.grantOffset m8 level := by
  unfold State.probeBurst
  rw [hw]
  exact if_pos ⟨hu, (Window.holds_iff _ _).mpr hin, ha⟩

/-- A failed probe of a PROBING record that stands as `x` (R113). -/
theorem State.failProbe_of_record {u : State} {x : Record} {h : Nat} (h1 : 1 ≤ h) (h2 : h ≤ 255)
    (hx : u.record f h = x) (hs : x.state = .probing) :
    (x.eqAttempts < 3 →
        u.failProbe f h = u.modFd f fun fd => fd.setRecord h { x with eqAttempts := x.eqAttempts + 1 }) ∧
      (3 ≤ x.eqAttempts → (u.fd f).hunt.target ≠ some h →
        u.failProbe f h =
          (u.modFd f fun fd => fd.setRecord h { x with eqAttempts := x.eqAttempts + 1 }).barringEjection f h .noConfirm) := by
  subst hx
  exact State.failProbe_spec u f h h1 h2 hs

/-- Settles O42: the record's state and serial, then the three bands of Q8. -/
theorem probeOffersDelay : Obligations.ProbeOffersDelay := by
  intro s f n m8 level handle serial m w hp ho hm hw hu hin ha h0 h r reach q clamped eqd marked after sets heard fails
  have h1 : 1 ≤ h := Nat.pos_of_ne_zero h0
  have h2 : h ≤ 255 := Nat.le_of_lt_succ handle.isLt
  have hreach : reach = ((s.fd f).settings.reach.span : Int) := Reach.cast_span _
  have hmarked : (s.heard f n).modWindow f n (fun w => { w with answered := true }) = marked := rfl
  have hfd : marked.fd f = (s.fd f).modMap n fun m => { m with burstSeen := true } := by
    rw [← hmarked, State.fd_modWindow, State.fd_heard]
  have hspan : (marked.fd f).settings.reach.span = (s.fd f).settings.reach.span := by rw [hfd]; rfl
  have hhunt : (marked.fd f).hunt = (s.fd f).hunt := by rw [hfd]; rfl
  have hrec : marked.record f h = r := by unfold State.record; rw [hfd]; rfl
  have hafter : after = .next (marked.judgeProbe f h serial w.window.grantOffset m8 level) := by
    refine (exec_cleanBurst hp ho hm m8 level _).trans (congrArg _ ?_)
    exact State.probeBurst_held ((State.windowOf_heard s f n).trans hw) hu hin ha level serial
  have hq : neededDelay w.window.grantOffset 0 m8 = q := by
    show 8 * ((w.window.grantOffset : Int) + 16 * ((0 : Nat) : Int)) - m8 = 8 * (w.window.grantOffset : Int) - m8
    omega
  have hsets : marked.modRecord f h (fun r => { r with lastLevel := some level }) = sets heard := by
    rw [State.modRecord_eq, hrec]; rfl
  have hheard : (sets heard).record f h = heard := by
    show ((marked.modFd f fun fd => fd.setRecord h heard).fd f).record h = heard
    rw [State.fd_modFd, Feeder.record_setRecord_self _ h _ h1 h2]
  have hsetsHunt : ((sets heard).fd f).hunt = (s.fd f).hunt := by
    show ((marked.modFd f fun fd => fd.setRecord h heard).fd f).hunt = _
    rw [State.fd_modFd, Feeder.setRecord_hunt, hhunt]
  have hsets2 (x : Record) : ((sets heard).modFd f fun fd => fd.setRecord h x) = sets x := by
    show (marked.modFd f fun fd => fd.setRecord h heard).modFd f _ = marked.modFd f _
    rw [State.modFd_modFd]
    exact congrArg (marked.setFd f) (Feeder.setRecord_setRecord _ h heard x)
  rw [hafter, hreach]
  unfold State.judgeProbe
  simp only [hrec, hsets, hq, hspan]
  refine ⟨fun hs => by rw [if_pos hs], fun hs hne => ?_, fun hs he => ⟨fun hb ht => ?_, fun hb => ?_, fun hb1 hb2 => ?_⟩⟩
  · obtain ⟨hlt, hge⟩ := State.failProbe_of_record h1 h2 hrec hs
    show (_ → after = _) ∧ (_ → _ → after = _)
    rw [hafter]
    unfold State.judgeProbe
    simp only [hrec]
    rw [if_neg (not_not_intro hs), if_pos hne]
    exact ⟨fun h => congrArg _ (hlt h), fun h ht => congrArg _ (hge h (by rw [hhunt]; exact ht))⟩
  · rw [if_neg (not_not_intro hs), if_neg (not_not_intro he), bandOf_beyond hb]
    have hej : (sets heard).eject f h .outOfReach = (sets heard).ejection f h .outOfReach :=
      State.eject_eq_ejection _ f h _ h1 h2 (by rw [hheard]; exact (congrArg RecState.active hs).trans rfl)
        (by rw [hheard]; exact fun e => by rw [show heard.state = .probing from hs] at e; cases e)
        (by rw [hsetsHunt]; exact ht)
    simp only [hej]
    have hdw : marked.dwellingOf r.planLink = r.planLink.map fun i => (s.planAt i).dwelling := by
      rw [← hmarked]
      exact State.dwellingOf_setFd s f _ _
    rw [hdw]
  · show (_ → after = _) ∧ (_ → _ → after = _)
    obtain ⟨hlt, hge⟩ := State.failProbe_of_record (u := sets heard) h1 h2 hheard hs
    rw [hafter]
    unfold State.judgeProbe
    simp only [hrec, hsets, hq, hspan]
    rw [if_neg (not_not_intro hs), if_neg (not_not_intro he), bandOf_early hb]
    rw [hsets2] at hlt hge
    exact ⟨fun h => congrArg _ (hlt h), fun h ht => congrArg _ (hge h (by rw [hsetsHunt]; exact ht))⟩
  · have hclamped : clamped = max 0 (min q (8 * ((s.fd f).settings.reach.span : Int))) := by rw [← hreach]
    have heqd : eqd = (clamped + 4) / 8 := rfl
    have hd : delayOf (s.fd f).settings.reach.span q = eqd.toNat := by
      have := delayOf_cast (s.fd f).settings.reach.span q
      omega
    have hres : residueOf (s.fd f).settings.reach.span q = clamped - 8 * eqd := by
      rw [residueOf_eq, heqd, hclamped]
    rw [if_neg (not_not_intro hs), if_neg (not_not_intro he), bandOf_inRange hb1 hb2]
    simp only [hd, hres]

/-! ## The drift watch (O44) -/

theorem driftRunAfter_eq (trip : Nat) (run d8 : Int) : driftRunAfter trip run d8 =
    if 8 * (trip : Int) < d8 then (if run < 0 then 0 else if run < 15 then run + 1 else 15)
    else if d8 < -(8 * (trip : Int)) then (if 0 < run then 0 else if -15 < run then run - 1 else -15)
    else 0 := by
  unfold driftRunAfter
  split_ifs <;> omega

theorem correctionOf_eq (d8 : Int) :
    correctionOf d8 = if 0 ≤ d8 then min 8 ((d8 + 4) / 8) else -(min 8 ((-d8 + 4) / 8)) := by
  unfold correctionOf
  split_ifs <;> omega

/-- Settles O44: the run decides whether a correction is computed, the correction whether the delay changes. -/
theorem driftRunFollowsBursts : Obligations.DriftRunFollowsBursts := by
  intro s f h d8 h1 h2 x r late early run moved
  have hrun : driftRunAfter x.driftTrip r.driftRun d8 = run := driftRunAfter_eq _ _ _
  have hmoved : s.modRecord f h (fun r => { r with driftRun := run }) = moved := rfl
  have hfd : moved.fd f = (s.fd f).setRecord h { r with driftRun := run } := State.fd_setFd s f _
  have hrec : moved.record f h = { r with driftRun := run } := by
    unfold State.record; rw [hfd, Feeder.record_setRecord_self _ h _ h1 h2]
  have hwatch : s.watchDrift f h d8 =
      if run ≠ 0 ∧ x.driftRun ≤ run.natAbs then moved.correctDrift f h d8 else moved := by
    unfold State.watchDrift
    simp only [show (s.record f h).driftRun = r.driftRun from rfl, show (s.fd f).settings = x from rfl, hrun, hmoved]
  rw [hwatch]
  refine ⟨fun hr => ?_, fun h0 hle => ?_⟩
  · refine if_neg fun ⟨h0, hle⟩ => ?_
    rcases hr with hr | hr
    · exact h0 hr
    · exact Nat.not_le.mpr hr hle
  · intro corr raw reach new flagged edged
    rw [if_pos ⟨h0, hle⟩]
    have hreach : reach = (x.reach.span : Int) := Reach.cast_span _
    have hraw : correctedDelay r.eqd d8 = raw := by
      unfold correctedDelay; rw [correctionOf_eq]
    have hnew : max 0 (min raw (x.reach.span : Int)) = new := by rw [← hreach]
    have hflag : moved.reachEdge f h = if r.reachEdge then flagged else
        flagged.raise .reachEdge { feeder := some f, handle := some h, serial := r.serial
                                   dwelling := r.planLink.map fun i => (s.planAt i).dwelling } := by
      have hset : moved.modRecord f h (fun r => { r with reachEdge := true }) = flagged := by
        rw [State.modRecord_eq, hrec, hfd, Feeder.setRecord_setRecord]
        exact State.setFd_setFd s f _ _
      unfold State.reachEdge
      simp only [hset, hrec]
      rw [show moved.dwellingOf r.planLink = s.dwellingOf r.planLink from State.dwellingOf_setFd s f _ _]
      rfl
    have hedged : (if new ≠ raw then moved.reachEdge f h else moved) = edged := by
      show _ = if new = raw then moved else if r.reachEdge then flagged else _
      rw [hflag]
      by_cases e : new = raw
      · rw [if_neg (not_not_intro e), if_pos e]
      · rw [if_pos e, if_neg e]
    have hsettings : (moved.fd f).settings = x := by rw [hfd, Feeder.setRecord_settings]
    unfold State.correctDrift
    simp only [hrec, hsettings, hraw, hnew, hedged]
    exact ⟨fun hne => if_pos hne, fun he => if_neg (not_not_intro he)⟩

end

end Sys2Proof.Machine

/-! PROOFS. The ends of spans and windows: the unanswered check and the outcome of a window (O47, O48). -/
namespace Sys2Proof.Machine

open Sys2Proof

section

variable {s : State} {f : FeederId} {n : CycleNumber}

/-! ## Messages of a handle that are queued or owed -/

theorem Feeder.queuedOrOwed_iff (fd : Feeder) (h : Nat) (k : MsgKind) : fd.queuedOrOwed h k = true ↔
    (∃ q ∈ fd.ordinary, q.handle = h ∧ q.msg.kind = k) ∨ ∃ m, (fd.record h).owed = some m ∧ m.kind = k := by
  simp [Feeder.queuedOrOwed, holdsMsg, QMsg.isFor]

theorem Msg.kind_eq_admission_iff (m : Msg) : m.kind = .admission ↔ m = .admission := by
  cases m <;> simp [Msg.kind]

/-- An ADMIT of a handle stands in the ordinary band or is owed. -/
theorem Feeder.admits_iff (fd : Feeder) (h : Nat) : fd.queuedOrOwed h .admission = true ↔
    (∃ q ∈ fd.ordinary, q.handle = h ∧ q.msg = .admission) ∨ (fd.record h).owed = some .admission := by
  rw [Feeder.queuedOrOwed_iff]
  simp only [Msg.kind_eq_admission_iff]
  exact or_congr Iff.rfl ⟨fun ⟨m, hm, e⟩ => e ▸ hm, fun h => ⟨_, h, rfl⟩⟩

/-- An unsent STEP removed, from the band and from the owed message (R124, R143). -/
theorem Feeder.removeUnsent_step (fd : Feeder) (h : Nat) : fd.removeUnsent h .step =
    { (fd.setRecord h { fd.record h with
        owed := (fd.record h).owed.filter fun msg => decide (msg.kind ≠ MsgKind.step) }) with
      ordinary := fd.ordinary.filter fun q => !(decide (q.handle = h) && decide (q.msg.kind = MsgKind.step)) } := by
  unfold Feeder.removeUnsent
  rw [Feeder.modRecord_eq]
  simp only [Record.clearOwed_step]
  unfold Feeder.setRecord
  split <;> rfl

/-! ## The end of a check span (O47) -/

theorem HeldMap.grant_handle {m : HeldMap} {g : Grant} {k : GrantKind} {h : Nat} (hg : m.grant k h = some g) :
    g.handle = h := by
  have := List.find?_some hg
  simp only [Bool.and_eq_true, decide_eq_true_eq] at this
  exact this.2

theorem exec_checkSpanEnd {m : HeldMap} {g : Grant} {h : Nat} (hp : s.phase = .running)
    (hm : (s.fd f).mapOf n = some m) (hg : m.grant .check h = some g) :
    exec (.checkSpanEnd f n h) s = .next (s.judgeSpan f g) := by
  rw [exec_event_running rfl hp]
  show Host.Outcome.next (s.checkSpanEnd f n h) = _
  unfold State.checkSpanEnd
  rw [hm]
  simp only [hg]

/-- The last check of a SUSPECT record ejects it (R144, R175). -/
theorem State.missSuspect_last {h : Nat} (hl : (s.record f h).suspectLeft = 1) :
    s.missSuspect f h = (s.setFd f ((s.fd f).setRecord h { s.record f h with suspectLeft := 0 })).eject f h
      (if (s.record f h).mainsFailing then .mainsLost else .silent) := by
  unfold State.missSuspect
  simp only [hl]
  rw [if_pos (Nat.le_refl 1), State.modRecord_eq, hl]

theorem State.Within.bars {t : State} (h : s.Within f t) : t.bars = s.bars := by rw [h.2]

/-- Settles O47: the marks of the grant, then the state of its record. -/
theorem unansweredCheckIsJudged : Obligations.UnansweredCheckIsJudged := by
  intro s f n h m g hp h1 h2 hm hg fd r p miss after leaves
  have hafter : after = .next (s.judgeSpan f g) := exec_checkSpanEnd hp hm hg
  have hgh : g.handle = h := HeldMap.grant_handle hg
  have hmiss : incUpTo 15 r.miss = miss := rfl
  have hrec (x : Record) : (s.setFd f (fd.setRecord h x)).record f h = x := by
    rw [State.record, State.fd_setFd, Feeder.record_setRecord_self _ h _ h1 h2]
  rw [hafter]
  refine ⟨fun hq => ?_, fun ha hgb hc hd => ?_, fun ha hgb hc => ?_⟩
  · refine congrArg _ ?_
    unfold State.judgeSpan
    rcases hq with hq | hq | ⟨hc, hd⟩
    · simp [hq]
    · simp [hq]
    · simp [hc, show (s.fd f).dark = true from hd]
  · have hspan : s.judgeSpan f g = s.missCheck f h := by
      unfold State.judgeSpan
      rw [if_neg (by simp [hc]), if_neg (by simp [ha]), if_neg (by rw [show (s.fd f).dark = false from hd]; decide),
        if_neg (by simp [hgb]), hgh]
    have hservice (hs : r.state = .inService) : s.judgeSpan f g = s.setFd f (fd.setRecord h (r.missService p.missLimit)) := by
      rw [hspan]
      unfold State.missCheck
      rw [show (s.record f h).state = .inService from hs]
      rfl
    have hsuspect (hs : r.state = .suspect) : s.judgeSpan f g = s.missSuspect f h := by
      rw [hspan]
      unfold State.missCheck
      rw [show (s.record f h).state = .suspect from hs]
    have hlevelling (hs : r.state = .levelling) : s.judgeSpan f g = s.missLevelling f h := by
      rw [hspan]
      unfold State.missCheck
      rw [show (s.record f h).state = .levelling from hs]
    have hleaves {x : Record} (e : s.judgeSpan f g = s.setFd f (fd.setRecord h x)) : leaves x :=
      hafter.trans (congrArg _ e)
    refine ⟨fun hs h0 => hleaves ((hservice hs).trans ?_), fun hs h0 hlt => hleaves ((hservice hs).trans ?_),
      fun hs h0 hle => hleaves ((hservice hs).trans ?_), fun hs hl => hleaves ((hsuspect hs).trans ?_),
      fun hs hl => ⟨_, rfl, ?_⟩, fun hs hl ht => ?_, ?_, fun hl hi hs => ?_⟩
    · unfold Record.missService
      rw [if_pos h0]
    · unfold Record.missService
      rw [if_neg (by omega)]
      simp only [hmiss]
      rw [if_neg (Nat.not_le.mpr hlt)]
    · unfold Record.missService
      rw [if_neg (by omega)]
      simp only [hmiss]
      rw [if_pos hle]
      simp only [Record.toSuspect, Record.endWatch, hs, if_true]
    · unfold State.missSuspect
      exact if_neg (Nat.not_le.mpr hl)
    · rw [hsuspect hs, State.missSuspect_last hl]
      have hx : (s.setFd f ((s.fd f).setRecord h { s.record f h with suspectLeft := 0 })).record f h =
          { r with suspectLeft := 0 } := hrec _
      obtain ⟨o, eo⟩ := State.record_eject (s.setFd f ((s.fd f).setRecord h { s.record f h with suspectLeft := 0 })) f h
        (if (s.record f h).mainsFailing then .mainsLost else .silent) h1 h2
        (by rw [hx]; exact (congrArg RecState.active hs).trans rfl)
      have hw := State.within_eject f (s.setFd f ((s.fd f).setRecord h { s.record f h with suspectLeft := 0 })) h
        (if (s.record f h).mainsFailing then .mainsLost else .silent)
      rw [eo, hx]
      exact ⟨rfl, rfl, rfl, hw.bars.trans (State.setFd_bars s f _), hw.1.trans (State.fd_setFd_other s f _)⟩
    · rw [hsuspect hs, State.missSuspect_last hl]
      refine congrArg _ (State.eject_eq_ejection _ f h _ h1 h2 ?_ ?_ ?_)
      · rw [hrec]; exact (congrArg RecState.active hs).trans rfl
      · rw [hrec]; exact fun e => by rw [show (s.record f h).state = .suspect from hs] at e; cases e
      · rw [State.fd_setFd, Feeder.setRecord_hunt]; exact ht
    · intro admits
      have hlimit : (s.profileOf (s.record f h)).missLimit = p.missLimit := rfl
      have hset : s.modRecord f h (fun r => { r with miss := incUpTo 15 r.miss }) =
          s.setFd f (fd.setRecord h { r with miss := miss }) := rfl
      have hadm : ((s.setFd f (fd.setRecord h { r with miss := miss })).fd f).queuedOrOwed h .admission = true ↔
          admits := by
        rw [State.fd_setFd, Feeder.admits_iff, Feeder.setRecord_ordinary, Feeder.record_setRecord_self _ h _ h1 h2]
      have hlevel : s.missLevelling f h = if p.missLimit ≤ miss ∧
          ((s.setFd f (fd.setRecord h { r with miss := miss })).fd f).queuedOrOwed h .admission = false then
          (s.setFd f (fd.setRecord h { r with miss := miss })).modFd f fun fd =>
            (fd.removeUnsent h .step).offerOrdinary h .admission
          else s.setFd f (fd.setRecord h { r with miss := miss }) := by
        unfold State.missLevelling
        simp only [hset, hlimit, hrec]
      refine ⟨fun hs hno => hleaves ((hlevelling hs).trans (hlevel.trans ?_)),
        fun hs hle hno => congrArg _ ((hlevelling hs).trans (hlevel.trans ?_))⟩
      · refine if_neg fun ⟨hle, hq⟩ => ?_
        rcases hno with hno | hno
        · exact Nat.not_le.mpr hno hle
        · rw [hadm.mpr hno] at hq; cases hq
      · rw [if_pos ⟨hle, Bool.eq_false_iff.mpr (mt hadm.mp hno)⟩, State.modFd, State.fd_setFd, State.setFd_setFd,
          Feeder.removeUnsent_step, Feeder.record_setRecord_self _ h _ h1 h2, Feeder.setRecord_setRecord,
          Feeder.setRecord_ordinary]
    · refine congrArg _ (hspan.trans ?_)
      unfold State.missCheck
      cases e : (s.record f h).state with
      | levelling => exact absurd e hl
      | inService => exact absurd e hi
      | suspect => exact absurd e hs
      | _ => rfl
  · have hspan : s.judgeSpan f g = s.failConfirm f h := by
      unfold State.judgeSpan
      rw [if_pos hc, if_neg (by simp [ha, hgb]), hgh]
    rw [hspan]
    refine ⟨fun hn => congrArg _ (if_neg hn), fun hs ht => ⟨_, ?_, congrArg _ (if_pos hs)⟩⟩
    exact State.enterProbing_spec s f h h1 h2 ((congrArg RecState.active hs).trans rfl)
      (fun e => by rw [show (s.record f h).state = .confirming from hs] at e; cases e) ht

/-! ## The end of a window (O48) -/

theorem State.fd_dropWindow (s : State) (g : FeederId) (n : CycleNumber) : (s.dropWindow g n).fd f = s.fd f := by
  cases f <;> rfl

theorem Fan.bits_eq (x : Fan) : (match x with | .f2 => 1 | .f4 => 2 | .f8 => 3) = x.bits := by cases x <;> rfl

/-- A subgroup that splits: its children in poll order on top of the list (R69, R70). -/
theorem Feeder.split_of_fits (fd : Feeder) (g : Subgroup)
    (h : g.len + fd.settings.fan.bits ≤ 24 ∧ fd.splitList.length + 2 ^ fd.settings.fan.bits ≤ 24) :
    fd.split g = { fd with
      splitList := (pollChildren fd.settings.pollOrder (2 ^ fd.settings.fan.bits)
        (fd.splitCounter % 2 ^ fd.settings.fan.bits)).map (g.child fd.settings.fan.bits) ++ fd.splitList
      splitCounter := satInc16 fd.splitCounter } :=
  if_neg fun hc => hc.elim (Nat.not_lt.mpr h.1) (Nat.not_lt.mpr h.2)

/-- A subgroup that does not split goes back on the list, or is dropped when the list is full (R71). -/
theorem Feeder.split_of_not_fits (fd : Feeder) (g : Subgroup)
    (h : ¬ (g.len + fd.settings.fan.bits ≤ 24 ∧ fd.splitList.length + 2 ^ fd.settings.fan.bits ≤ 24)) :
    fd.split g = if fd.splitList.length < 24 then { fd with splitList := g :: fd.splitList } else fd := by
  refine if_pos (show 24 < _ ∨ 24 < _ from ?_)
  by_contra hc
  exact h ⟨Nat.not_lt.mp fun h => hc (.inl h), Nat.not_lt.mp fun h => hc (.inr h)⟩

theorem exec_callInWindowEnd {w : WindowRecord} {g : Subgroup} {spread : Spread} (hp : s.phase = .running)
    (hw : s.windowOf f n = some w) (hu : w.window.use = .callIn g spread) :
    exec (.callInWindowEnd f n) s = .next ((s.dropWindow f n).setFd f ((s.fd f).takeOutcome w.outcome g)) ∧
      exec (.probeWindowEnd f n) s = .next s := by
  rw [exec_event_running rfl hp, exec_event_running rfl hp]
  constructor
  · show Host.Outcome.next (s.callInWindowEnd f n) = _
    unfold State.callInWindowEnd State.modFd
    rw [hw]
    simp only [hu, State.fd_dropWindow]
  · show Host.Outcome.next (s.probeWindowEnd f n) = _
    unfold State.probeWindowEnd
    rw [hw]
    simp only [hu]

theorem exec_probeWindowEnd {w : WindowRecord} {h : Nat} (hp : s.phase = .running)
    (hw : s.windowOf f n = some w) (hu : w.window.use = .probe h) :
    exec (.probeWindowEnd f n) s =
        .next (if w.answered then s.dropWindow f n else (s.dropWindow f n).failProbe f h) ∧
      exec (.callInWindowEnd f n) s = .next s := by
  rw [exec_event_running rfl hp, exec_event_running rfl hp]
  constructor
  · show Host.Outcome.next (s.probeWindowEnd f n) = _
    unfold State.probeWindowEnd
    rw [hw]
    simp only [hu]
  · show Host.Outcome.next (s.callInWindowEnd f n) = _
    unfold State.callInWindowEnd
    rw [hw]
    simp only [hu]

/-- Settles O48: the window's use, then its outcome. -/
theorem windowEndsReportOutcome : Obligations.WindowEndsReportOutcome := by
  intro s f n w hp hw fd closed counted
  have hfd : (s.dropWindow f n).fd f = fd := State.fd_dropWindow s f n
  refine ⟨fun g spread hu => ?_, fun h hu h1 h2 => ?_⟩
  · intro b start order splits after
    obtain ⟨hcall, hprobe⟩ := exec_callInWindowEnd hp hw hu
    have hb : b = fd.settings.fan.bits := Fan.bits_eq _
    have hcol (hc : w.collided = true) : after = .next (closed.setFd f (Feeder.split counted g)) := by
      refine hcall.trans ?_
      unfold WindowRecord.outcome
      rw [if_pos hc]
      rfl
    refine ⟨fun hc => hcall.trans ?_, fun hc hs => (hcol hc).trans ?_, fun hc hs hl => (hcol hc).trans ?_,
      fun hc hs hl => (hcol hc).trans ?_, hprobe⟩
    · have : (s.fd f).takeOutcome w.outcome g = s.fd f := by
        unfold WindowRecord.outcome
        rw [if_neg (by simp [hc])]
        split <;> rfl
      rw [this, ← State.fd_dropWindow (f := f) s f n, State.setFd_fd]
      rfl
    · have horder : order = pollChildren fd.settings.pollOrder (2 ^ b) (fd.splitCounter % 2 ^ b) := by
        show List.map _ _ = List.map _ _
        cases fd.settings.pollOrder <;> rfl
      rw [Feeder.split_of_fits counted g (show g.len + fd.settings.fan.bits ≤ 24 ∧
        fd.splitList.length + 2 ^ fd.settings.fan.bits ≤ 24 from hb ▸ hs), horder, hb]
      rfl
    · rw [Feeder.split_of_not_fits counted g (show ¬ (g.len + fd.settings.fan.bits ≤ 24 ∧
        fd.splitList.length + 2 ^ fd.settings.fan.bits ≤ 24) from hb ▸ hs)]
      exact congrArg (fun x => Host.Outcome.next (closed.setFd f x)) (if_pos hl)
    · rw [Feeder.split_of_not_fits counted g (show ¬ (g.len + fd.settings.fan.bits ≤ 24 ∧
        fd.splitList.length + 2 ^ fd.settings.fan.bits ≤ 24) from hb ▸ hs)]
      exact congrArg (fun x => Host.Outcome.next (closed.setFd f x)) (if_neg (Nat.not_lt.mpr hl))
  · intro r after
    obtain ⟨hprobe, hcall⟩ := exec_probeWindowEnd hp hw hu
    have hrec : (s.dropWindow f n).record f h = r := by unfold State.record; rw [hfd]
    have hfail (ha : w.answered = false) : after = .next ((s.dropWindow f n).failProbe f h) :=
      hprobe.trans (congrArg _ (if_neg (by simp [ha])))
    refine ⟨fun hq => ?_, fun ha hs hlt => (hfail ha).trans (congrArg _ ?_),
      fun ha hs hge ht => (hfail ha).trans (congrArg _ ?_), hcall⟩
    · cases ha : w.answered with
      | true => exact hprobe.trans (congrArg _ (if_pos ha))
      | false =>
        have hs : r.state ≠ .probing := hq.resolve_left (by simp [ha])
        exact (hfail ha).trans (congrArg _ (if_neg (by rw [hrec]; exact hs)))
    · rw [(State.failProbe_of_record h1 h2 hrec hs).1 hlt, State.modFd, hfd]
      rfl
    · rw [(State.failProbe_of_record h1 h2 hrec hs).2 hge (by rw [hfd]; exact ht), State.modFd, hfd]
      rfl

end

end Sys2Proof.Machine

/-! PROOFS. The dispatch of each kind of message, and what it does to the record of its handle (O37). -/
namespace Sys2Proof.Machine

open Sys2Proof

section

variable {s : State} {f : FeederId} {n : CycleNumber}

theorem RecState.takesCorrection_iff (x : RecState) : x.takesCorrection = true ↔
    x = .levelling ∨ x = .inService ∨ x = .suspect ∨ x = .huntHeld ∨ x = .hushed := by
  cases x <;> simp [RecState.takesCorrection]

/-! ## A message that its record takes -/

theorem Record.delaySent_correction (r : Record) (n : CycleNumber) (eqd : Nat) (companion : Option Int)
    (h : r.state.takesCorrection = true) :
    r.delaySent n eqd companion = { r with eqd := eqd, settle := some n, driftRun := 0 } := by
  unfold Record.delaySent
  rw [if_neg (fun e => by rw [e] at h; cases h), if_pos h]

/-- The release of a HUNT_HELD record by its RESUME, and the hunt's next choice when it was the target in RELEASING
(R158, R162). -/
theorem State.resumeSent_huntHeld {h : Nat} (hs : (s.record f h).state = .huntHeld) :
    s.resumeSent f h =
      if (s.fd f).hunt.target = some h ∧ (s.fd f).hunt.phase = some .releasing then
        (s.modRecord f h (·.released)).chooseTarget f
      else s.modRecord f h (·.released) := by
  unfold State.resumeSent
  rw [hs]

theorem State.resumeSent_hushed {h : Nat} (hs : (s.record f h).state = .hushed) :
    s.resumeSent f h = s.modRecord f h (·.recovered) := by
  unfold State.resumeSent
  rw [hs]

theorem State.resumeSent_of_ne {h : Nat} (h1 : (s.record f h).state ≠ .huntHeld) (h2 : (s.record f h).state ≠ .hushed) :
    s.resumeSent f h = s := by
  unfold State.resumeSent
  split
  · exact absurd ‹_› h1
  · exact absurd ‹_› h2
  · rfl

/-! ## A message that its record does not take -/

/-- The record of a handle is in a state that takes the message (R14, R16, R108, R114, R125, R127, R159, R162, R168). -/
def State.takesMsg (s : State) (f : FeederId) (h : Nat) : Msg → Prop
  | .name _ _ => (s.record f h).state = .named
  | .delay _ _ => (s.record f h).state = .probing ∨ (s.record f h).state.takesCorrection = true
  | .step _ => (s.record f h).state.takesCorrection = true
  | .admission => (s.record f h).state = .levelling
  | .hush => (s.record f h).state = .huntHeld ∧ (s.fd f).hunt.target = some h ∧
      (s.fd f).hunt.phase = some .hushOffered
  | .resume => (s.record f h).state = .huntHeld ∨ (s.record f h).state = .hushed
  | .eject _ => (s.record f h).state = .ejected

theorem State.report_of_not_takes {h : Nat} {m : Msg} (hm : ¬ s.takesMsg f h m) :
    s.report f n { handle := h, msg := m } = s := by
  cases m with
  | name serial eqd => exact State.modRecord_of_eq (if_neg hm)
  | delay eqd companion =>
    refine State.modRecord_of_eq ?_
    unfold Record.delaySent
    rw [if_neg fun e => hm (.inl e), if_neg fun e => hm (.inr e)]
  | step up => exact State.modRecord_of_eq (if_neg hm)
  | admission => exact if_neg hm
  | hush => exact State.modFd_of_eq (if_neg hm)
  | resume => exact State.resumeSent_of_ne (fun e => hm (.inl e)) (fun e => hm (.inr e))
  | eject reason => exact State.modRecord_of_eq (if_neg hm)

/-- Settles O37: each kind of message by the state of its record, and the dispatch as the fold of its reports. -/
theorem dispatchChangesRecords : Obligations.DispatchChangesRecords := by
  intro s f n h h1 h2 fd r p serves takes becomes
  have hserves : serves ↔ r.state.takesCorrection = true := (RecState.takesCorrection_iff _).symm
  have hbecomes {m : Msg} {g : Record → Record} {x : Record}
      (hm : s.report f n { handle := h, msg := m } = s.modRecord f h g) (hx : g r = x) : becomes m x :=
    hm.trans (congrArg (fun y => s.setFd f (fd.setRecord h y)) hx)
  have htakes (m : Msg) : s.takesMsg f h m → takes m := by
    cases m with
    | delay => exact Or.imp id hserves.mpr
    | step => exact hserves.mpr
    | _ => exact id
  refine ⟨fun serial eqd hs => hbecomes rfl (if_pos hs), fun eqd residue hs => hbecomes rfl (if_pos hs),
    fun eqd hs => hbecomes rfl (Record.delaySent_correction r n eqd none (hserves.mp hs)),
    fun hs hl => hbecomes rfl ((if_pos (hserves.mp hs)).trans ?_),
    fun hs hl => hbecomes rfl (if_pos (hserves.mp hs)), fun hs => if_pos hs,
    fun hs ht hph => congrArg (s.setFd f) (if_pos ⟨hs, ht, hph⟩), fun held st hs hh hst => ?_,
    fun hs => State.resumeSent_hushed hs, fun reason hs => hbecomes rfl (if_pos hs),
    fun m hm => State.report_of_not_takes (mt (htakes m) hm), ?_, ?_⟩
  · have hup : stepLevel true r.levelSetting = r.levelSetting + 1 := if_pos hl
    rw [hup]
  · intro freed after
    have hfreed : s.modRecord f h (·.released) = freed := by
      rw [State.modRecord_eq]
      refine congrArg (fun y => s.setFd f (fd.setRecord h y)) ?_
      show ({ r with state := (r.heldFrom.getD .inService).toState, heldFrom := none } : Record) = _
      rw [hh]
      rcases hst with ⟨rfl, rfl⟩ | ⟨rfl, rfl⟩ <;> rfl
    have hafter := State.resumeSent_huntHeld (s := s) (f := f) (h := h) hs
    rw [hfreed] at hafter
    refine ⟨fun hno => hafter.trans (if_neg hno), fun ht hph => ?_⟩
    rw [show after = _ from hafter, if_pos ⟨ht, hph⟩]
    exact State.chooseTarget_spec freed f
  · unfold State.dispatch
    rw [if_neg (by decide), Feeder.takeMessages_eq]
  · unfold State.dispatch
    rw [if_neg (by decide), Feeder.takeMessages_eq]
    exact State.reportAll_fst _ f n _

end

end Sys2Proof.Machine

/-! PROOFS. The build of a cycle as far as its award: what a feeder asks for, the award, and the bare headers (O35). -/
namespace Sys2Proof.Machine

open Sys2Proof

section

variable {s u : State} {f : FeederId} {n : CycleNumber} {h : Nat}

/-! ## What a feeder asks for (R57 to R59) -/

theorem State.probePlaced_iff (u : State) (f : FeederId) (h : Nat) :
    u.probePlaced f h = true ↔ ∃ w ∈ u.windows, w.feeder = f ∧ w.window.use = .probe h := by
  simp [State.probePlaced]

/-- A record awaits a probe: PROBING, with no DELAY queued or owed and no probe window that has not closed (R58). -/
theorem State.awaitsProbe_iff (u : State) (f : FeederId) (h : Nat) :
    u.awaitsProbe f h ((u.fd f).record h) = true ↔
      ((u.fd f).record h).state = .probing ∧
        (∀ q ∈ (u.fd f).ordinary, ¬ (q.handle = h ∧ q.msg.kind = .delay)) ∧
        (∀ m, ((u.fd f).record h).owed = some m → m.kind ≠ .delay) ∧
        ∀ w ∈ u.windows, ¬ (w.feeder = f ∧ w.window.use = .probe h) := by
  unfold State.awaitsProbe
  rw [Bool.and_eq_true, Bool.and_eq_true, decide_eq_true_iff, Bool.not_eq_true', Bool.not_eq_true',
    Bool.eq_false_iff, Bool.eq_false_iff, Ne, Ne, Feeder.queuedOrOwed_iff, State.probePlaced_iff]
  push Not
  tauto

/-- The handles that await a probe, lowest first. -/
def State.awaiting (u : State) (f : FeederId) : List Nat := (u.fd f).handlesWhere fun h r => u.awaitsProbe f h r

theorem State.mem_awaiting : h ∈ u.awaiting f ↔ u.awaitsProbe f h ((u.fd f).record h) = true := by
  unfold State.awaiting
  rw [Feeder.mem_handlesWhere]
  refine ⟨fun hh => hh.2.2, fun hh => ?_⟩
  have hs := ((State.awaitsProbe_iff u f h).mp hh).1
  have hin : ¬ (h = 0 ∨ 255 < h) := fun hout => by
    rw [Feeder.record_of_out _ _ hout] at hs; cases hs
  exact ⟨by omega, by omega, hh⟩

theorem State.nextProbe_eq_none : u.nextProbe f = none ↔ ∀ h, ¬ u.awaitsProbe f h ((u.fd f).record h) = true := by
  have hn : u.nextProbe f = none ↔ u.awaiting f = [] := by
    unfold State.nextProbe
    show (match (u.awaiting f).find? fun h => decide ((u.fd f).lastProbed < h) with
      | some h => some h
      | none => (u.awaiting f).head?) = none ↔ _
    cases e : (u.awaiting f).find? fun h => decide ((u.fd f).lastProbed < h) with
    | none => exact List.head?_eq_none_iff
    | some h => exact ⟨nofun, fun hl => by rw [hl] at e; cases e⟩
  rw [hn, List.eq_nil_iff_forall_not_mem]
  exact forall_congr' fun h => not_congr State.mem_awaiting

theorem Feeder.callInDue_isSome_iff (fd : Feeder) : fd.callInDue.isSome = true ↔
    fd.state = .opened ∧ fd.dark = false ∧ fd.stray = false ∧ fd.arrivals.length < 16 ∧ fd.gapCd = 0 ∧
      (fd.splitList ≠ [] ∨ fd.rootCd = 0) := by
  unfold Feeder.callInDue Config.arrivalsCapacity
  by_cases hc : fd.state = .opened ∧ fd.dark = false ∧ fd.stray = false ∧ fd.arrivals.length < 16 ∧ fd.gapCd = 0
  · obtain ⟨h1, h2, h3, h4, h5⟩ := hc
    rw [if_pos ⟨h1, h2, h3, h4, h5⟩]
    cases fd.splitList with
    | cons g l => simp [h1, h2, h3, h4, h5]
    | nil => by_cases hr : fd.rootCd = 0 <;> simp [h1, h2, h3, h4, h5, hr]
  · rw [if_neg hc]
    exact ⟨nofun, fun ⟨h1, h2, h3, h4, h5, _⟩ => absurd ⟨h1, h2, h3, h4, h5⟩ hc⟩

theorem State.asks_iff (u : State) (f : FeederId) : u.asks f = true ↔
    ((u.fd f).state = .opened ∨ (u.fd f).state = .paused) ∧
      ((∃ h, u.awaitsProbe f h ((u.fd f).record h) = true) ∨ (u.fd f).callInDue.isSome = true) := by
  have hp : (u.nextProbe f).isSome = true ↔ ∃ h, u.awaitsProbe f h ((u.fd f).record h) = true := by
    rw [Option.isSome_iff_ne_none, Ne, State.nextProbe_eq_none]
    push Not
    rfl
  unfold State.asks
  rw [Bool.and_eq_true, Bool.or_eq_true, hp, FeederState.serving_iff]

/-! ## The award (R60, R61) -/

theorem State.makeAward_of_some {a : Award} (ha : s.award = some a) : s.makeAward n = s := by
  unfold State.makeAward; rw [ha]

theorem State.makeAward_of_none (ha : s.award = none) :
    s.makeAward n = s.withAward
      (some { cycle := n, winner := awardWinner s.lastServed (s.asks .A) (s.asks .B) })
      ((awardWinner s.lastServed (s.asks .A) (s.asks .B)).getD s.lastServed) := by
  unfold State.makeAward; rw [ha]; rfl

theorem State.nameAt_eq (s : State) (f : FeederId) (here point : NamingPoint) :
    s.nameAt f here point = if point = here then s.name f else s := by
  unfold State.nameAt
  by_cases e : point = here
  · rw [if_pos e, if_pos e.symm]
  · rw [if_neg e, if_neg fun x => e x.symm]

theorem State.award_nameAt (s : State) (f : FeederId) (here point : NamingPoint) :
    (s.nameAt f here point).award = s.award ∧ (s.nameAt f here point).lastServed = s.lastServed := by
  unfold State.nameAt
  split
  · exact s.award_name f
  · exact ⟨rfl, rfl⟩

theorem State.withAward_nameAt (s : State) (w : Option Award) (l f : FeederId) (here point : NamingPoint) :
    (s.withAward w l).nameAt f here point = (s.nameAt f here point).withAward w l := by
  unfold State.nameAt
  split
  · exact s.withAward_name w l f
  · rfl

/-! ## The header behind the award -/

/-- The header of a feeder in a state, with the award already made (R37, R38, R133). -/
def State.composeHeader (s : State) (f : FeederId) (n : CycleNumber) (order : BuildOrder) : FeederState → State
  | .closed => s
  | .quieting => s.modFd f (·.writeBare n .quiet)
  | .purging => s.modFd f (·.writeBare n .purge)
  | .opened => s.buildFull f n order
  | .paused => s.buildFull f n order

theorem State.build_eq (s : State) (f : FeederId) (order : BuildOrder) : s.build f order =
    if (s.fd f).state = .closed ∨ (s.fd f).nextHeader.isSome = true then s
    else ((s.nameAt f .beforeAward order.naming).makeAward (s.cycle + 1#16)).composeHeader f (s.cycle + 1#16) order
      (s.fd f).state := by
  unfold State.build State.composeHeader
  rfl

theorem State.build_of_awake (order : BuildOrder) (hc : (s.fd f).state ≠ .closed) (hh : (s.fd f).nextHeader = none) :
    s.build f order = ((s.nameAt f .beforeAward order.naming).makeAward (s.cycle + 1#16)).composeHeader f
      (s.cycle + 1#16) order (s.fd f).state := by
  rw [State.build_eq, if_neg (by simp [hc, hh])]

theorem exec_cycleBuild (order : BuildOrder) (hp : s.phase = .running) :
    exec (.cycleBuild f order) s = .next (s.build f order) := exec_event_running rfl hp

theorem State.Within.award {t : State} (h : s.Within f t) : t.award = s.award ∧ t.lastServed = s.lastServed := by
  rw [h.2]; exact ⟨rfl, rfl⟩

theorem State.award_windowStage (s : State) (f : FeederId) (n : CycleNumber) :
    (s.windowStage f n).1.award = s.award ∧ (s.windowStage f n).1.lastServed = s.lastServed := by
  unfold State.windowStage State.placeWindow
  split
  · simp only
    split
    · simp
    · split
      · simp
      · exact ⟨rfl, rfl⟩
  · exact ⟨rfl, rfl⟩

theorem State.within_dataStage (f : FeederId) (s : State) (guard : Nat) (moved : List Nat) (deferred : Bool) (m : GrantMap) :
    s.Within f (s.dataStage f guard moved deferred m).1 := by
  unfold State.dataStage
  cases deferred with
  | true => exact State.within_modFd f s _
  | false => exact (State.within_placeData f guard _ s m).trans (State.within_modFd f _ _)

theorem State.within_placeGrants (f : FeederId) (s : State) (guard : Nat) (moved : List Nat) (w : Option Window) :
    s.Within f (s.placeGrants f guard moved w).1 :=
  ((State.within_placeChecks f guard ((s.fd f).checksDue moved) s
    { next := firstOffset guard w, grants := [] }).trans (State.within_modFd f _ _)).trans
    (State.within_dataStage f _ guard moved _ _)

/-- A build leaves the award that it finds (R61). -/
theorem State.award_buildFull (s : State) (f : FeederId) (n : CycleNumber) (order : BuildOrder) :
    (s.buildFull f n order).award = s.award ∧ (s.buildFull f n order).lastServed = s.lastServed := by
  have htrans {a b c : State} (h : b.award = a.award ∧ b.lastServed = a.lastServed)
      (k : c.award = b.award ∧ c.lastServed = b.lastServed) : c.award = a.award ∧ c.lastServed = a.lastServed :=
    ⟨k.1.trans h.1, k.2.trans h.2⟩
  have hmod (a : State) (g : Feeder → Feeder) : (a.modFd f g).award = a.award ∧ (a.modFd f g).lastServed = a.lastServed :=
    ⟨State.modFd_award a f g, State.modFd_lastServed a f g⟩
  unfold State.buildFull
  refine htrans (htrans (htrans (htrans (htrans (htrans (htrans (htrans (s.award_nameAt f .beforeDispatch order.naming)
    ?_) (State.award_nameAt _ f .afterDispatch order.naming)) (hmod _ _))
    (State.award_nameAt _ f .afterReoffers order.naming)) (State.award_windowStage _ f n))
    (State.within_placeGrants f _ _ _ _).award) (State.award_nameAt _ f .afterPlacement order.naming)) (hmod _ _)
  exact (State.spoken_dispatch f _ n order.reportsJoin).1.award

theorem State.award_composeHeader (s : State) (f : FeederId) (n : CycleNumber) (order : BuildOrder) (x : FeederState) :
    (s.composeHeader f n order x).award = s.award ∧ (s.composeHeader f n order x).lastServed = s.lastServed := by
  cases x with
  | closed => exact ⟨rfl, rfl⟩
  | quieting => exact ⟨State.modFd_award .., State.modFd_lastServed ..⟩
  | purging => exact ⟨State.modFd_award .., State.modFd_lastServed ..⟩
  | opened => exact s.award_buildFull f n order
  | paused => exact s.award_buildFull f n order

/-- An event of one feeder leaves the other feeder alone, but for arrivals that it takes away. -/
theorem exec_onlyFeeder {i : Instr} {t : State} (hi : feederOf i = some f) (e : exec i s = .next t) :
    t.fd f.other = { s.fd f.other with arrivals := (t.fd f.other).arrivals } :=
  ((keepsCoarse_onlyFeeder f s).keeps.feederEvent
    (fun v u h _ => h.trans (State.onlyFeeder_of_fd (by cases f <;> rfl) rfl (State.samePlan_of_plan rfl))) rfl
    (.refl f s) hi e).other

theorem FeederId.eq_other_of_ne {f g : FeederId} (h : g ≠ f) : g = f.other := by
  cases f <;> cases g
  · exact absurd rfl h
  · rfl
  · rfl
  · exact absurd rfl h

/-- Settles O35: the award's table, and a header behind an award that stands. -/
theorem awardsAndBareBuilds : Obligations.AwardsAndBareBuilds := by
  refine ⟨⟨fun s f order hp hc hh ha => ?_, rfl⟩, fun s f order hp => ?_⟩
  · intro asked awaits callInIsDue asks winner hnone hA hB hAB
    have hn : asked = s.nameAt f .beforeAward order.naming := (State.nameAt_eq s f .beforeAward order.naming).symm
    obtain ⟨haward, hlast⟩ := State.award_nameAt s f .beforeAward order.naming
    rw [← hn] at haward hlast
    have hasks (g : FeederId) : asked.asks g = true ↔ asks g := by
      rw [State.asks_iff]
      exact and_congr_right fun _ => or_congr (exists_congr fun h => State.awaitsProbe_iff asked g h)
        (Feeder.callInDue_isSome_iff _)
    have hwin : awardWinner asked.lastServed (asked.asks .A) (asked.asks .B) = winner := by
      rw [hlast]
      cases eA : asked.asks .A <;> cases eB : asked.asks .B
      · exact (hnone (fun x => by simp [(hasks .A).mpr x] at eA) (fun x => by simp [(hasks .B).mpr x] at eB)).symm
      · exact (hB (fun x => by simp [(hasks .A).mpr x] at eA) ((hasks .B).mp eB)).symm
      · exact (hA ((hasks .A).mp eA) (fun x => by simp [(hasks .B).mpr x] at eB)).symm
      · exact (hAB ((hasks .A).mp eA) ((hasks .B).mp eB)).symm
    have hmade : asked.makeAward (s.cycle + 1#16) =
        asked.withAward (some { cycle := s.cycle + 1#16, winner := winner }) (winner.getD s.lastServed) := by
      rw [State.makeAward_of_none (haward.trans ha), hwin, hlast]
    have hbuild : s.build f order = (asked.withAward (some { cycle := s.cycle + 1#16, winner := winner })
        (winner.getD s.lastServed)).composeHeader f (s.cycle + 1#16) order (s.fd f).state := by
      rw [State.build_of_awake order hc hh, ← hn, hmade]
    have hexec := exec_cycleBuild (f := f) order hp
    refine ⟨_, hexec, ?_, ?_, fun g hg => ?_, ?_⟩
    · rw [hbuild, (State.award_composeHeader _ f _ order _).1]; rfl
    · rw [hbuild, (State.award_composeHeader _ f _ order _).2]; rfl
    · have hother := exec_onlyFeeder rfl hexec
      rw [FeederId.eq_other_of_ne hg, hother]
      exact ⟨rfl, rfl, rfl, rfl, rfl⟩
    · have hs : ({ s with
          award := some { cycle := s.cycle + 1, winner := winner }, lastServed := winner.getD s.lastServed } : State) =
          s.withAward (some { cycle := s.cycle + 1#16, winner := winner }) (winner.getD s.lastServed) := rfl
      have hrow : ∀ a l, exec (.cycleBuild f order) (s.withAward a l) = .next ((s.withAward a l).build f order) :=
        fun a l => exec_cycleBuild order hp
      rw [hexec, hs, hrow, hbuild,
        State.build_of_awake order (by rw [State.withAward_fd]; exact hc) (by rw [State.withAward_fd]; exact hh),
        State.withAward_nameAt, ← hn, State.makeAward_of_some rfl, State.withAward_fd]
      rfl
  · intro fd bare
    refine ⟨fun hq => ?_, fun hh ha => ?_⟩
    · rw [exec_cycleBuild order hp, State.build_eq]
      refine congrArg _ (if_pos (hq.imp id fun hne => ?_))
      exact Option.isSome_iff_ne_none.mpr hne
    · obtain ⟨a, ha⟩ := Option.ne_none_iff_exists'.mp ha
      have hbuild (hst : fd.state = .quieting ∨ fd.state = .purging) :
          exec (.cycleBuild f order) s = .next (s.composeHeader f (s.cycle + 1#16) order fd.state) := by
        have hser : (s.fd f).state.serving = false := by
          rcases hst with e | e <;> rw [show (s.fd f).state = _ from e] <;> rfl
        have hname : s.nameAt f .beforeAward order.naming = s := by
          unfold State.nameAt State.name
          rw [hser]
          split <;> rfl
        rw [exec_cycleBuild order hp, State.build_of_awake order
          (fun e => by rw [show (s.fd f).state = .closed from e] at hser hst; rcases hst with x | x <;> cases x) hh,
          hname, State.makeAward_of_some ha]
      refine ⟨fun hst => (hbuild (.inl hst)).trans ?_, fun hst => (hbuild (.inr hst)).trans ?_⟩
      · rw [hst]; rfl
      · rw [hst]; rfl

end

end Sys2Proof.Machine

/-! PROOFS. The placement of grants in a build: which checks and DATA grants stand in the header, and what the placement
leaves of the feeder (O36, stages 3 and 4 of R133). -/
namespace Sys2Proof.Machine

open Sys2Proof

section

variable {s u : State} {f : FeederId} {n : CycleNumber} {guard c d : Nat} {moved checks datas : List Nat}
  {window : Option Window}

/-! ## How many grants are placed (R134) -/

/-- Of a row of grants with these ends, at most one number is placed: those that fit, up to the first that does not. -/
theorem eq_of_fits {ends : Nat → Nat} (he : ∀ i j, i ≤ j → ends i ≤ ends j) {len m a b : Nat} (ha : a ≤ len) (hb : b ≤ len)
    (ha1 : 0 < a → ends a ≤ 16000 ∧ m + a ≤ 64) (ha2 : a < len → 16000 < ends (a + 1) ∨ 64 ≤ m + a)
    (hb1 : 0 < b → ends b ≤ 16000 ∧ m + b ≤ 64) (hb2 : b < len → 16000 < ends (b + 1) ∨ 64 ≤ m + b) : a = b := by
  rcases Nat.lt_trichotomy a b with h | h | h
  · have := hb1 (by omega)
    have := he (a + 1) b h
    have := ha2 (by omega)
    omega
  · exact h
  · have := ha1 (by omega)
    have := he (b + 1) a h
    have := hb2 (by omega)
    omega

theorem State.dataEnd_mono (u : State) (f : FeederId) (guard next : Nat) (hs : List Nat) (i j : Nat) (h : i ≤ j) :
    u.dataEnd f guard next hs i ≤ u.dataEnd f guard next hs j := by
  unfold State.dataEnd
  refine Nat.add_le_add_left ?_ _
  have hsub : (hs.take i).Sublist (hs.take j) := by
    rw [show hs.take i = (hs.take j).take i by rw [List.take_take, Nat.min_eq_left h]]
    exact List.take_sublist _ _
  exact List.Sublist.sum_le_sum (hsub.map _) fun _ _ => Nat.zero_le _

/-! ## Which grants are due (R135, R137) -/

theorem Record.checkDue_iff (r : Record) : r.checkDue = true ↔
    r.state = .confirming ∨ r.state = .levelling ∨ r.state = .suspect ∨ (r.state = .inService ∧ r.checkCd = 0) := by
  unfold Record.checkDue
  cases r.state <;> simp

theorem State.dataDue_iff (s : State) (r : Record) : s.dataDue r = true ↔
    r.state = .inService ∧ 0 < (s.profileOf r).dataLength ∧ r.dataCd = 0 := by
  unfold State.dataDue
  simp [and_assoc]

theorem Feeder.record_of_table {a b : Feeder} (h : a.table = b.table) (k : Nat) : a.record k = b.record k := by
  unfold Feeder.record; rw [h]

/-- A handle whose record is not FREE lies within the table. -/
theorem Feeder.in_range_of_state {fd : Feeder} {k : Nat} (h : (fd.record k).state ≠ .free) : 1 ≤ k ∧ k ≤ 255 := by
  by_contra hout
  exact h (by rw [Feeder.record_of_out fd k (by omega)]; rfl)

theorem Feeder.in_range_of_checkDue {fd : Feeder} {k : Nat} (h : (fd.record k).checkDue = true) : 1 ≤ k ∧ k ≤ 255 :=
  Feeder.in_range_of_state fun e => by
    rcases (Record.checkDue_iff _).mp h with h | h | h | ⟨h, -⟩ <;> rw [e] at h <;> cases h

theorem Feeder.in_range_of_dataDue {fd : Feeder} {k : Nat} (h : u.dataDue (fd.record k) = true) : 1 ≤ k ∧ k ≤ 255 :=
  Feeder.in_range_of_state fun e => by
    have h := ((State.dataDue_iff _ _).mp h).1
    rw [e] at h; cases h

/-- The order of the rotation from a pointer on (R137). -/
def RotatesBefore (pointer j k : Nat) : Prop := if pointer ≤ j then k < pointer ∨ j < k else k < pointer ∧ j < k

theorem RotatesBefore.asymm {pointer j k : Nat} (h : RotatesBefore pointer j k) : ¬ RotatesBefore pointer k j := by
  unfold RotatesBefore at *
  split_ifs at * <;> omega

theorem Before.asymm {wait : Nat → Nat} {j k : Nat} (h : Before wait j k) : ¬ Before wait k j := by
  unfold Before at *; omega

/-- What a build is to place: the due checks and DATA grants in their orders, and how many of each fit (R134 to R137). -/
structure State.Places (u : State) (f : FeederId) (guard : Nat) (moved : List Nat) (window : Option Window)
    (checks datas : List Nat) (c d : Nat) : Prop where
  checksDue : ∀ k, k ∈ checks ↔ ((u.fd f).record k).checkDue = true ∧ k ∉ moved
  checksOrder : checks.Pairwise (Before (u.fd f).wait)
  datasDue : ∀ k, k ∈ datas ↔ u.dataDue ((u.fd f).record k) = true ∧ k ∉ moved
  datasOrder : datas.Pairwise (RotatesBefore (u.fd f).rotation)
  checks_le : c ≤ checks.length
  checksFit : 0 < c → firstOffset guard window + c * (48 + guard) ≤ 16000 ∧ c ≤ 64
  checksFull : c < checks.length → 16000 < firstOffset guard window + (c + 1) * (48 + guard) ∨ 64 ≤ c
  datas_le : d ≤ datas.length
  datasAfter : 0 < d → c = checks.length
  datasFit : 0 < d →
    u.dataEnd f guard (firstOffset guard window + c * (48 + guard)) datas d ≤ 16000 ∧ c + d ≤ 64
  datasFull : d < datas.length → c < checks.length ∨
    16000 < u.dataEnd f guard (firstOffset guard window + c * (48 + guard)) datas (d + 1) ∨ 64 ≤ c + d

theorem State.Places.checks_eq (p : u.Places f guard moved window checks datas c d) :
    (u.fd f).checksDue moved = checks := by
  obtain ⟨hmem, hord⟩ := orderByWait_spec (u.fd f).wait _
    ((u.fd f).pairwise_handlesWhere fun h r => r.checkDue && !moved.contains h)
  refine eq_of_pairwise_of_mem (fun _ _ => Before.asymm) hord p.checksOrder fun k => ?_
  refine (hmem k).trans ?_
  rw [Feeder.mem_handlesWhere, p.checksDue, Bool.and_eq_true]
  simp only [Bool.not_eq_true', List.contains_eq_mem, decide_eq_false_iff_not]
  exact ⟨fun h => h.2.2, fun h => ⟨(Feeder.in_range_of_checkDue h.1).1, (Feeder.in_range_of_checkDue h.1).2, h⟩⟩

theorem State.Places.datas_eq (p : u.Places f guard moved window checks datas c d) {t : State}
    (hrot : (t.fd f).rotation = (u.fd f).rotation)
    (hdue : ∀ k, t.dataDue ((t.fd f).record k) = u.dataDue ((u.fd f).record k)) :
    rotateFrom (t.fd f).rotation ((t.fd f).handlesWhere fun h r => t.dataDue r && !moved.contains h) = datas := by
  obtain ⟨hmem, hord⟩ := rotateFrom_spec (t.fd f).rotation _
    ((t.fd f).pairwise_handlesWhere fun h r => t.dataDue r && !moved.contains h)
  rw [hrot] at hord hmem ⊢
  refine eq_of_pairwise_of_mem (fun _ _ => RotatesBefore.asymm) hord p.datasOrder fun k => ?_
  rw [hmem, Feeder.mem_handlesWhere, p.datasDue, Bool.and_eq_true, hdue]
  simp only [Bool.not_eq_true', List.contains_eq_mem, decide_eq_false_iff_not]
  exact ⟨fun h => h.2.2, fun h => ⟨(Feeder.in_range_of_dataDue h.1).1, (Feeder.in_range_of_dataDue h.1).2, h⟩⟩

/-! ## The CHECK stage -/

/-- The grants of the header behind the CHECK stage (R134, R136). -/
def State.checkMap (u : State) (f : FeederId) (guard : Nat) (window : Option Window) (checks : List Nat) (c : Nat) :
    GrantMap where
  next := firstOffset guard window + c * (48 + guard)
  grants := (checks.take c).zipIdx.map (u.checkGrant f guard (firstOffset guard window))

/-- The DATA grants of the header (R134, R137). -/
def State.dataGrants (u : State) (f : FeederId) (guard : Nat) (window : Option Window) (c : Nat) (datas : List Nat)
    (d : Nat) : List Grant :=
  (datas.take d).zipIdx.map (u.dataGrant f guard (firstOffset guard window + c * (48 + guard)) datas)

/-- The placement of the checks: the first `c`, the rest deferred. -/
theorem State.Places.placeChecks (p : u.Places f guard moved window checks datas c d) :
    ∃ t, u.placeChecks f guard ((u.fd f).checksDue moved) { next := firstOffset guard window, grants := [] } =
        (t, u.checkMap f guard window checks c, checks.drop c) ∧ u.Recorded f t ∧
      ∀ k, t.record f k =
        if k ∈ checks.take c then (u.record f k).checked (u.profileOf (u.record f k)).presence else u.record f k := by
  have hrange : ∀ k ∈ checks, 1 ≤ k ∧ k ≤ 255 := fun k hk => Feeder.in_range_of_checkDue ((p.checksDue k).mp hk).1
  have hnodup : checks.Nodup := p.checks_eq ▸ (u.fd f).nodup_checksDue moved
  obtain ⟨c', t, h1, h2, h3, h4, h5, h6⟩ := State.placeChecks_spec f guard checks hrange hnodup u
    { next := firstOffset guard window, grants := [] }
  have hc : c' = c := eq_of_fits (ends := fun j => firstOffset guard window + j * (48 + guard)) (m := 0)
    (fun i j h => Nat.add_le_add_left (Nat.mul_le_mul_right _ h) _) h2 p.checks_le h3 h4
    (fun h => by simpa using p.checksFit h) (fun h => by simpa using p.checksFull h)
  subst hc
  rw [p.checks_eq]
  exact ⟨t, h1.trans (by rw [List.nil_append]; rfl), h5, h6⟩

/-! ## The feeder that a placement leaves -/

theorem Record.checked_eq (r : Record) (presence : Nat) :
    r.checked presence = { r with checkCd := if r.state = .inService then presence else r.checkCd } := by
  unfold Record.checked; split <;> rfl

theorem State.Recorded.fd {t : State} (h : u.Recorded f t) : t.fd f = { u.fd f with table := (t.fd f).table } := by
  have := congrArg (fun x => State.fd x f) h
  rw [State.fd_setFd] at this
  exact this

/-! ## The DATA stage -/

/-- The placement of the DATA grants behind the checks: the first `d`, or none when a check is deferred (R137). -/
theorem State.Places.placeData (p : u.Places f guard moved window checks datas c d) {v : State} {m : GrantMap}
    (hlen : ∀ k, v.dataLength f k = u.dataLength f k) (hnext : m.next = firstOffset guard window + c * (48 + guard))
    (hgrants : m.grants.length = c) :
    ∃ t next, (if (!(checks.drop c).isEmpty) = true then (v, m, datas) else v.placeData f guard datas m) =
        (t, ({ next := next, grants := m.grants ++ u.dataGrants f guard window c datas d } : GrantMap),
          datas.drop d) ∧ v.Recorded f t ∧
      ∀ k, t.record f k =
        if k ∈ datas.take d then { v.record f k with dataCd := (v.profileOf (v.record f k)).dataInterval }
        else v.record f k := by
  have hend (next : Nat) (j : Nat) : v.dataEnd f guard next datas j = u.dataEnd f guard next datas j := by
    unfold State.dataEnd
    simp only [hlen]
  have hgrant (next : Nat) : v.dataGrant f guard next datas = u.dataGrant f guard next datas := by
    funext y
    unfold State.dataGrant
    rw [hlen, hend]
  by_cases hc : c < checks.length
  · have hd : d = 0 := Nat.eq_zero_of_not_pos fun hd => Nat.ne_of_lt hc (p.datasAfter hd)
    have hdrop : checks.drop c ≠ [] := fun e => by
      have := congrArg List.length e
      simp only [List.length_drop, List.length_nil] at this
      omega
    refine ⟨v, m.next, ?_, .refl f v, fun k => ?_⟩
    · rw [if_pos (by simpa using hdrop), hd]
      simp [State.dataGrants]
    · rw [hd]
      simp
  · have hrange : ∀ k ∈ datas, 1 ≤ k ∧ k ≤ 255 := fun k hk => Feeder.in_range_of_dataDue ((p.datasDue k).mp hk).1
    have hnodup : datas.Nodup :=
      p.datasOrder.imp fun {j k} h (e : j = k) => RotatesBefore.asymm h (by rw [e] at h ⊢; exact h)
    obtain ⟨d', t, h1, h2, h3, h4, h5, h6⟩ := State.placeData_spec f guard datas hrange hnodup v m
    rw [hnext, hgrants] at h3 h4
    simp only [hend] at h3 h4
    have hd : d' = d := eq_of_fits (u.dataEnd_mono f guard _ datas) h2 p.datas_le h3 h4 p.datasFit
      fun h => (p.datasFull h).resolve_left hc
    subst hd
    refine ⟨t, u.dataEnd f guard (firstOffset guard window + c * (48 + guard)) datas d', ?_, h5, h6⟩
    rw [if_neg (by rw [List.drop_eq_nil_of_le (Nat.not_lt.mp hc)]; simp), h1, hnext, hgrant, hend]
    rfl

/-- The grants of the header, the feeder's countdowns, its check waits, the rotation pointer and the deferrals
(R134 to R137). -/
theorem State.Places.placeGrants (p : u.Places f guard moved window checks datas c d) :
    ∃ fd', u.placeGrants f guard moved window = (u.setFd f fd',
        (u.checkMap f guard window checks c).grants ++ u.dataGrants f guard window c datas d) ∧
      fd' = { u.fd f with
        table := fd'.table
        checkWait := fd'.checkWait
        rotation := match (datas.take d).getLast? with
          | none => (u.fd f).rotation
          | some h => handleAfter h
        counters := (u.fd f).counters.add .dataDeferrals (datas.length - d) } ∧
      ∀ k, 1 ≤ k → k ≤ 255 →
        fd'.record k =
            { (u.fd f).record k with
              checkCd := if k ∈ checks.take c ∧ ((u.fd f).record k).state = .inService then
                (u.profileOf ((u.fd f).record k)).presence else ((u.fd f).record k).checkCd
              dataCd := if k ∈ datas.take d then (u.profileOf ((u.fd f).record k)).dataInterval
                else ((u.fd f).record k).dataCd } ∧
          fd'.checkWait[k - 1]? =
            some (if k ∈ checks.drop c then incUpTo 255 ((u.fd f).wait k) else 0) := by
  obtain ⟨t, ht, hrecorded, hrec⟩ := p.placeChecks
  have hrec' : ∀ k, (t.fd f).record k = { (u.fd f).record k with
      checkCd := if k ∈ checks.take c ∧ ((u.fd f).record k).state = .inService then
        (u.profileOf ((u.fd f).record k)).presence else ((u.fd f).record k).checkCd } := fun k => by
    refine (hrec k).trans ?_
    by_cases hk : k ∈ checks.take c
    · rw [if_pos hk, Record.checked_eq]
      simp only [hk, true_and]
      rfl
    · rw [if_neg hk]
      simp only [hk, false_and, if_false]
      rfl
  obtain ⟨v, hvdef⟩ : ∃ v, v = t.modFd f (·.updateWaits (checks.drop c)) := ⟨_, rfl⟩
  have hv : v.fd f = (t.fd f).updateWaits (checks.drop c) := by rw [hvdef]; exact State.fd_modFd t f _
  have hvrec (k : Nat) : v.record f k = (t.fd f).record k := by
    have htable : (v.fd f).table = (t.fd f).table := by rw [hv, Feeder.updateWaits]
    exact Feeder.record_of_table htable k
  have hvprof (r : Record) : v.profileOf r = u.profileOf r := by
    rw [hvdef, State.modFd, State.profileOf_setFd, hrecorded.profileOf]
  have hvdue (k : Nat) : v.dataDue ((v.fd f).record k) = u.dataDue ((u.fd f).record k) := by
    unfold State.dataDue
    rw [hvprof, show (v.fd f).record k = v.record f k from rfl, hvrec, hrec']
    rfl
  have hlen (k : Nat) : v.dataLength f k = u.dataLength f k := by
    unfold State.dataLength
    rw [hvprof, hvrec, hrec']
    rfl
  have hcount : (u.checkMap f guard window checks c).grants.length = c := by
    simp [State.checkMap, p.checks_le]
  obtain ⟨x, next, hx, hxrecorded, hxrec⟩ := p.placeData (v := v) hlen rfl hcount
  have hxv : v.setFd f { v.fd f with table := (x.fd f).table } = x := hxrecorded.symm
  have hdata : v.dataStage f guard moved (!(checks.drop c).isEmpty) (u.checkMap f guard window checks c) =
      (x.modFd f fun fd => Feeder.count
          { fd with rotation := rotationAfter fd.rotation datas (datas.drop d) } .dataDeferrals (datas.drop d).length,
        { next := next
          grants := (u.checkMap f guard window checks c).grants ++ u.dataGrants f guard window c datas d }) := by
    unfold State.dataStage
    rw [p.datas_eq (by rw [hv, hrecorded.fd]; rfl) hvdue]
    simp only [hx]
  have hplace : u.placeGrants f guard moved window = ((x.modFd f fun fd => Feeder.count
      { fd with rotation := rotationAfter fd.rotation datas (datas.drop d) } .dataDeferrals (datas.drop d).length),
      (u.checkMap f guard window checks c).grants ++ u.dataGrants f guard window c datas d) := by
    unfold State.placeGrants
    rw [ht]
    simp only [← hvdef, hdata]
  have hrotation (pointer : Nat) : rotationAfter pointer datas (datas.drop d) = match (datas.take d).getLast? with
      | none => pointer
      | some h => handleAfter h := by
    have : datas.length - (datas.drop d).length = d := by
      have := p.datas_le
      simp only [List.length_drop]
      omega
    unfold rotationAfter
    rw [this]
    cases (datas.take d).getLast? <;> rfl
  have hxfd : x.fd f = { (t.fd f).updateWaits (checks.drop c) with table := (x.fd f).table } := by
    rw [← hv]; exact hxrecorded.fd
  have hfd : (x.modFd f fun fd => Feeder.count
      { fd with rotation := rotationAfter fd.rotation datas (datas.drop d) } .dataDeferrals
        (datas.drop d).length).fd f = Feeder.count
      { x.fd f with rotation := rotationAfter (x.fd f).rotation datas (datas.drop d) } .dataDeferrals
        (datas.drop d).length := State.fd_modFd x f _
  have hwait : (t.fd f).checkWait = (u.fd f).checkWait := by rw [hrecorded.fd]
  refine ⟨Feeder.count { x.fd f with rotation := rotationAfter (x.fd f).rotation datas (datas.drop d) } .dataDeferrals
    (datas.drop d).length, ?_, ?_, fun k h1 h2 => ⟨?_, ?_⟩⟩
  · rw [hplace]
    refine congrArg (fun y => (y, _)) ?_
    rw [State.modFd, ← hxv, State.fd_setFd, State.setFd_setFd, hvdef, State.modFd, State.setFd_setFd, hrecorded,
      State.setFd_setFd]
  · rw [hxfd, hrecorded.fd]
    simp only [Feeder.count, Feeder.updateWaits, hrotation, List.length_drop]
  · refine (hxrec k).trans ?_
    rw [hvprof, hvrec, hrec']
    split_ifs <;> rfl
  · show (x.fd f).checkWait[k - 1]? = _
    rw [hxfd]
    show (Vector.ofFn _)[k - 1]? = _
    have hk : k - 1 < 255 := by omega
    have hk1 : k - 1 + 1 = k := by omega
    rw [Vector.getElem?_eq_getElem hk, Vector.getElem_ofFn]
    simp only [hk1, List.contains_eq_mem, decide_eq_true_eq]
    unfold Feeder.wait
    rw [Vector.getElem?_eq_getElem hk, Option.getD_some, hwait]
    rfl

end

end Sys2Proof.Machine

/-! PROOFS. A full build: its stages in the words of the statement, the window, and the header (O36). -/
namespace Sys2Proof.Machine

open Sys2Proof

section

variable {s u t : State} {f : FeederId} {n : CycleNumber}

/-! ## The stages before the window -/

theorem RecState.ungranted_iff (x : RecState) : x.ungranted = true ↔ x ∈ [RecState.named, .probing, .huntHeld, .hushed] := by
  cases x <;> simp [RecState.ungranted]

theorem RecState.granted_iff (x : RecState) : x.granted = true ↔
    x ∈ [RecState.confirming, .levelling, .inService, .suspect] := by
  cases x <;> simp [RecState.granted]

/-- One message more reported, with the handle that it moves into a state that is granted CHECK bursts (R133, R150). -/
theorem State.sends_eq (f : FeederId) (n : CycleNumber) (x : State × List QMsg × List Nat) (q : QMsg) :
    State.sends f n x q = (x.1.report f n q, x.2.1 ++ [q],
      if decide ((x.1.record f q.handle).state ∈ [RecState.named, .probing, .huntHeld, .hushed] ∧
          ((x.1.report f n q).record f q.handle).state ∈ [RecState.confirming, .levelling, .inService, .suspect]) then
        x.2.2 ++ [q.handle] else x.2.2) := by
  unfold State.sends State.reportMoved
  simp only [Prod.mk.injEq, true_and, decide_eq_true_eq, Bool.and_eq_true, RecState.ungranted_iff, RecState.granted_iff]
  split_ifs
  · rfl
  · exact List.append_nil _

theorem Feeder.reoffer_eq (fd : Feeder) (k : Nat) : fd.reoffer k =
    match (fd.record k).owed with
    | none => fd
    | some m =>
      if m.kind.urgent then (fd.setRecord k { fd.record k with owed := none }).offerUrgent k m
      else (fd.setRecord k { fd.record k with owed := none }).offerOrdinary k m := by
  unfold Feeder.reoffer Feeder.offer
  rw [Feeder.modRecord_eq] <;> rfl

/-- `t` stands on the same ground as `s`: the windows, the profiles, the award and the feeder's settings. -/
structure State.SameGround (f : FeederId) (s t : State) : Prop where
  windows : t.windows = s.windows
  profiles : t.profiles = s.profiles
  award : t.award = s.award
  settings : (t.fd f).settings = (s.fd f).settings

theorem State.SameGround.refl (f : FeederId) (s : State) : s.SameGround f s := ⟨rfl, rfl, rfl, rfl⟩

theorem State.SameGround.trans (h : s.SameGround f t) (k : t.SameGround f u) : s.SameGround f u :=
  ⟨k.windows.trans h.windows, k.profiles.trans h.profiles, k.award.trans h.award, k.settings.trans h.settings⟩

theorem State.sameGround_nameAt (s : State) (f : FeederId) (here point : NamingPoint) :
    s.SameGround f (s.nameAt f here point) := by
  unfold State.nameAt
  split
  · have h := State.naming_name f s
    exact ⟨by rw [h.rest], by rw [h.rest], (s.award_name f).1, by rw [h.own]⟩
  · exact .refl f s

theorem State.sameGround_dispatch (s : State) (f : FeederId) (n : CycleNumber) (joins : Bool) :
    s.SameGround f (s.dispatch f n joins).1 := by
  obtain ⟨⟨-, hrest⟩, hfd⟩ := State.spoken_dispatch f s n joins
  exact ⟨by rw [hrest], by rw [hrest], by rw [hrest], by rw [hfd]⟩

theorem State.sameGround_setFd (s : State) (f : FeederId) {x : Feeder} (hx : x.settings = (s.fd f).settings) :
    s.SameGround f (s.setFd f x) :=
  ⟨State.setFd_windows s f x, State.setFd_profiles s f x, State.setFd_award s f x, by rw [State.fd_setFd]; exact hx⟩

theorem Feeder.reofferAll_settings (fd : Feeder) : fd.reofferAll.settings = fd.settings := by
  rw [fd.talked_reofferAll.rest]

/-! ## The window (R53, R54, R58, R62, R63) -/

/-- The first of a list in ascending order that passes a test. -/
theorem find?_of_pairwise {l : List Nat} {p : Nat → Bool} {a : Nat} (hl : l.Pairwise (· < ·)) (ha : a ∈ l)
    (hp : p a = true) (hmin : ∀ b ∈ l, p b = true → a ≤ b) : l.find? p = some a := by
  obtain ⟨before, after, rfl⟩ := List.append_of_mem ha
  rw [List.find?_append, List.find?_eq_none.mpr fun x hx hpx => ?_, List.find?_cons_of_pos hp]
  · rfl
  · have hlt := (List.pairwise_append.mp hl).2.2 x hx a (by simp)
    exact absurd hlt (Nat.not_lt.mpr (hmin x (by simp [hx]) hpx))

/-- The first awaiting handle behind the last probed one, or else the first of all (R58). -/
theorem State.nextProbe_of_first {h : Nat} (ha : s.awaitsProbe f h ((s.fd f).record h) = true)
    (hfirst : ((s.fd f).lastProbed < h ∧
        ∀ k, s.awaitsProbe f k ((s.fd f).record k) = true → (s.fd f).lastProbed < k → h ≤ k) ∨
      ((∀ k, s.awaitsProbe f k ((s.fd f).record k) = true → k ≤ (s.fd f).lastProbed) ∧
        ∀ k, s.awaitsProbe f k ((s.fd f).record k) = true → h ≤ k)) : s.nextProbe f = some h := by
  have hord : (s.awaiting f).Pairwise (· < ·) := (s.fd f).pairwise_handlesWhere _
  have hmem := State.mem_awaiting.mpr ha
  unfold State.nextProbe
  show (match (s.awaiting f).find? fun h => decide ((s.fd f).lastProbed < h) with
    | some h => some h
    | none => (s.awaiting f).head?) = _
  rcases hfirst with ⟨hlt, hmin⟩ | ⟨hle, hmin⟩
  · rw [find?_of_pairwise hord hmem (decide_eq_true hlt) fun b hb hp =>
      hmin b (State.mem_awaiting.mp hb) (of_decide_eq_true hp)]
  · rw [List.find?_eq_none.mpr fun x hx => by simpa using hle x (State.mem_awaiting.mp hx)]
    obtain ⟨before, after, e⟩ := List.append_of_mem hmem
    cases before with
    | nil => rw [e]; rfl
    | cons x before =>
      have hx : h ≤ x := hmin x (State.mem_awaiting.mp (by rw [e]; simp))
      rw [e, List.cons_append] at hord
      exact absurd ((List.pairwise_cons.mp hord).1 h (by simp)) (Nat.not_lt.mpr hx)

theorem State.hasAward_iff : s.hasAward f n = true ↔ s.award = some { cycle := n, winner := some f } := by
  unfold State.hasAward; rw [decide_eq_true_iff]

/-- A window in a feeder's reach: its offset and its span (R53, R54). -/
def Settings.windowFor (x : Settings) (use : WindowUse) : Window where
  use := use
  grantOffset := x.reach.span
  spanEnd :=
    match use with
    | .callIn _ _ => callInSpan x.reach.span x.spread.slots
    | .probe _ => probeSpan x.reach.span

/-- The feeder at the placement of a window (R54, R62). -/
def Feeder.calledFor (fd : Feeder) : Option WindowUse → Feeder
  | none => fd
  | some (.probe h) => { fd with lastProbed := h }
  | some (.callIn g _) => fd.placeCallIn g

/-- The window records behind a window stage (R60). -/
def windowsBehind (l : List WindowRecord) (f : FeederId) (n : CycleNumber) (x : Settings) :
    Option WindowUse → List WindowRecord
  | none => l
  | some u => lastTwo (l ++ [newWindowRecord f n (x.windowFor u)])

/-- The window stage with its outcome named: no window, or one with its window record. -/
def State.withWindow (s : State) (f : FeederId) (n : CycleNumber) (use : Option WindowUse) : State :=
  State.setFd { s with windows := windowsBehind s.windows f n (s.fd f).settings use } f ((s.fd f).calledFor use)

theorem State.windowStage_probe {h : Nat} (ha : s.award = some { cycle := n, winner := some f })
    (hh : s.nextProbe f = some h) :
    s.windowStage f n = (s.withWindow f n (some (.probe h)), some ((s.fd f).settings.windowFor (.probe h))) := by
  unfold State.windowStage State.placeWindow
  rw [if_pos (State.hasAward_iff.mpr ha)]
  simp only [hh]
  rfl

theorem State.windowStage_callIn {g : Subgroup} (ha : s.award = some { cycle := n, winner := some f })
    (hh : s.nextProbe f = none) (hg : (s.fd f).callInDue = some g) :
    s.windowStage f n = (s.withWindow f n (some (.callIn g (s.fd f).settings.spread)),
      some ((s.fd f).settings.windowFor (.callIn g (s.fd f).settings.spread))) := by
  unfold State.windowStage State.placeWindow
  rw [if_pos (State.hasAward_iff.mpr ha)]
  simp only [hh, hg]
  rfl

theorem State.withWindow_none (s : State) (f : FeederId) (n : CycleNumber) : s.withWindow f n none = s :=
  State.setFd_fd s f

theorem State.windowStage_none (h : s.award = some { cycle := n, winner := some f } →
    s.nextProbe f = none ∧ (s.fd f).callInDue = none) : s.windowStage f n = (s.withWindow f n none, none) := by
  rw [State.withWindow_none]
  unfold State.windowStage State.placeWindow
  by_cases ha : s.award = some { cycle := n, winner := some f }
  · rw [if_pos (State.hasAward_iff.mpr ha)]
    simp only [(h ha).1, (h ha).2]
  · rw [if_neg (mt State.hasAward_iff.mp ha)]

theorem Feeder.callInDue_of_due {fd : Feeder} {g : Subgroup} (h1 : fd.state = .opened) (h2 : fd.dark = false)
    (h3 : fd.stray = false) (h4 : fd.arrivals.length < 16) (h5 : fd.gapCd = 0)
    (hg : fd.splitList.head? = some g ∨ (fd.splitList = [] ∧ fd.rootCd = 0 ∧ g = { value := 0, len := 0 })) :
    fd.callInDue = some g := by
  unfold Feeder.callInDue Config.arrivalsCapacity
  rw [if_pos ⟨h1, h2, h3, h4, h5⟩]
  rcases hg with hg | ⟨hl, hr, rfl⟩
  · cases e : fd.splitList with
    | nil => rw [e] at hg; cases hg
    | cons x l => rw [e] at hg; exact hg
  · rw [hl]
    exact if_pos hr

theorem Feeder.calledFor_kept (fd : Feeder) (use : Option WindowUse) :
    (fd.calledFor use).table = fd.table ∧ (fd.calledFor use).checkWait = fd.checkWait ∧
      (fd.calledFor use).rotation = fd.rotation ∧ (fd.calledFor use).settings = fd.settings ∧
      (fd.calledFor use).counters.dataDeferrals = fd.counters.dataDeferrals := by
  cases use with
  | none => exact ⟨rfl, rfl, rfl, rfl, rfl⟩
  | some u => cases u <;> exact ⟨rfl, rfl, rfl, rfl, rfl⟩

theorem State.fd_withWindow (s : State) (f : FeederId) (n : CycleNumber) (use : Option WindowUse) :
    (s.withWindow f n use).fd f = (s.fd f).calledFor use := State.fd_setFd _ f _

theorem State.profiles_withWindow (s : State) (f : FeederId) (n : CycleNumber) (use : Option WindowUse) :
    (s.withWindow f n use).profiles = s.profiles := State.setFd_profiles _ f _

/-! ## A full build -/

theorem Reach.span_eq (x : Reach) :
    (match x with | .near => 2000 | .mid => 4000 | .far => 6000 | .extended => 8000) = x.span := by cases x <;> rfl

theorem Spread.slots_eq (x : Spread) :
    (match x with | .s8 => 8 | .s16 => 16 | .s32 => 32 | .s64 => 64) = x.slots := by cases x <;> rfl

/-- The state of a build in which the window and the grants are found. -/
def State.found (s : State) (f : FeederId) (n : CycleNumber) (order : BuildOrder) : State :=
  State.nameAt (State.modFd (State.nameAt ((s.nameAt f .beforeDispatch order.naming).dispatch f n order.reportsJoin).1 f
    .afterDispatch order.naming) f (·.reofferAll)) f .afterReoffers order.naming

theorem State.sameGround_found (s : State) (f : FeederId) (n : CycleNumber) (order : BuildOrder) :
    s.SameGround f (s.found f n order) :=
  ((((s.sameGround_nameAt f .beforeDispatch order.naming).trans (State.sameGround_dispatch _ f n order.reportsJoin)).trans
    (State.sameGround_nameAt _ f .afterDispatch order.naming)).trans
    (State.sameGround_setFd _ f (Feeder.reofferAll_settings _))).trans (State.sameGround_nameAt _ f .afterReoffers order.naming)

/-- The header that a build composes, in the state behind the placement. -/
theorem State.buildFull_eq (s : State) (f : FeederId) (n : CycleNumber) (order : BuildOrder) {v : State}
    {window : Option Window} {grants : List Grant} {fd' : Feeder}
    (hw : (s.found f n order).windowStage f n = (v, window))
    (hg : v.placeGrants f (s.fd f).settings.guard
      ((s.nameAt f .beforeDispatch order.naming).dispatch f n order.reportsJoin).2.2 window = (v.setFd f fd', grants)) :
    s.buildFull f n order = ((v.setFd f fd').nameAt f .afterPlacement order.naming).modFd f fun fd => { fd with
      nextHeader := some
        { cycle := n, kind := .full, window := window, guard := (s.fd f).settings.guard, grants := grants
          messages := ((s.nameAt f .beforeDispatch order.naming).dispatch f n order.reportsJoin).2.1 } } := by
  unfold State.buildFull
  unfold State.found at hw
  simp only [hw, hg]

end

end Sys2Proof.Machine

/-! PROOFS. A full build: the statement's stages are the model's, and re-offers that fit (O36). -/
namespace Sys2Proof.Machine

open Sys2Proof

section

variable {s u t : State} {f : FeederId} {n : CycleNumber}

theorem State.build_serving {a : Award} (order : BuildOrder) (ho : (s.fd f).state = .opened ∨ (s.fd f).state = .paused)
    (hh : (s.fd f).nextHeader = none) (ha : s.award = some a) :
    s.build f order = (s.nameAt f .beforeAward order.naming).buildFull f (s.cycle + 1#16) order := by
  rw [State.build_of_awake order (by rcases ho with e | e <;> rw [e] <;> decide) hh,
    State.makeAward_of_some ((State.award_nameAt s f .beforeAward order.naming).1.trans ha)]
  rcases ho with e | e <;> rw [e] <;> rfl

theorem State.takes_eq (f : FeederId) (n : CycleNumber) (x : State × List QMsg × List Nat) :
    State.takes f n x =
      match (x.1.fd f).urgent, (x.1.fd f).ordinary with
      | q :: rest, _ => State.sends f n (x.1.setFd f { x.1.fd f with urgent := rest }, x.2) q
      | [], q :: rest => State.sends f n (x.1.setFd f { x.1.fd f with ordinary := rest }, x.2) q
      | [], [] => x := by
  unfold State.takes Feeder.takeMessage
  cases hu : (x.1.fd f).urgent with
  | cons q rest => rfl
  | nil =>
    cases ho : (x.1.fd f).ordinary with
    | cons q rest => simp only [hu]
    | nil => rfl

/-- The window of a use, in the words of R53 and R54. -/
theorem Settings.windowFor_map (x : Settings) (use : Option WindowUse) (offset slots : Nat) (ho : offset = x.reach.span)
    (hs : slots = x.spread.slots) :
    (use.map fun u => ({ use := u, grantOffset := offset
                         spanEnd := match u with
                          | .callIn _ _ => offset + 16 * slots + 64
                          | .probe _ => offset + 64 } : Window)) = use.map x.windowFor := by
  subst ho hs
  cases use with
  | none => rfl
  | some u => cases u <;> rfl

/-- The window that a build places, by its use (R54, R58, R62, R63). -/
theorem State.windowStage_eq (s : State) (f : FeederId) (n : CycleNumber) (use : Option WindowUse)
    (hprobe : ∀ h, use = some (.probe h) →
      s.award = some { cycle := n, winner := some f } ∧ s.awaitsProbe f h ((s.fd f).record h) = true ∧
        (((s.fd f).lastProbed < h ∧
            ∀ k, s.awaitsProbe f k ((s.fd f).record k) = true → (s.fd f).lastProbed < k → h ≤ k) ∨
          ((∀ k, s.awaitsProbe f k ((s.fd f).record k) = true → k ≤ (s.fd f).lastProbed) ∧
            ∀ k, s.awaitsProbe f k ((s.fd f).record k) = true → h ≤ k)))
    (hcall : ∀ g spread, use = some (.callIn g spread) →
      s.award = some { cycle := n, winner := some f } ∧ (∀ k, ¬ s.awaitsProbe f k ((s.fd f).record k) = true) ∧
        spread = (s.fd f).settings.spread ∧ (s.fd f).callInDue = some g)
    (hnone : use = none → s.award = some { cycle := n, winner := some f } →
      (∀ k, ¬ s.awaitsProbe f k ((s.fd f).record k) = true) ∧ (s.fd f).callInDue = none) :
    s.windowStage f n = (s.withWindow f n use, use.map (s.fd f).settings.windowFor) := by
  match use with
  | none =>
    exact State.windowStage_none fun ha =>
      ⟨State.nextProbe_eq_none.mpr (hnone rfl ha).1, (hnone rfl ha).2⟩
  | some (.probe h) =>
    obtain ⟨ha, hw, hfirst⟩ := hprobe h rfl
    exact State.windowStage_probe ha (State.nextProbe_of_first hw hfirst)
  | some (.callIn g spread) =>
    obtain ⟨ha, hno, rfl, hg⟩ := hcall g spread rfl
    exact State.windowStage_callIn ha (State.nextProbe_eq_none.mpr hno) hg


/-- The feeder at the placement of a window, in the words of R54 and R62. -/
theorem Feeder.calledFor_eq (fd : Feeder) (use : Option WindowUse) :
    (match use with
      | none => fd
      | some (.probe h) => { fd with lastProbed := h }
      | some (.callIn g _) => { fd with
        splitList := fd.splitList.tail
        gapCd := fd.settings.callInGap
        rootCd := if g = { value := 0, len := 0 } then fd.settings.rootInterval else fd.rootCd
        counters := { fd.counters with windows := satAdd16 fd.counters.windows 1 } }) = fd.calledFor use := by
  cases use with
  | none => rfl
  | some u => cases u <;> rfl

/-- The window records behind a window stage, by its window (R60). -/
theorem windowsBehind_eq (l : List WindowRecord) (f : FeederId) (n : CycleNumber) (x : Settings)
    (use : Option WindowUse) :
    (match use.map x.windowFor with
      | none => l
      | some w => lastTwo (l ++
        [{ feeder := f, cycle := n, window := w, collided := false, clean := 0, answered := false }])) =
      windowsBehind l f n x use := by
  cases use <;> rfl

/-! ## Re-offers that fit (R147, R148, R151) -/

/-- The owed messages of a band, in the order of these handles. -/
def Feeder.owedBy (fd : Feeder) (urgent : Bool) (l : List Nat) : List QMsg :=
  l.filterMap fun k => (fd.record k).owed.bind fun m =>
    if m.kind.urgent = urgent then some ({ handle := k, msg := m } : QMsg) else none

theorem Feeder.owedBy_append (fd : Feeder) (b : Bool) (l m : List Nat) :
    fd.owedBy b (l ++ m) = fd.owedBy b l ++ fd.owedBy b m := List.filterMap_append

theorem Feeder.owedBy_handle {fd : Feeder} {b : Bool} {l : List Nat} {q : QMsg} (hq : q ∈ fd.owedBy b l) :
    q.handle ∈ l := by
  obtain ⟨k, hk, e⟩ := List.mem_filterMap.mp hq
  obtain ⟨m, -, hm⟩ := Option.bind_eq_some_iff.mp e
  split at hm
  · cases hm; exact hk
  · cases hm

theorem Feeder.length_owedBy_le (fd : Feeder) (b : Bool) {m : Nat} (hm : m ≤ 255) :
    (fd.owedBy b (List.range' 1 m)).length ≤ (fd.owedBy b (List.range' 1 255)).length := by
  have : List.range' 1 255 = List.range' 1 m ++ List.range' (1 + m) (255 - m) := by
    rw [List.range'_append_1]; congr 1; omega
  rw [this, Feeder.owedBy_append, List.length_append]
  omega

theorem holdsMsg_eq_false {l : List QMsg} {k : Nat} {kind : MsgKind} (h : ∀ q ∈ l, q.handle ≠ k) :
    holdsMsg l k kind = false := by
  refine Bool.eq_false_iff.mpr fun hh => ?_
  obtain ⟨q, hq, hf⟩ := List.any_eq_true.mp hh
  unfold QMsg.isFor at hf
  rw [Bool.and_eq_true, decide_eq_true_iff] at hf
  exact h q hq hf.1

theorem Feeder.offerUrgent_joins {fd : Feeder} {k : Nat} {m : Msg} (h : ∀ q ∈ fd.urgent, q.handle ≠ k)
    (hr : fd.urgent.length + fd.ordinary.length < 32) :
    fd.offerUrgent k m = { fd with urgent := fd.urgent ++ [{ handle := k, msg := m }] } := by
  unfold Feeder.offerUrgent
  rw [if_neg (by rw [holdsMsg_eq_false h]; decide), if_pos (show fd.queued < Config.queueCapacity from hr)]

theorem Feeder.offerOrdinary_joins {fd : Feeder} {k : Nat} {m : Msg} (h : ∀ q ∈ fd.ordinary, q.handle ≠ k)
    (ho : (fd.record k).owed = none) (hr : fd.ordinary.length < 24) (hq : fd.urgent.length + fd.ordinary.length < 32) :
    fd.offerOrdinary k m = { fd with ordinary := fd.ordinary ++ [{ handle := k, msg := m }] } := by
  have hroom : fd.ordinaryRoom = true := by
    unfold Feeder.ordinaryRoom Feeder.queued Config.ordinaryCapacity Config.queueCapacity
    rw [decide_eq_true hr, decide_eq_true hq]
    rfl
  unfold Feeder.offerOrdinary
  rw [if_neg (by rw [holdsMsg_eq_false h]; decide), if_neg (not_not_intro ho), if_pos hroom]

/-- Owed messages of handles up to `m` offered again, into bands that have room for them. -/
structure Feeder.Reoffered (fd : Feeder) (m : Nat) (x : Feeder) : Prop where
  rest : x = { fd with
    table := x.table
    urgent := fd.owedBy true (List.range' 1 m)
    ordinary := fd.owedBy false (List.range' 1 m) }
  done : ∀ k, 1 ≤ k → k ≤ m → x.record k = { fd.record k with owed := none }
  later : ∀ k, m < k → x.record k = fd.record k

theorem Feeder.reoffered_succ {fd x : Feeder} {m : Nat} (hx : fd.Reoffered m x) (hm : m + 1 ≤ 255)
    (h24 : (fd.owedBy false (List.range' 1 255)).length ≤ 24)
    (h32 : (fd.owedBy true (List.range' 1 255)).length + (fd.owedBy false (List.range' 1 255)).length ≤ 32) :
    fd.Reoffered (m + 1) (x.reoffer (m + 1)) := by
  have hrange : List.range' 1 (m + 1) = List.range' 1 m ++ [m + 1] := by
    rw [List.range'_1_concat, Nat.add_comm 1 m]
  have hsplit (b : Bool) : fd.owedBy b (List.range' 1 (m + 1)) =
      fd.owedBy b (List.range' 1 m) ++ fd.owedBy b [m + 1] := by
    rw [hrange, Feeder.owedBy_append]
  have hrec := hx.later (m + 1) (Nat.lt_succ_self m)
  have hu : x.urgent = fd.owedBy true (List.range' 1 m) := by rw [hx.rest]
  have ho : x.ordinary = fd.owedBy false (List.range' 1 m) := by rw [hx.rest]
  have hfresh (b : Bool) : ∀ q ∈ fd.owedBy b (List.range' 1 m), q.handle ≠ m + 1 := fun q hq e => by
    have := Feeder.owedBy_handle hq
    rw [e, List.mem_range'_1] at this
    omega
  cases howed : (fd.record (m + 1)).owed with
  | none =>
    have hnone (b : Bool) : fd.owedBy b [m + 1] = [] := by simp [Feeder.owedBy, howed]
    have hsame : x.reoffer (m + 1) = x := by
      unfold Feeder.reoffer
      rw [hrec, howed]
    rw [hsame]
    refine ⟨?_, fun k h1 h2 => ?_, fun k hk => hx.later k (by omega)⟩
    · rw [hsplit, hsplit, hnone, hnone, List.append_nil, List.append_nil]
      exact hx.rest
    · rcases Nat.lt_or_ge m k with hk | hk
      · obtain rfl : k = m + 1 := by omega
        rw [hrec, ← howed]
      · exact hx.done k h1 hk
  | some msg =>
    have hone (b : Bool) : fd.owedBy b [m + 1] = if msg.kind.urgent = b then [{ handle := m + 1, msg := msg }] else [] := by
      unfold Feeder.owedBy
      rw [List.filterMap_cons, howed, Option.bind_some]
      split_ifs <;> rfl
    have hlen (b : Bool) := fd.length_owedBy_le b hm
    simp only [hsplit, List.length_append, hone] at hlen
    have htrue := hlen true
    have hfalse := hlen false
    obtain ⟨y, hy⟩ : ∃ y, y = x.setRecord (m + 1) { fd.record (m + 1) with owed := none } := ⟨_, rfl⟩
    have hyu : y.urgent = fd.owedBy true (List.range' 1 m) := by rw [hy, Feeder.setRecord_urgent, hu]
    have hyo : y.ordinary = fd.owedBy false (List.range' 1 m) := by rw [hy, Feeder.setRecord_ordinary, ho]
    have hyself : y.record (m + 1) = { fd.record (m + 1) with owed := none } := by
      rw [hy]; exact Feeder.record_setRecord_self x _ _ (by omega) hm
    have hyne (k : Nat) (hk : k ≠ m + 1) : y.record k = x.record k := by
      rw [hy]; exact Feeder.record_setRecord_of_ne x _ _ _ hk
    have hyrest : y = { fd with
        table := y.table, urgent := fd.owedBy true (List.range' 1 m), ordinary := fd.owedBy false (List.range' 1 m) } := by
      have : y = { x with table := y.table } := by
        rw [hy]; unfold Feeder.setRecord; split <;> rfl
      rw [this, hx.rest]
    have hreoffer : x.reoffer (m + 1) =
        if msg.kind.urgent then y.offerUrgent (m + 1) msg else y.offerOrdinary (m + 1) msg := by
      unfold Feeder.reoffer Feeder.offer
      rw [hrec, howed]
      simp only [Feeder.modRecord_eq, hrec, ← hy]
    have hjoined : x.reoffer (m + 1) = { y with
        urgent := fd.owedBy true (List.range' 1 (m + 1)), ordinary := fd.owedBy false (List.range' 1 (m + 1)) } := by
      rw [hreoffer, hsplit, hsplit, hone, hone]
      cases hk : msg.kind.urgent with
      | true =>
        simp only [hk, if_true, List.length_singleton] at htrue hfalse
        have hroom : y.urgent.length + y.ordinary.length < 32 := by
          rw [hyu, hyo]; simp at hfalse; omega
        rw [if_pos rfl, Feeder.offerUrgent_joins (by rw [hyu]; exact hfresh true) hroom]
        simp [hyu, hyo]
      | false =>
        simp only [hk, if_true, List.length_singleton] at htrue hfalse
        have hroom : y.ordinary.length < 24 ∧ y.urgent.length + y.ordinary.length < 32 := by
          rw [hyu, hyo]; simp at htrue; omega
        rw [if_neg (by decide), Feeder.offerOrdinary_joins (by rw [hyo]; exact hfresh false) (by rw [hyself]) hroom.1 hroom.2]
        simp [hyu, hyo]
    have hrecs (k : Nat) : (x.reoffer (m + 1)).record k = y.record k := Feeder.record_of_table (by rw [hjoined]) k
    refine ⟨?_, fun k h1 h2 => ?_, fun k hk => ?_⟩
    · rw [hjoined]
      conv_lhs => rw [hyrest]
    · rw [hrecs]
      rcases Nat.lt_or_ge m k with hk | hk
      · obtain rfl : k = m + 1 := by omega
        exact hyself
      · rw [hyne k (by omega)]
        exact hx.done k h1 hk
    · rw [hrecs, hyne k (by omega)]
      exact hx.later k (by omega)

/-- Re-offers that fit: each band holds its own, in handle order (R151). -/
theorem Feeder.reoffered_all {fd : Feeder} (hu : fd.urgent = []) (ho : fd.ordinary = [])
    (h24 : (fd.owedBy false (List.range' 1 255)).length ≤ 24)
    (h32 : (fd.owedBy true (List.range' 1 255)).length + (fd.owedBy false (List.range' 1 255)).length ≤ 32) :
    fd.Reoffered 255 fd.reofferAll := by
  suffices h : ∀ m, m ≤ 255 → fd.Reoffered m ((List.range' 1 m).foldl Feeder.reoffer fd) from h 255 (Nat.le_refl _)
  intro m
  induction m with
  | zero =>
    intro _
    refine ⟨?_, fun k h1 h2 => absurd h1 (by omega), fun k _ => rfl⟩
    have hempty (l m : List QMsg) (hl : fd.urgent = l) (hm : fd.ordinary = m) :
        fd = { fd with urgent := l, ordinary := m } := by subst hl hm; rfl
    exact hempty [] [] hu ho
  | succ m ih =>
    intro hm
    rw [List.range'_1_concat, List.foldl_append, Nat.add_comm 1 m]
    exact Feeder.reoffered_succ (ih (by omega)) hm h24 h32

/-! ## A build without arrivals, messages or an award -/

theorem State.nameAt_of_no_arrivals (h : (s.fd f).arrivals = []) (here point : NamingPoint) :
    s.nameAt f here point = s := by
  unfold State.nameAt State.name
  rw [h]
  split
  · split <;> rfl
  · rfl

theorem State.dispatch_of_empty (hu : (s.fd f).urgent = []) (ho : (s.fd f).ordinary = []) (joins : Bool) :
    s.dispatch f n joins = (s, [], []) := by
  have htake : (s.fd f).takeMessage = none := by unfold Feeder.takeMessage; rw [hu, ho]
  cases joins with
  | true =>
    show s.dispatchJoined f n 4 = _
    unfold State.dispatchJoined
    rw [htake]
  | false =>
    have hall : (s.fd f).takeMessages 4 = (s.fd f, []) := by
      unfold Feeder.takeMessages
      rw [htake]
    unfold State.dispatch
    rw [if_neg (by decide), hall]
    simp only [State.reportAll, State.setFd_fd]

/-- Settles O36. -/
theorem fullBuildPlacesWindowAndGrants : Obligations.FullBuildPlacesWindowAndGrants := by
  refine ⟨fun s f order use checks datas c d hp => ?_, fun s f order hp => ?_⟩
  · intro n sends naming begun taken messages moved dispatched offered found fd x guard state profile wait awaits offset
      slots window checkIsDue dataIsDue first len checkEnd dataEnd ho hh hprobe hcall hnone hcm hco hdm hdo hcl hc64 hcfit
      hcfull hdl hdfit hdfull checked given called windows checkGrants dataGrants
    obtain ⟨a0, ha0⟩ : ∃ a0, a0 = s.nameAt f .beforeAward order.naming := ⟨_, rfl⟩
    have hnaming (point : NamingPoint) (v : State) : naming point v = v.nameAt f point order.naming :=
      (State.nameAt_eq v f point order.naming).symm
    have hbegun : begun = a0.nameAt f .beforeDispatch order.naming := by
      rw [ha0, ← hnaming, ← hnaming]
    have hsends : sends = State.sends f n := by
      funext y q
      exact (State.sends_eq f n y q).symm
    have htaken : taken = (a0.nameAt f .beforeDispatch order.naming).dispatch f n order.reportsJoin := by
      rw [State.dispatch_eq, ← hbegun]
      refine if_congr Iff.rfl (congrArg (fun g => (List.range 4).foldl g (begun, [], [])) ?_)
        (congrArg (fun g => List.foldl g _ _) hsends)
      funext y _
      rw [State.takes_eq, ← hsends] <;> rfl
    have hoffered : offered = (dispatched.fd f).reofferAll := by
      refine congrArg (fun g => (List.range' 1 255).foldl g (dispatched.fd f)) ?_
      funext y k
      exact (Feeder.reoffer_eq y k).symm
    have hfound : found = a0.found f n order := by
      show naming .afterReoffers (dispatched.setFd f offered) = _
      rw [hnaming, hoffered]
      show State.nameAt (State.modFd (naming .afterDispatch taken.1) f (·.reofferAll)) f .afterReoffers order.naming = _
      rw [hnaming, htaken]
      rfl
    have hg0 : s.SameGround f a0 := ha0 ▸ State.sameGround_nameAt s f _ _
    have hg1 : a0.SameGround f found := hfound ▸ State.sameGround_found a0 f n order
    have hground := hg0.trans hg1
    have hawaits (k : Nat) : found.awaitsProbe f k ((found.fd f).record k) = true ↔ awaits k := by
      rw [State.awaitsProbe_iff, hground.windows]
    have hoffset : offset = x.reach.span := Reach.span_eq _
    have hslots : slots = x.spread.slots := Spread.slots_eq _
    have hwindow : window = use.map x.windowFor := Settings.windowFor_map x use offset slots hoffset hslots
    have hstage : found.windowStage f n = (found.withWindow f n use, window) := by
      rw [hwindow]
      refine State.windowStage_eq found f n use (fun h e => ?_) (fun g spread e => ?_) fun e ha => ?_
      · obtain ⟨haward, hw, hfirst⟩ := hprobe h e
        simp only [hawaits]
        exact ⟨hground.award.trans haward, hw, hfirst⟩
      · obtain ⟨haward, hno, hspread, h1, h2, h3, h4, h5, hg⟩ := hcall g spread e
        simp only [hawaits]
        exact ⟨hground.award.trans haward, hno, hspread, Feeder.callInDue_of_due h1 h2 h3 h4 h5 hg⟩
      · obtain ⟨winner, haward, hlapse⟩ := hnone e
        have hwin : winner = some f := by
          have := (hground.award.symm.trans ha).symm.trans haward
          simpa using this.symm
        obtain ⟨hno, hdue⟩ := hlapse hwin
        simp only [hawaits]
        refine ⟨hno, ?_⟩
        by_contra hc
        obtain ⟨h1, h2, h3, h4, h5, h6⟩ := (Feeder.callInDue_isSome_iff _).mp (Option.isSome_iff_ne_none.mpr hc)
        rcases hdue with h | h | h | h | h | ⟨h, h'⟩
        · exact absurd (h1.symm.trans h) (by decide)
        · exact absurd (h2.symm.trans h) (by decide)
        · exact absurd (h3.symm.trans h) (by decide)
        · exact absurd h4 (Nat.not_lt.mpr h)
        · exact h h5
        · exact h6.elim (fun h6 => h6 h) h'
    obtain ⟨v, hv⟩ : ∃ v, v = found.withWindow f n use := ⟨_, rfl⟩
    have hcalled : called = fd.calledFor use := Feeder.calledFor_eq fd use
    have hvfd : v.fd f = called := by rw [hv, State.fd_withWindow, hcalled]
    obtain ⟨hkt, hkw, hkr, hks, hkc⟩ := fd.calledFor_kept use
    rw [← hcalled] at hkt hkw hkr hks hkc
    have hvrec (k : Nat) : (v.fd f).record k = fd.record k := Feeder.record_of_table (by rw [hvfd, hkt]) k
    have hvprof (k : Nat) : v.profileOf ((v.fd f).record k) = profile k := by
      unfold State.profileOf
      rw [hvrec, hv, State.profiles_withWindow, hground.profiles]
      rfl
    have hvwait : (v.fd f).wait = wait := by
      funext k
      unfold Feeder.wait
      rw [hvfd, hkw]
    have hvrot : (v.fd f).rotation = fd.rotation := by rw [hvfd, hkr]
    have hfirst : firstOffset guard window = first := rfl
    have hlen (k : Nat) : v.dataLength f k = len k := by
      unfold State.dataLength
      rw [show v.record f k = (v.fd f).record k from rfl, hvprof]
      rfl
    have hend (j : Nat) : v.dataEnd f guard (first + c * (48 + guard)) datas j = dataEnd j := by
      unfold State.dataEnd
      simp only [hlen]
      rfl
    have hdue (k : Nat) : ((v.fd f).record k).checkDue = true ↔ checkIsDue k := by
      rw [hvrec]; exact Record.checkDue_iff _
    have hddue (k : Nat) : v.dataDue ((v.fd f).record k) = true ↔ dataIsDue k := by
      rw [State.dataDue_iff, hvprof, hvrec]
    have hplaces : v.Places f guard moved window checks datas c d := {
      checksDue := fun k => (hcm k).trans (and_congr_left fun _ => (hdue k).symm)
      checksOrder := by rw [hvwait]; exact hco
      datasDue := fun k => (hdm k).trans (and_congr_left fun _ => (hddue k).symm)
      datasOrder := by rw [hvrot]; exact hdo
      checks_le := hcl
      checksFit := fun h => by rw [hfirst]; exact ⟨hcfit h, hc64⟩
      checksFull := fun h => by
        rw [hfirst]
        exact (hcfull h).symm.imp id fun e => Nat.le_of_eq e.symm
      datas_le := hdl
      datasAfter := fun h => (hdfit h).1
      datasFit := fun h => by
        rw [hfirst, hend]
        exact ⟨(hdfit h).2.2, (hdfit h).2.1⟩
      datasFull := fun h => by
        rw [hfirst, hend]
        exact (hdfull h).imp id fun e => e.symm.imp id fun e => Nat.le_of_eq e.symm }
    obtain ⟨fd', hplace, hfd', hrec⟩ := hplaces.placeGrants
    have haward : ∃ a, s.award = some a := by
      by_cases e : use = none
      · obtain ⟨w, hw, -⟩ := hnone e
        exact ⟨_, hw⟩
      · obtain ⟨u, e⟩ := Option.ne_none_iff_exists'.mp e
        cases u with
        | probe h => exact ⟨_, (hprobe h e).1⟩
        | callIn g spread => exact ⟨_, (hcall g spread e).1⟩
    obtain ⟨a, haward⟩ := haward
    have hguard : (a0.fd f).settings.guard = guard := by
      show _ = (found.fd f).settings.guard
      rw [hg1.settings]
    have hbuild := State.buildFull_eq a0 f n order (v := v) (window := window) (fd' := fd')
      (by rw [← hfound, hstage, hv]) (by rw [hguard, ← htaken]; exact hplace)
    have hset : v.setFd f fd' = State.setFd { found with windows := windows } f fd' := by
      have hwindows : windows = windowsBehind s.windows f n x use := by
        rw [← windowsBehind_eq, ← hwindow] <;> rfl
      rw [hv, State.withWindow, State.setFd_setFd, hground.windows, hwindows]
    have hcheckGrants : (v.checkMap f guard window checks c).grants = checkGrants := by
      have : v.checkGrant f guard (firstOffset guard window) = fun y =>
          { kind := .check, handle := y.1, offset := checkEnd y.2, length := 48
            confirm := decide (state y.1 = .confirming), answered := false, garbled := false } := by
        funext y
        unfold State.checkGrant
        rw [show v.record f y.1 = (v.fd f).record y.1 from rfl, hvrec, hfirst]
      unfold State.checkMap
      rw [this]
    have hdataGrants : v.dataGrants f guard window c datas d = dataGrants := by
      have : v.dataGrant f guard (firstOffset guard window + c * (48 + guard)) datas = fun y =>
          { kind := .data, handle := y.1, offset := dataEnd y.2, length := len y.1
            confirm := false, answered := false, garbled := false } := by
        funext y
        unfold State.dataGrant
        rw [hfirst, hend, hlen]
      unfold State.dataGrants
      rw [this]
    refine ⟨fd', ?_, ?_, fun k h1 h2 => ?_⟩
    · rw [exec_cycleBuild order hp, State.build_serving order ho hh haward, ← ha0, ← hset, hnaming]
      refine congrArg _ (hbuild.trans ?_)
      rw [hguard, hcheckGrants, hdataGrants, ← htaken]
      rfl
    · refine hfd'.trans ?_
      rw [hvfd, hkr]
      unfold Counters.add
      simp only [hkc]
      rfl
    · obtain ⟨hr, hw⟩ := hrec k h1 h2
      rw [hvprof, hvrec] at hr
      rw [hvwait] at hw
      exact ⟨hr, hw⟩
  · intro fd n owed ho hh harr hu hord hst haward h24 h32
    obtain ⟨winner, haward, hwin⟩ := haward
    have howed (b : Bool) : fd.owedBy b (List.range' 1 255) = owed b := rfl
    have hre : fd.Reoffered 255 fd.reofferAll := Feeder.reoffered_all hu hord h24 h32
    obtain ⟨v, hv⟩ : ∃ v, v = s.setFd f fd.reofferAll := ⟨_, rfl⟩
    have hvfd : v.fd f = fd.reofferAll := by rw [hv, State.fd_setFd]
    have hname (here : NamingPoint) : s.nameAt f here order.naming = s := State.nameAt_of_no_arrivals harr _ _
    have hvarr : (v.fd f).arrivals = [] := by rw [hvfd, fd.talked_reofferAll.rest]; exact harr
    have hfound : s.found f n order = v := by
      unfold State.found
      rw [hname, State.dispatch_of_empty hu hord]
      simp only [hname]
      rw [State.modFd, ← hv]
      exact State.nameAt_of_no_arrivals hvarr _ _
    have hstage : (s.found f n order).windowStage f n = (v, none) := by
      rw [hfound, State.windowStage_none (fun ha => absurd ?_ hwin), State.withWindow_none]
      have : v.award = s.award := by rw [hv, State.setFd_award]
      rw [this, haward] at ha
      simpa using ha
    have hstate (k : Nat) : ((v.fd f).record k).state = (fd.record k).state := by
      obtain ⟨o, eo⟩ := fd.talked_reofferAll.owed k
      rw [hvfd, eo]
    have hplaces : v.Places f fd.settings.guard [] none [] [] 0 0 := {
      checksDue := fun k => by
        rw [Record.checkDue_iff, hstate]
        rcases hst k with e | e | e | e | e <;> simp [e]
      checksOrder := .nil
      datasDue := fun k => by
        rw [State.dataDue_iff, hstate]
        rcases hst k with e | e | e | e | e <;> simp [e]
      datasOrder := .nil
      checks_le := Nat.le_refl 0
      checksFit := fun h => absurd h (Nat.lt_irrefl 0)
      checksFull := fun h => absurd h (Nat.lt_irrefl 0)
      datas_le := Nat.le_refl 0
      datasAfter := fun h => absurd h (Nat.lt_irrefl 0)
      datasFit := fun h => absurd h (Nat.lt_irrefl 0)
      datasFull := fun h => absurd h (Nat.lt_irrefl 0) }
    obtain ⟨fd', hplace, hfd', hrec⟩ := hplaces.placeGrants
    have hbuild := State.buildFull_eq s f n order (v := v) (window := none) (fd' := fd') (grants := []) hstage
      (by rw [hname, State.dispatch_of_empty hu hord]; exact hplace)
    have harr' : ((v.setFd f fd').fd f).arrivals = [] := by rw [State.fd_setFd, hfd']; exact hvarr
    rw [hname, State.dispatch_of_empty hu hord, State.nameAt_of_no_arrivals harr', State.modFd, State.fd_setFd,
      State.setFd_setFd, hv, State.setFd_setFd] at hbuild
    refine ⟨{ fd' with
      nextHeader := some
        { cycle := n, kind := .full, window := none, guard := fd.settings.guard, grants := [], messages := [] } },
      ?_, ?_, fun k h1 h2 => ?_⟩
    · rw [exec_cycleBuild order hp, State.build_serving order ho hh haward, hname]
      exact congrArg _ hbuild
    · have hwait : fd'.checkWait = Vector.replicate 255 0 := by
        refine Vector.ext fun i hi => ?_
        have := (hrec (i + 1) (by omega) (by omega)).2
        rw [Nat.add_sub_cancel, Vector.getElem?_eq_getElem hi] at this
        simpa using this
      have hcounters : (v.fd f).counters.add .dataDeferrals 0 = fd.counters := by
        have hc : (v.fd f).counters = fd.counters := by rw [hvfd, fd.talked_reofferAll.rest]
        unfold Counters.add
        simp only [hc, satAdd16_zero]
      have hall : fd' = { fd with
          table := fd'.table
          urgent := owed true
          ordinary := owed false
          checkWait := Vector.replicate 255 0 } := by
        refine hfd'.trans ?_
        rw [hwait, show ([] : List Nat).length - 0 = 0 from rfl, hcounters, hvfd, hre.rest, howed, howed]
        rfl
      exact congrArg (fun y : Feeder => { y with
        nextHeader := some
          { cycle := n, kind := .full, window := none, guard := fd.settings.guard, grants := [], messages := [] } }) hall
    · refine (hrec k h1 h2).1.trans ?_
      rw [hvfd, hre.done k h1 h2]
      simp

end

end Sys2Proof.Machine

/-! PROOFS. The DATA burst, garbled bursts and unassigned light (O45, O46). -/
namespace Sys2Proof.Machine

open Sys2Proof

section

variable {s u : State} {f : FeederId} {n : CycleNumber} {m : HeldMap} {h : Nat}

/-! ## Marks of a held map (R139) -/

/-- The held map of a cycle changed, in a feeder of the state. -/
def State.mapped (s : State) (f : FeederId) (n : CycleNumber) (c : HeldMap → HeldMap) : State :=
  s.setFd f { s.fd f with heldMaps := (s.fd f).heldMaps.map fun x => if x.cycle = n then c x else x }

theorem State.heard_eq (s : State) (f : FeederId) (n : CycleNumber) :
    s.heard f n = s.mapped f n fun x => { x with burstSeen := true } := rfl

theorem State.fd_mapped (s : State) (f : FeederId) (n : CycleNumber) (c : HeldMap → HeldMap) :
    (s.mapped f n c).fd f =
      { s.fd f with heldMaps := (s.fd f).heldMaps.map fun x => if x.cycle = n then c x else x } := State.fd_setFd s f _

theorem State.record_mapped (s : State) (f : FeederId) (n : CycleNumber) (c : HeldMap → HeldMap) (h : Nat) :
    (s.mapped f n c).record f h = s.record f h := by
  unfold State.record; rw [State.fd_mapped]; rfl

theorem State.hunt_mapped (s : State) (f : FeederId) (n : CycleNumber) (c : HeldMap → HeldMap) :
    ((s.mapped f n c).fd f).hunt = (s.fd f).hunt := by rw [State.fd_mapped]

/-- Two marks of one map, one after the other. -/
theorem State.modMap_mapped (s : State) (f : FeederId) (n : CycleNumber) {c e : HeldMap → HeldMap}
    (hc : ∀ x, (c x).cycle = x.cycle) :
    (s.mapped f n c).modFd f (·.modMap n e) = s.mapped f n fun x => e (c x) := by
  rw [State.modFd, State.fd_mapped]
  unfold State.mapped Feeder.modMap
  rw [State.setFd_setFd]
  simp only [List.map_map]
  refine congrArg (fun l => s.setFd f { s.fd f with heldMaps := l }) (List.map_congr_left fun x _ => ?_)
  by_cases hx : x.cycle = n
  · simp only [Function.comp, if_pos hx, hc]
  · simp only [Function.comp, if_neg hx]

/-- A grant marked in the map of a burst that is heard. -/
theorem State.modGrant_heard (s : State) (f : FeederId) (n : CycleNumber) (kind : GrantKind) (h : Nat) (c : Grant → Grant) :
    (s.heard f n).modFd f (·.modMap n (·.modGrant kind h c)) = s.mapped f n fun y => { y with
      burstSeen := true
      grants := y.grants.map fun k => if k.kind = kind ∧ k.handle = h then c k else k } := by
  rw [State.heard_eq, State.modMap_mapped (c := fun x => { x with burstSeen := true }) s f n fun _ => rfl]
  rfl

theorem State.markAnswered_heard (s : State) (f : FeederId) (n : CycleNumber) (kind : GrantKind) (h : Nat) :
    (s.heard f n).markAnswered f n kind h = s.mapped f n fun y => { y with
      burstSeen := true
      grants := y.grants.map fun k => if k.kind = kind ∧ k.handle = h then { k with answered := true } else k } :=
  s.modGrant_heard f n kind h _

/-! ## The DATA burst (O45) -/

theorem RecState.carriesTraffic_iff (x : RecState) : x.carriesTraffic = true ↔ x = .inService ∨ x = .suspect := by
  cases x <;> simp [RecState.carriesTraffic]

theorem RecState.judged_iff (x : RecState) : x.judged = true ↔ x = .levelling ∨ x = .inService ∨ x = .suspect := by
  cases x <;> simp [RecState.judged]

theorem State.dataBurst_unanswered {g : Grant} {m8 : Nat} {frames : List Bytes} (hg : m.grant .data h = some g)
    (ha : g.answered = false) : s.dataBurst f m m8 h frames =
      if (s.record f h).state.carriesTraffic &&
          !((s.markAnswered f m.cycle .data h).judgeData f h m.cycle (deviation m8 g.offset)).2 then
        frames.foldl (fun t frame => t.forwardFrame f h frame)
          ((s.markAnswered f m.cycle .data h).judgeData f h m.cycle (deviation m8 g.offset)).1
      else (((s.markAnswered f m.cycle .data h).judgeData f h m.cycle (deviation m8 g.offset)).1).dropFrames f frames := by
  unfold State.dataBurst
  rw [hg]
  simp only
  rw [if_neg (by rw [ha]; decide)]

theorem State.Within.upBuffer {t : State} (h : s.Within f t) : t.upBuffer = s.upBuffer ∧ t.tagType = s.tagType := by
  rw [h.2]; exact ⟨rfl, rfl⟩

/-- Settles O45: the grant, then the verdict of the timing, then the state of the record. -/
theorem dataBurstForwardsFrames : Obligations.DataBurstForwardsFrames := by
  intro s f n m8 level handle frames m hp ho hm fd h r marked dropping forwarded forwarding after
  have hafter : after = .next ((s.heard f n).dataBurst f m m8 h frames) := exec_cleanBurst hp ho hm m8 level _
  have hcycle : m.cycle = n := Feeder.mapOf_cycle hm
  have hdrop (v : State) : v.dropFrames f frames = dropping frames.length v := rfl
  have hforward (v : State) (hv : v.upBuffer = s.upBuffer ∧ v.tagType = s.tagType) :
      frames.foldl (fun t frame => t.forwardFrame f h frame) v = forwarding v := by
    rw [State.foldl_forwardFrame, hv.1, hv.2]
    rfl
  rw [hafter]
  refine ⟨fun hno => congrArg _ ?_, fun g hg ha => ?_⟩
  · have hid : marked id = s.heard f n := by
      refine congrArg (fun l => s.setFd f { fd with heldMaps := l }) (List.map_congr_left fun y _ => ?_)
      simp only [id, ite_self, List.map_id']
    rw [hid, ← hdrop]
    unfold State.dataBurst
    rcases hno with hno | ⟨g, hg, ha⟩
    · rw [hno]
    · rw [hg]
      exact if_pos ha
  · intro answered d8 carries judged timed
    have hanswered : (s.heard f n).markAnswered f n .data h = answered := s.markAnswered_heard f n .data h
    have hburst := State.dataBurst_unanswered (s := s.heard f n) (f := f) (m8 := m8) (frames := frames) hg ha
    rw [hcycle, hanswered, State.record_heard] at hburst
    have hrec : answered.record f h = r := State.record_mapped s f n _ h
    have hcarries : (s.record f h).state.carriesTraffic = true ↔ carries := RecState.carriesTraffic_iff _
    have hjudged : ((answered.record f h).state.judged && !(answered.record f h).settles n) = true ↔ judged := by
      rw [hrec, Bool.and_eq_true, RecState.judged_iff, Bool.not_eq_true', Record.settles, decide_eq_false_iff_not]
    have hnot (hj : ¬ judged) : answered.judgeData f h n (deviation m8 g.offset) = (answered, false) :=
      if_neg (mt hjudged.mp hj)
    have hyes (hj : judged) : answered.judgeData f h n (deviation m8 g.offset) = answered.judgeTiming f h d8 :=
      if_pos (hjudged.mpr hj)
    have htimed : (answered.modRecord f h fun r => { r with misplacedRun := 0 }).watchDrift f h d8 = timed := by
      rw [State.modRecord_eq, hrec]
    have hon (hle : d8.natAbs ≤ 512) : answered.judgeTiming f h d8 = (timed, false) := by
      rw [← htimed]; exact if_neg (Nat.not_lt.mpr hle)
    have hbuf : answered.upBuffer = s.upBuffer ∧ answered.tagType = s.tagType :=
      ⟨State.setFd_upBuffer s f _, State.setFd_tagType s f _⟩
    have hbuf' : timed.upBuffer = s.upBuffer ∧ timed.tagType = s.tagType := by
      obtain ⟨h1, h2⟩ := (State.within_watchDrift f
        (answered.setFd f ((answered.fd f).setRecord h { r with misplacedRun := 0 })) h d8).upBuffer
      exact ⟨h1.trans ((State.setFd_upBuffer _ f _).trans hbuf.1), h2.trans ((State.setFd_tagType _ f _).trans hbuf.2)⟩
    refine ⟨fun hj hc => congrArg _ ?_, fun hj hc => congrArg _ ?_, fun hj hlt => congrArg _ ?_,
      fun hj hle hc => congrArg _ ?_, fun hj hle hl => congrArg _ ?_⟩
    · rw [hburst, hnot hj, if_pos (by rw [hcarries.mpr hc]; rfl), hforward _ hbuf]
    · rw [hburst, hnot hj, if_neg (by rw [Bool.eq_false_iff.mpr (mt hcarries.mp hc)]; exact Bool.false_ne_true), hdrop]
    · have hmis : answered.judgeTiming f h d8 = (answered.misplace f h, true) := if_pos hlt
      rw [hburst, hyes hj, hmis, if_neg (by simp), hdrop]
    · rw [hburst, hyes hj, hon hle, if_pos (by rw [hcarries.mpr hc]; rfl), hforward _ hbuf']
    · have hno : ¬ carries := by
        rintro (e | e) <;> rw [hl] at e <;> cases e
      rw [hburst, hyes hj, hon hle, if_neg (by rw [Bool.eq_false_iff.mpr (mt hcarries.mp hno)]; exact Bool.false_ne_true),
        hdrop]

/-! ## Garbled bursts and light (O46) -/

theorem exec_garbledBurst (hp : s.phase = .running) (ho : (s.fd f).state = .opened ∨ (s.fd f).state = .paused)
    (hm : (s.fd f).mapOf n = some m) (p : Option Nat) :
    exec (.garbledBurst f n p) s = .next (match p with
      | some m8 => (s.heard f n).garbleAt f n m m8
      | none => s.heard f n) := by
  rw [exec_event_running rfl hp]
  show Host.Outcome.next (s.garbledBurst f n p) = _
  unfold State.garbledBurst
  rw [Feeder.liveMap_of_serving ho hm]
  cases p <;> rfl

theorem exec_unassignedLight (hp : s.phase = .running) (ho : (s.fd f).state = .opened ∨ (s.fd f).state = .paused)
    (hm : (s.fd f).mapOf n = some m) (p : Option Nat) :
    exec (.unassignedLight f n p) s = .next
      (if p.all m.unassigned then s.mapped f n fun x => { x with lightSeen := true } else s) := by
  rw [exec_event_running rfl hp]
  show Host.Outcome.next (s.unassignedLight f n p) = _
  unfold State.unassignedLight
  rw [Feeder.liveMap_of_serving ho hm]
  cases p <;> rfl

/-- A position that no window's span holds concerns the grants (R139). -/
theorem State.garbleAt_of_not_spanned {m8 : Nat} (hw : ∀ w, s.windowOf f n = some w → ¬ m8 < 8 * w.window.spanEnd) :
    s.garbleAt f n m m8 =
      match m.grants.find? fun g => g.holds m.guard m8 with
      | some g => s.garbleGrant f n g
      | none => s := by
  unfold State.garbleAt
  cases e : s.windowOf f n with
  | none => rfl
  | some w =>
    simp only
    rw [if_neg (mt (Window.holds_iff _ _).mp (hw w e))] <;> rfl

theorem HeldMap.unassigned_iff (m : HeldMap) (m8 : Nat) : m.unassigned m8 = false ↔
    (∃ w, m.window = some w ∧ m8 < 8 * (w.spanEnd + m.guard)) ∨
      ∃ g ∈ m.grants, 8 * g.offset ≤ m8 ∧ m8 < 8 * (g.offset + g.length + m.guard) := by
  unfold HeldMap.unassigned Window.holdsWithGuard Grant.holds
  rw [Bool.not_eq_false', Bool.or_eq_true]
  refine or_congr ?_ (by simp [List.any_eq_true])
  cases m.window <;> simp

/-- Settles O46. -/
theorem garbledBurstsAndLight : Obligations.GarbledBurstsAndLight := by
  refine ⟨fun s f n hp hno m8 p level content => ?_, fun s f n m hp ho hm => ?_⟩
  · have hlive : (s.fd f).liveMap n = none := by
      unfold Feeder.liveMap
      rcases hno with ⟨h1, h2⟩ | h
      · rw [if_neg fun hs => ((FeederState.serving_iff _).mp hs).elim h1 h2]
      · rw [h, ite_self]
    refine ⟨(exec_event_running rfl hp).trans (congrArg _ ?_), (exec_event_running rfl hp).trans (congrArg _ ?_),
      (exec_event_running rfl hp).trans (congrArg _ ?_)⟩
    · show s.garbledBurst f n p = s
      unfold State.garbledBurst
      rw [hlive]
    · show s.unassignedLight f n p = s
      unfold State.unassignedLight
      rw [hlive]
    · show s.cleanBurst f n m8 level content = s
      unfold State.cleanBurst
      rw [hlive]
  · intro fd mapped burst spanned
    have hwin : (s.heard f n).windowOf f n = s.windowOf f n := State.windowOf_heard s f n
    have hcycle : m.cycle = n := Feeder.mapOf_cycle hm
    refine ⟨exec_garbledBurst hp ho hm none, fun m8 w hw hin => ?_, fun m8 hns => ?_, fun m8 level => ?_,
      exec_unassignedLight hp ho hm none, fun m8 => ?_⟩
    · refine (exec_garbledBurst hp ho hm (some m8)).trans (congrArg _ ?_)
      show (s.heard f n).garbleAt f n m m8 = _
      unfold State.garbleAt
      rw [hwin, hw]
      simp only
      rw [if_pos ((Window.holds_iff _ _).mpr hin)]
      unfold Window.isCallIn
      cases w.window.use <;> rfl
    · have hat : exec (.garbledBurst f n (some m8)) s = .next ((s.heard f n).garbleAt f n m m8) :=
        exec_garbledBurst hp ho hm (some m8)
      have hgrants := State.garbleAt_of_not_spanned (s := s.heard f n) (m := m) (m8 := m8) (f := f) (n := n)
        fun w hw hin => hns ⟨w, hwin ▸ hw, trivial, hin⟩
      rw [hat, hgrants]
      refine ⟨fun g hg => ?_, fun hnone => ?_⟩
      · intro garbled
        have hmark : (s.heard f n).modFd f (·.modMap n (·.modGrant g.kind g.handle fun g => { g with garbled := true })) =
            garbled := s.modGrant_heard f n g.kind g.handle _
        have hrec (k : Nat) : garbled.record f k = fd.record k := State.record_mapped s f n _ k
        rw [hg]
        simp only
        unfold State.garbleGrant
        rw [hmark]
        refine ⟨fun hq => congrArg _ ?_, fun hk hc hs ht => ?_⟩
        · by_cases hcond : g.kind = .check ∧ g.confirm = true
          · have hne : (fd.record g.handle).state ≠ .confirming := by
              rcases hq with hq | hq | hq
              · rw [hq] at hcond; exact absurd hcond.1 (by decide)
              · rw [hq] at hcond; exact absurd hcond.2 (by decide)
              · exact hq
            rw [if_pos hcond]
            exact if_neg (by rw [hrec]; exact hne)
          · exact if_neg hcond
        · have hfail : garbled.failConfirm f g.handle = garbled.enterProbing f g.handle :=
            if_pos (by rw [hrec]; exact hs)
          have hin : 1 ≤ g.handle ∧ g.handle ≤ 255 := Feeder.in_range_of_state fun e => by rw [hs] at e; cases e
          refine ⟨garbled.enterProbing f g.handle, ?_, congrArg _ ((if_pos ⟨hk, hc⟩).trans hfail)⟩
          refine State.enterProbing_spec garbled f g.handle hin.1 hin.2 ?_ ?_ ?_
          · rw [hrec, hs]; rfl
          · rw [hrec, hs]; decide
          · rw [hrec, show (garbled.fd f).hunt = fd.hunt from State.hunt_mapped s f n _]
            exact ht
      · rw [List.find?_eq_none.mpr fun g hg => by rw [hnone g hg]; decide]
        rfl
    · intro discards
      have hburst (content : BurstContent) (e : (s.heard f n).takeBurst f n m m8 level content = s.heard f n) :
          discards content := (exec_cleanBurst hp ho hm m8 level content).trans (congrArg _ e)
      refine ⟨fun bytes => hburst _ rfl, fun hns serial slot attempts firmware => hburst _ ?_,
        fun handle serial hno => hburst _ ?_, fun handle word hno => hburst _ ?_⟩
      · show (s.heard f n).callInBurst f n m8 level serial slot attempts firmware = _
        unfold State.callInBurst
        rw [hwin]
        cases e : s.windowOf f n with
        | none => rfl
        | some w =>
          refine if_neg fun hc => hns ⟨w, e, ?_⟩
          rw [Bool.and_eq_true, Window.holds_iff] at hc
          refine ⟨?_, hc.2⟩
          cases hu : w.window.use with
          | callIn g spread => exact ⟨g, spread, rfl⟩
          | probe h => rw [Window.isCallIn, hu] at hc; exact absurd hc.1 Bool.false_ne_true
      · show (s.heard f n).probeBurst f n m8 level handle.toNat serial = _
        unfold State.probeBurst
        rw [hwin]
        cases e : s.windowOf f n with
        | none => rfl
        | some w =>
          refine if_neg fun ⟨hu, hin, ha⟩ => ?_
          rcases hno with hno | ⟨w', hw', ha'⟩
          · exact hno ⟨w, e, hu, (Window.holds_iff _ _).mp hin⟩
          · rw [e] at hw'
            obtain rfl := Option.some.inj hw'
            rw [ha] at ha'
            cases ha'
      · show (s.heard f n).checkBurst f m m8 level handle.toNat word = _
        unfold State.checkBurst
        rcases hno with hno | ⟨g, hg, ha⟩
        · rw [hno]
        · rw [hg]
          exact if_pos ha
    · intro owned
      have hiff : m.unassigned m8 = false ↔ owned := m.unassigned_iff m8
      refine ⟨fun how => (exec_unassignedLight hp ho hm (some m8)).trans (congrArg _ ?_),
        fun hno => (exec_unassignedLight hp ho hm (some m8)).trans (congrArg _ ?_)⟩
      · exact if_neg (by rw [Option.all_some, hiff.mpr how]; decide)
      · exact if_pos (Bool.not_eq_false _ ▸ mt hiff.mp hno)

end

end Sys2Proof.Machine

/-! PROOFS. The end of an upstream cycle: the dark and light runs, the re-hush, and the reports to a hunt (O49). -/
namespace Sys2Proof.Machine

open Sys2Proof

section

variable {s b : State} {f : FeederId} {n : CycleNumber} {m : HeldMap} {h : Nat}

/-! ## The dark and light runs (R43, R44) -/

theorem darkRunAfter_eq (run : Nat) (m : HeldMap) : darkRunAfter run (!m.grants.isEmpty) m.burstSeen =
    if m.burstSeen then 0 else if m.grants = [] then run else if run < 64 then run + 1 else run := by
  unfold darkRunAfter incUpTo
  cases m.grants <;> simp

/-- The dark watch by its cases: DARK with or without light, and DARK clear with its run at the debounce or not. -/
theorem State.watchDark_eq (s : State) (f : FeederId) (m : HeldMap) : s.watchDark f m =
    if (s.fd f).dark = true then
      if m.burstSeen = false then s.setFd f { s.fd f with lightRun := 0 }
      else if (s.fd f).lightRun = 0 then s.setFd f { s.fd f with lightRun := 1 }
      else (s.setFd f { s.fd f with dark := false, darkRun := 0, lightRun := 0 }).raise .lightBack { feeder := some f }
    else if m.burstSeen = false ∧ m.grants ≠ [] ∧
        (s.fd f).settings.darkDebounce ≤ darkRunAfter (s.fd f).darkRun (!m.grants.isEmpty) m.burstSeen then
      (s.setFd f { s.fd f with
        darkRun := darkRunAfter (s.fd f).darkRun (!m.grants.isEmpty) m.burstSeen
        dark := true
        latched := { (s.fd f).latched with wentDark := true } }).raise .dark { feeder := some f }
    else s.setFd f { s.fd f with darkRun := darkRunAfter (s.fd f).darkRun (!m.grants.isEmpty) m.burstSeen } := by
  unfold State.watchDark
  cases hd : (s.fd f).dark with
  | true =>
    simp only [hd, if_true]
    cases m.burstSeen with
    | false => simp
    | true =>
      rcases Nat.eq_zero_or_pos (s.fd f).lightRun with hl | hl
      · simp [hl]
      · have h2 : 2 ≤ (s.fd f).lightRun + 1 := Nat.succ_le_succ hl
        simp [h2, Nat.ne_of_gt hl]
  | false =>
    simp only [hd, Bool.false_eq_true, if_false]
    refine if_congr ?_ rfl rfl
    cases m.grants <;> simp

/-- What the dark watch leaves: it reaches the four dark fields and the notices. -/
theorem State.fd_watchDark (s : State) (f : FeederId) (m : HeldMap) : (s.watchDark f m).fd f = { s.fd f with
    dark := ((s.watchDark f m).fd f).dark
    darkRun := ((s.watchDark f m).fd f).darkRun
    lightRun := ((s.watchDark f m).fd f).lightRun
    latched := ((s.watchDark f m).fd f).latched } := by
  rw [State.watchDark_eq]
  split_ifs <;> simp only [State.fd_raise, State.fd_setFd]

theorem State.within_watchDark (s : State) (f : FeederId) (m : HeldMap) : s.Within f (s.watchDark f m) := by
  rw [State.watchDark_eq]
  split_ifs
  · exact State.within_setFd f s _
  · exact State.within_setFd f s _
  · exact (State.within_setFd f s _).trans (State.within_raise f _ _ _)
  · exact (State.within_setFd f s _).trans (State.within_raise f _ _ _)
  · exact State.within_setFd f s _

/-! ## The re-hush and the start of a hunt (R45, R158, R166, R169) -/

theorem Feeder.offerHush_eq (fd : Feeder) (h : Nat) : fd.offerHush h = Feeder.offerUrgent
    (fd.setRecord h { fd.record h with
      owed := if (fd.record h).owed = some .resume then none else (fd.record h).owed }) h .hush := by
  unfold Feeder.offerHush
  rw [Feeder.modRecord_eq, Record.clearOwed_resume]

theorem Feeder.offerResume_eq (fd : Feeder) (h : Nat) : fd.offerResume h = Feeder.offerUrgent
    (fd.setRecord h { fd.record h with
      owed := if (fd.record h).owed = some .hush then none else (fd.record h).owed }) h .resume := by
  unfold Feeder.offerResume
  rw [Feeder.modRecord_eq, Record.clearOwed_hush]

/-- A re-hush: the record HUSHED with a HUSH offered, then the decision of its recovery policy (R166, R169). -/
theorem State.reHush_spec (b : State) (f : FeederId) (h : Nat) (h1 : 1 ≤ h) (h2 : h ≤ 255)
    (ht : (b.fd f).hunt.target ≠ some h) :
    ∃ t, HushDecides (b.setFd f (Feeder.offerUrgent ((b.fd f).setRecord h { (b.fd f).record h with
        state := .hushed
        recCd := 0
        owed := if ((b.fd f).record h).owed = some .resume then none else ((b.fd f).record h).owed }) h .hush)) f h t ∧
      b.reHush f h = t.setFd f { t.fd f with strayRun := 0 } := by
  obtain ⟨x, hx⟩ : ∃ x, x = Feeder.offerUrgent ((b.fd f).setRecord h { (b.fd f).record h with
        state := .hushed
        recCd := 0
        owed := if ((b.fd f).record h).owed = some .resume then none else ((b.fd f).record h).owed }) h .hush := ⟨_, rfl⟩
  have hset : b.modFd f (fun fd => (fd.modRecord h fun r => { r with state := .hushed, recCd := 0 }).offerHush h) =
      b.setFd f x := by
    refine congrArg (b.setFd f) ?_
    show ((b.fd f).modRecord h fun r => { r with state := .hushed, recCd := 0 }).offerHush h = x
    rw [Feeder.offerHush_eq, Feeder.modRecord_eq, Feeder.record_setRecord_self _ h _ h1 h2, Feeder.setRecord_setRecord, hx]
  obtain ⟨o, eo⟩ := (Feeder.talked_offerUrgent ((b.fd f).setRecord h { (b.fd f).record h with
        state := .hushed
        recCd := 0
        owed := if ((b.fd f).record h).owed = some .resume then none else ((b.fd f).record h).owed }) h .hush).owed h
  have hstate : ((b.setFd f x).record f h).state = .hushed := by
    rw [State.record, State.fd_setFd, hx, eo, Feeder.record_setRecord_self _ h _ h1 h2]
  have hhunt : ((b.setFd f x).fd f).hunt.target ≠ some h := by
    rw [State.fd_setFd, hx, (Feeder.talked_offerUrgent _ h _).hunt, Feeder.setRecord_hunt]
    exact ht
  refine ⟨(b.setFd f x).entryDecision f h, ?_, ?_⟩
  · rw [← hx]
    exact State.entryDecision_spec _ f h h1 h2 hstate hhunt
  · unfold State.reHush
    rw [hset]
    rfl

theorem State.startHunt_spec (b : State) (f : FeederId) :
    HuntChooses (b.setFd f { b.fd f with hunt := { idleHunt with state := .hunting } }) f (b.startHunt f) :=
  State.chooseTarget_spec _ f

/-! ## The reports to a hunt (R160, R161, R163) -/

/-- The culprit: HUSHED, STRAY_FOUND raised, the hunt over, then the decision of its recovery policy (R160, R166). -/
theorem State.culprit_spec (b : State) (f : FeederId) (h : Nat) (h1 : 1 ≤ h) (h2 : h ≤ 255) :
    HushDecides ((b.setFd f { ((b.fd f).setRecord h { (b.fd f).record h with state := .hushed, heldFrom := none }) with
        stray := false, strayRun := 0, hunt := idleHunt }).raise .strayFound
      { feeder := some f, handle := some h, serial := ((b.fd f).record h).serial
        dwelling := ((b.fd f).record h).planLink.map fun i => (b.planAt i).dwelling }) f h (b.culprit f h) := by
  obtain ⟨x, hx⟩ : ∃ x : Feeder, x = { ((b.fd f).setRecord h { (b.fd f).record h with
      state := .hushed, heldFrom := none }) with stray := false, strayRun := 0, hunt := idleHunt } := ⟨_, rfl⟩
  have hrec : x.record h = { (b.fd f).record h with state := .hushed, heldFrom := none } := by
    rw [hx]; exact Feeder.record_setRecord_self (b.fd f) h _ h1 h2
  have hstep : b.culprit f h = ((b.setFd f x).raise .strayFound
      { feeder := some f, handle := some h, serial := ((b.fd f).record h).serial
        dwelling := ((b.fd f).record h).planLink.map fun i => (b.planAt i).dwelling }).entryDecision f h := by
    have hend : (b.setFd f ((b.fd f).setRecord h { (b.fd f).record h with
        state := .hushed, heldFrom := none })).modFd f (·.endStray) = b.setFd f x := by
      rw [State.modFd, State.fd_setFd, State.setFd_setFd, hx]
      rfl
    unfold State.culprit
    dsimp only
    rw [State.modFd_raise, State.modRecord_eq, ← hend]
    rfl
  rw [hstep, ← hx]
  refine State.entryDecision_spec _ f h h1 h2 ?_ ?_
  · rw [State.record_raise, State.record, State.fd_setFd, hrec]
  · rw [State.fd_raise, State.fd_setFd, hx]
    exact nofun

theorem Hunt.takesAsHushed_iff (t : Hunt) (n : CycleNumber) : t.takesAsHushed n = true ↔
    t.phase = some .watching ∧ ∃ c, t.hushCycle = some c ∧ (n - c).toNat < 32768 := by
  unfold Hunt.takesAsHushed
  rw [Bool.and_eq_true, decide_eq_true_iff]
  cases t.hushCycle <;> simp

theorem State.strayReport_idle {light : Bool} (hh : (b.fd f).hunt.state ≠ .hunting) : b.strayReport f n light = b :=
  if_pos hh

theorem State.strayReport_hushed {light : Bool} (hh : (b.fd f).hunt.state = .hunting)
    (ht : (b.fd f).hunt.target = some h) (hw : (b.fd f).hunt.takesAsHushed n = true) :
    b.strayReport f n light = b.hushedReport f h light := by
  unfold State.strayReport
  simp only
  rw [if_neg (not_not_intro hh), ht]
  exact if_pos hw

theorem State.strayReport_open {light : Bool} (hh : (b.fd f).hunt.state = .hunting)
    (ht : ∀ h, ¬ ((b.fd f).hunt.target = some h ∧ (b.fd f).hunt.takesAsHushed n = true)) :
    b.strayReport f n light = b.openReport f light := by
  unfold State.strayReport
  simp only
  rw [if_neg (not_not_intro hh)]
  cases e : (b.fd f).hunt.target with
  | none => rfl
  | some h => exact if_neg fun hw => ht h ⟨e, hw⟩

/-- The absence run behind a report (R160, R161). -/
def Hunt.absenceAfter (t : Hunt) (light : Bool) : Nat := if light then 0 else t.absence + 1

theorem State.hushedReport_culprit {light : Bool} (ha : 2 ≤ (b.fd f).hunt.absenceAfter light) :
    b.hushedReport f h light = b.culprit f h := if_pos ha

theorem State.hushedReport_watches {light : Bool} (ha : (b.fd f).hunt.absenceAfter light < 2)
    (hw : 2 ≤ (b.fd f).hunt.watchCd ∨ (b.fd f).hunt.absenceAfter light = 1) :
    b.hushedReport f h light = b.setFd f { b.fd f with hunt := { (b.fd f).hunt with
      absence := (b.fd f).hunt.absenceAfter light, watchCd := (b.fd f).hunt.watchCd - 1 } } := by
  refine (if_neg (Nat.not_le.mpr ha)).trans (congrArg (b.setFd f) (if_neg fun ⟨h1, h2⟩ => ?_))
  have h2 : (b.fd f).hunt.absenceAfter light = 0 := h2
  omega

theorem State.hushedReport_releases {light : Bool} (ha : (b.fd f).hunt.absenceAfter light = 0)
    (hw : (b.fd f).hunt.watchCd ≤ 1) :
    b.hushedReport f h light = b.setFd f { ((b.fd f).offerResume h) with hunt := { (b.fd f).hunt with
      absence := 0, watchCd := 0, phase := some .releasing, hushCycle := none } } := by
  have hz : (b.fd f).hunt.watchCd - 1 = 0 := Nat.sub_eq_zero_of_le hw
  refine (if_neg (by rw [show (if light then 0 else (b.fd f).hunt.absence + 1) = 0 from ha]; decide)).trans
    (congrArg (b.setFd f) ((if_pos ⟨hz, ha⟩).trans ?_))
  unfold Feeder.releaseTarget
  rw [Feeder.offerResume_withHunt, show (if light then 0 else (b.fd f).hunt.absence + 1) = 0 from ha, hz]

/-- The feeder of a hunt whose light has gone out while no target was dark, before STRAY ends (R161). -/
theorem Feeder.releaseHeld_eq (fd : Feeder) : fd.releaseHeld =
    match fd.hunt.target, fd.hunt.phase with
    | none, _ => fd
    | some _, some .releasing => fd
    | some h, _ => fd.offerResume h := by
  unfold Feeder.releaseHeld
  cases fd.hunt.target with
  | none => rfl
  | some h =>
    cases fd.hunt.phase with
    | none => rfl
    | some p => cases p <;> rfl

/-- The hunt ends with STRAY_CLEARED, its target released while it is still held (R161). -/
theorem State.strayVanished_eq (b : State) (f : FeederId) : b.strayVanished f =
    (b.setFd f { (b.fd f).releaseHeld with stray := false, strayRun := 0, hunt := idleHunt }).raise .strayCleared
      { feeder := some f } := rfl

theorem State.openReport_vanishes {light : Bool} (ha : 2 ≤ (b.fd f).hunt.absenceAfter light) :
    b.openReport f light = b.strayVanished f := if_pos ha

theorem State.openReport_counts {light : Bool} (ha : (b.fd f).hunt.absenceAfter light < 2) :
    b.openReport f light = b.setFd f { b.fd f with hunt := { (b.fd f).hunt with
      absence := (b.fd f).hunt.absenceAfter light } } := if_neg (Nat.not_le.mpr ha)

/-! ## The stray run -/

theorem Record.withinWatch_iff {r : Record} : r.withinWatch = true ↔ r.state = .inService ∧ 0 < r.recCd := by
  simp [Record.withinWatch]

theorem State.strayReached_reHushes (hw : (b.fd f).watched = some h) : b.strayReached f = b.reHush f h := by
  unfold State.strayReached
  rw [hw]

/-- STRAY set, with its notice and its flag, and a hunt that chooses its target (R45, R158). -/
theorem State.strayReached_hunts (hw : (b.fd f).watched = none) :
    HuntChooses ((b.setFd f { b.fd f with
      stray := true
      latched := { (b.fd f).latched with straySeen := true }
      hunt := { idleHunt with state := .hunting } }).raise .stray { feeder := some f }) f (b.strayReached f) := by
  have hstep : b.strayReached f = ((b.setFd f { b.fd f with
      stray := true
      latched := { (b.fd f).latched with straySeen := true }
      hunt := { idleHunt with state := .hunting } }).raise .stray { feeder := some f }).chooseTarget f := by
    unfold State.strayReached State.startHunt
    rw [hw]
    dsimp only
    rw [State.modFd_raise, State.modFd, State.modFd, State.fd_setFd, State.setFd_setFd]
    rfl
  rw [hstep]
  exact State.chooseTarget_spec _ f

/-- The stray run behind a cycle (R45). -/
def strayRunAfter (run : Nat) (light : Bool) : Nat := if light = false then 0 else if run < 16 then run + 1 else run

theorem State.watchStray_eq (s : State) (f : FeederId) (m : HeldMap) : s.watchStray f m =
    if (s.fd f).stray = true then
      (s.setFd f { s.fd f with strayRun := strayRunAfter (s.fd f).strayRun m.lightSeen }).strayReport f m.cycle m.lightSeen
    else if m.lightSeen = true ∧ (s.fd f).settings.strayRun ≤ strayRunAfter (s.fd f).strayRun m.lightSeen then
      (s.setFd f { s.fd f with strayRun := strayRunAfter (s.fd f).strayRun m.lightSeen }).strayReached f
    else s.setFd f { s.fd f with strayRun := strayRunAfter (s.fd f).strayRun m.lightSeen } := by
  have hrun : (if m.lightSeen then incUpTo 16 (s.fd f).strayRun else 0) =
      strayRunAfter (s.fd f).strayRun m.lightSeen := by
    cases m.lightSeen <;> rfl
  unfold State.watchStray
  dsimp only
  rw [hrun]
  simp only [Bool.and_eq_true, decide_eq_true_eq]

/-! ## The end of an upstream cycle -/

theorem exec_upstreamCycleEnd (hp : s.phase = .running) (hm : (s.fd f).mapOf n = some m) :
    exec (.upstreamCycleEnd f n) s = .next (if m.evaluated then
      ((s.setFd f { s.fd f with
        heldMaps := (s.fd f).heldMaps.filter fun x => decide (x.cycle ≠ n) }).watchDark f m).watchStray f m
      else s.setFd f { s.fd f with heldMaps := (s.fd f).heldMaps.filter fun x => decide (x.cycle ≠ n) }) := by
  rw [exec_event_running rfl hp]
  show Host.Outcome.next (s.upstreamCycleEnd f n) = _
  unfold State.upstreamCycleEnd
  rw [hm]
  rfl

/-- Settles O49. -/
theorem cycleEndWatchesLight : Obligations.CycleEndWatchesLight := by
  intro s f n m hp hm fd ended after notice dark watched run now base hunt idle absence watching hushedReport resumed
  have hcycle : m.cycle = n := Feeder.mapOf_cycle hm
  have hwatched : (s.setFd f ended).watchDark f m = watched := by
    rw [State.watchDark_eq]
    simp only [State.fd_setFd, State.setFd_setFd, darkRunAfter_eq]
    rfl
  have hafter : after = .next (if m.evaluated then watched.watchStray f m else s.setFd f ended) := by
    rw [← hwatched]; exact exec_upstreamCycleEnd hp hm
  have hwfd : watched.fd f = { fd with
      heldMaps := ended.heldMaps
      dark := (watched.fd f).dark
      darkRun := (watched.fd f).darkRun
      lightRun := (watched.fd f).lightRun
      latched := (watched.fd f).latched } := by
    have := State.fd_watchDark (s.setFd f ended) f m
    rw [hwatched, State.fd_setFd] at this
    exact this
  have hwithin : s.Within f watched := by
    rw [← hwatched]; exact (State.within_setFd f s ended).trans (State.within_watchDark _ f m)
  have hplan (i : Nat) : base.planAt i = s.planAt i := by
    show (watched.setFd f now).planAt i = _
    rw [State.planAt_setFd]
    unfold State.planAt
    rw [hwithin.2]
  have hbfd : base.fd f = now := State.fd_setFd watched f now
  have hnow (k : Nat) : now.record k = fd.record k := Feeder.record_of_table (by
    show (watched.fd f).table = _
    rw [hwfd]) k
  have hnhunt : now.hunt = hunt := by
    show (watched.fd f).hunt = _
    rw [hwfd]
  have hset (x : Feeder) : base.setFd f x = watched.setFd f x := State.setFd_setFd watched f now x
  have hstray : (watched.fd f).strayRun = fd.strayRun ∧ (watched.fd f).settings = fd.settings ∧
      (watched.fd f).stray = fd.stray := by
    rw [hwfd]; exact ⟨rfl, rfl, rfl⟩
  have hwatch : watched.watchStray f m = if fd.stray = true then base.strayReport f n m.lightSeen
      else if m.lightSeen = true ∧ fd.settings.strayRun ≤ run then base.strayReached f else base := by
    rw [State.watchStray_eq, hcycle, hstray.1, hstray.2.1, hstray.2.2]
    rfl
  have hidle : idle = idleHunt := rfl
  have hresumed (h : Nat) : resumed h = now.offerResume h := by
    rw [Feeder.offerResume_eq, hnow]
  have hwithinWatch (k : Nat) : (now.record k).withinWatch = true ↔ watching k := by
    rw [hnow]; exact Record.withinWatch_iff
  have habs : (base.fd f).hunt.absenceAfter m.lightSeen = absence := by
    rw [hbfd, hnhunt]; rfl
  refine ⟨fun he => ?_, fun he hs => ?_, fun he hs => ?_⟩
  · rw [hafter, he]
    rfl
  · have hclear : after = .next (if m.lightSeen = true ∧ fd.settings.strayRun ≤ run then base.strayReached f
        else base) := by
      rw [hafter, if_pos he, hwatch, hs, if_neg Bool.false_ne_true]
    rw [hclear]
    refine ⟨fun hl => ?_, fun hl hr => ?_⟩
    · rw [if_neg]
      rintro ⟨hlit, hrun⟩
      rcases hl with hl | hl
      · rw [hl] at hlit; exact Bool.false_ne_true hlit
      · exact Nat.not_le.mpr hl hrun
    · rw [if_pos ⟨hl, hr⟩]
      refine ⟨fun h hh hmax hlow ht => ?_, fun hno => ?_⟩
      · have hw : (base.fd f).watched = some h := by
          rw [hbfd]
          refine Feeder.watched_eq_some now h ((hwithinWatch h).mpr hh) (fun k hk => ?_) fun k hlt hk => ?_
          · rw [hnow, hnow]; exact hmax k ((hwithinWatch k).mp hk)
          · rw [hnow, hnow]; exact hlow k hlt ((hwithinWatch k).mp hk)
        obtain ⟨h1, h2⟩ : 1 ≤ h ∧ h ≤ 255 :=
          Feeder.in_range_of_state (fd := fd) (by rw [hh.1]; exact nofun)
        have hre := State.reHush_spec base f h h1 h2 (by rw [hbfd, hnhunt]; exact ht)
        rw [hbfd, hnow] at hre
        obtain ⟨t, hdec, ht⟩ := hre
        exact ⟨t, hdec, congrArg Host.Outcome.next ((State.strayReached_reHushes hw).trans ht)⟩
      · have hw : (base.fd f).watched = none := by
          rw [hbfd]
          exact Feeder.watched_eq_none now fun k => Bool.eq_false_iff.mpr fun hk => hno k ((hwithinWatch k).mp hk)
        have hh := State.strayReached_hunts hw
        rw [hbfd] at hh
        exact ⟨_, hh, rfl⟩
  · have hreport : after = .next (base.strayReport f n m.lightSeen) := by
      rw [hafter, if_pos he, hwatch, if_pos hs]
    rw [hreport]
    have hbhunt : (base.fd f).hunt = hunt := by rw [hbfd, hnhunt]
    refine ⟨fun hh => ?_, fun h hh ⟨ht, hphase⟩ => ?_, fun hh hno => ?_⟩
    · rw [State.strayReport_idle (by rw [hbhunt]; exact hh)]
    · rw [State.strayReport_hushed (by rw [hbhunt]; exact hh) (by rw [hbhunt]; exact ht)
        (by rw [hbhunt]; exact (Hunt.takesAsHushed_iff hunt n).mpr hphase)]
      refine ⟨fun ha h1 h2 => ?_, fun ha hcd => ?_, fun ha hcd => ?_⟩
      · have hc := State.culprit_spec base f h h1 h2
        rw [hbfd, hnow] at hc
        simp only [hplan] at hc
        exact ⟨_, hc, congrArg Host.Outcome.next (State.hushedReport_culprit (by rw [habs]; exact ha))⟩
      · have hr := State.hushedReport_watches (h := h) (by rw [habs]; exact ha) (by rw [habs, hbhunt]; exact hcd)
        rw [hr, habs, hbfd, hnhunt]
      · have hr := State.hushedReport_releases (h := h) (by rw [habs]; exact ha) (by rw [hbhunt]; exact hcd)
        rw [hr, hresumed, hbfd, hnhunt]
    · have hopen : ∀ h, ¬ ((base.fd f).hunt.target = some h ∧ (base.fd f).hunt.takesAsHushed n = true) := by
        intro h ⟨ht, hw⟩
        rw [hbhunt] at ht hw
        exact hno h ⟨ht, (Hunt.takesAsHushed_iff hunt n).mp hw⟩
      rw [State.strayReport_open (by rw [hbhunt]; exact hh) hopen]
      refine ⟨fun ha => ?_, fun ha => ?_⟩
      · rw [State.openReport_counts (by rw [habs]; exact ha), habs, hbfd, hnhunt]
      · have hreleased : now.releaseHeld = match hunt.target, hunt.phase with
            | none, _ => now
            | some _, some .releasing => now
            | some h, _ => resumed h := by
          simp only [Feeder.releaseHeld_eq, hnhunt, hresumed]
        rw [State.openReport_vanishes (by rw [habs]; exact ha), State.strayVanished_eq, hbfd, hreleased] <;> rfl

end

end Sys2Proof.Machine

/-! PROOFS. The CHECK burst: timing, level, condition word and answer (O43). -/
namespace Sys2Proof.Machine

open Sys2Proof

section

variable {s : State} {f : FeederId} {n : CycleNumber} {m : HeldMap} {h c : Nat} {w : Byte} {d8 : Int} {x y : Record}

/-! ## A state with one record written -/

/-- The record of a handle written, in a feeder of the state. -/
def State.withRecord (s : State) (f : FeederId) (h : Nat) (x : Record) : State := s.setFd f ((s.fd f).setRecord h x)

theorem State.modRecord_eq_withRecord (s : State) (f : FeederId) (h : Nat) (g : Record → Record) :
    s.modRecord f h g = s.withRecord f h (g (s.record f h)) := State.modRecord_eq s f h g

theorem State.record_withRecord (h1 : 1 ≤ h) (h2 : h ≤ 255) : (s.withRecord f h x).record f h = x := by
  rw [State.record, State.withRecord, State.fd_setFd, Feeder.record_setRecord_self _ h _ h1 h2]

theorem State.fd_withRecord (s : State) (f : FeederId) (h : Nat) (x : Record) :
    (s.withRecord f h x).fd f = (s.fd f).setRecord h x := State.fd_setFd s f _

theorem State.withRecord_withRecord (s : State) (f : FeederId) (h : Nat) (x y : Record) :
    (s.withRecord f h x).withRecord f h y = s.withRecord f h y := by
  unfold State.withRecord
  rw [State.fd_setFd, State.setFd_setFd, Feeder.setRecord_setRecord]

theorem State.modRecord_withRecord (h1 : 1 ≤ h) (h2 : h ≤ 255) (g : Record → Record) :
    (s.withRecord f h x).modRecord f h g = s.withRecord f h (g x) := by
  rw [State.modRecord_eq_withRecord, State.record_withRecord h1 h2, State.withRecord_withRecord]

theorem State.withRecord_record (s : State) (f : FeederId) (h : Nat) : s.withRecord f h (s.record f h) = s := by
  unfold State.withRecord State.record
  rw [Feeder.setRecord_record, State.setFd_fd]

/-! ## The timing judgements (R109, R115, R116) -/

/-- A misplaced burst counted (R47). -/
def Counters.misplacedOnce (c : Counters) : Counters := { c with misplaced := satAdd16 c.misplaced 1 }

theorem State.judgeConfirm_within (hd : d8.natAbs ≤ 16) : s.judgeConfirm f h d8 =
    s.withRecord f h { s.record f h with state := .levelling, driftRun := 0, misplacedRun := 0 } :=
  (if_pos hd).trans (State.modRecord_eq_withRecord s f h _)

theorem State.judgeConfirm_off (hd : 16 < d8.natAbs) : s.judgeConfirm f h d8 =
    (if 512 < d8.natAbs then s.setFd f { s.fd f with counters := (s.fd f).counters.misplacedOnce }
      else s).enterProbing f h := if_neg (Nat.not_le.mpr hd)

/-- The three verdicts about the burst of a CONFIRMING record (R109). -/
theorem State.judgeConfirm_spec (h1 : 1 ≤ h) (h2 : h ≤ 255) (hs : (s.record f h).state = .confirming) :
    (d8.natAbs ≤ 16 → s.judgeConfirm f h d8 =
        s.withRecord f h { s.record f h with state := .levelling, driftRun := 0, misplacedRun := 0 }) ∧
      (16 < d8.natAbs → d8.natAbs ≤ 512 → (s.record f h).eqAttempts < 3 ∨ (s.fd f).hunt.target ≠ some h →
        ProbingEntry s f h (s.judgeConfirm f h d8)) ∧
      (512 < d8.natAbs → (s.fd f).hunt.target ≠ some h →
        ProbingEntry (s.setFd f { s.fd f with counters := (s.fd f).counters.misplacedOnce }) f h
          (s.judgeConfirm f h d8)) := by
  refine ⟨State.judgeConfirm_within, fun hlt hle ht => ?_, fun hlt ht => ?_⟩
  · rw [State.judgeConfirm_off hlt, if_neg (Nat.not_lt.mpr hle)]
    exact State.enterProbing_spec s f h h1 h2 (by rw [hs]; rfl) (by rw [hs]; exact nofun) ht
  · rw [State.judgeConfirm_off (by omega), if_pos hlt]
    have hrec : (s.setFd f { s.fd f with counters := (s.fd f).counters.misplacedOnce }).record f h = s.record f h := by
      rw [State.record, State.fd_setFd]; rfl
    exact State.enterProbing_spec _ f h h1 h2 (by rw [hrec, hs]; rfl) (by rw [hrec, hs]; exact nofun)
      (.inr (by rw [State.fd_setFd]; exact ht))

/-- A misplaced burst counted, and the misplaced run of its record written (R116). -/
def State.countMisplaced (s : State) (f : FeederId) (h k : Nat) : State :=
  s.setFd f { ((s.fd f).setRecord h { s.record f h with misplacedRun := k }) with
    counters := (s.fd f).counters.misplacedOnce }

theorem State.record_countMisplaced (h1 : 1 ≤ h) (h2 : h ≤ 255) (k : Nat) :
    (s.countMisplaced f h k).record f h = { s.record f h with misplacedRun := k } := by
  rw [State.record, State.countMisplaced, State.fd_setFd]
  exact Feeder.record_setRecord_self _ h _ h1 h2

theorem Feeder.setRecord_withCounters (fd : Feeder) (c : Counters) (h : Nat) (x : Record) :
    Feeder.setRecord { fd with counters := c } h x = { (fd.setRecord h x) with counters := c } := by
  unfold Feeder.setRecord
  split <;> rfl

theorem State.misplace_eq (h1 : 1 ≤ h) (h2 : h ≤ 255) : s.misplace f h =
    if incUpTo 3 (s.record f h).misplacedRun = 3 then
      (s.countMisplaced f h (incUpTo 3 (s.record f h).misplacedRun)).enterProbing f h
    else s.countMisplaced f h (incUpTo 3 (s.record f h).misplacedRun) := by
  have hstep : (s.modFd f fun fd => (fd.count .misplaced 1).modRecord h fun r =>
      { r with misplacedRun := incUpTo 3 r.misplacedRun }) =
      s.countMisplaced f h (incUpTo 3 (s.record f h).misplacedRun) := by
    unfold State.modFd State.countMisplaced
    simp only [Feeder.modRecord_eq]
    exact congrArg (s.setFd f) (Feeder.setRecord_withCounters (s.fd f) _ h _)
  unfold State.misplace
  simp only [hstep, State.record_countMisplaced h1 h2]

/-- The misplaced run moved, or its third burst, which enters PROBING (R116). -/
theorem State.misplace_spec (h1 : 1 ≤ h) (h2 : h ≤ 255) (hj : (s.record f h).state.judged = true) :
    ((s.record f h).misplacedRun < 2 → s.misplace f h = s.countMisplaced f h ((s.record f h).misplacedRun + 1)) ∧
      (2 ≤ (s.record f h).misplacedRun → (s.record f h).misplacedRun ≤ 3 → (s.fd f).hunt.target ≠ some h →
        ProbingEntry (s.countMisplaced f h 3) f h (s.misplace f h)) := by
  have hinc : incUpTo 3 (s.record f h).misplacedRun =
      if (s.record f h).misplacedRun < 3 then (s.record f h).misplacedRun + 1 else (s.record f h).misplacedRun := rfl
  refine ⟨fun hlt => ?_, fun hge hle ht => ?_⟩
  · have h3 : incUpTo 3 (s.record f h).misplacedRun = (s.record f h).misplacedRun + 1 := by rw [hinc, if_pos (by omega)]
    rw [State.misplace_eq h1 h2, h3, if_neg (by omega)]
  · have h3 : incUpTo 3 (s.record f h).misplacedRun = 3 := by rw [hinc]; split <;> omega
    rw [State.misplace_eq h1 h2, h3, if_pos rfl]
    refine State.enterProbing_spec _ f h h1 h2 ?_ ?_ (.inr ?_)
    · rw [State.record_countMisplaced h1 h2]
      rcases (RecState.judged_iff _).mp hj with e | e | e <;> exact (congrArg RecState.active e).trans rfl
    · rw [State.record_countMisplaced h1 h2]
      exact fun e => by rw [show (s.record f h).state = .named from e] at hj; cases hj
    · rw [State.countMisplaced, State.fd_setFd]
      show ((s.fd f).setRecord h _).hunt.target ≠ some h
      rw [Feeder.setRecord_hunt]
      exact ht

/-- A drift run below DRIFT_RUN only moves (R117). -/
theorem State.watchDrift_below (h1 : 1 ≤ h) (h2 : h ≤ 255)
    (hlt : (driftRunAfter (s.fd f).settings.driftTrip x.driftRun d8).natAbs < (s.fd f).settings.driftRun) :
    (s.withRecord f h x).watchDrift f h d8 =
      s.withRecord f h { x with driftRun := driftRunAfter (s.fd f).settings.driftTrip x.driftRun d8 } := by
  have hset : ((s.withRecord f h x).fd f).settings = (s.fd f).settings := by
    rw [State.fd_withRecord, Feeder.setRecord_settings]
  unfold State.watchDrift
  simp only [hset, State.record_withRecord h1 h2, State.modRecord_withRecord h1 h2]
  exact if_neg fun hr => Nat.not_le.mpr hlt hr.2

/-! ## The answer (R140) -/

theorem State.answerCheck_eq (s : State) (f : FeederId) (h : Nat) : s.answerCheck f h =
    s.withRecord f h ((s.record f h).answer (s.profileOf (s.record f h)).presence) :=
  State.modRecord_eq_withRecord s f h _

theorem State.answerCheck_withRecord (h1 : 1 ≤ h) (h2 : h ≤ 255) : (s.withRecord f h x).answerCheck f h =
    s.withRecord f h (x.answer (s.profileOf x).presence) := by
  rw [State.answerCheck_eq, State.record_withRecord h1 h2, State.withRecord_withRecord,
    show (s.withRecord f h x).profileOf x = s.profileOf x from State.profileOf_setFd s f _ x]

theorem Record.answer_levelling {p : Nat} (hs : x.state = .levelling) : x.answer p = { x with miss := 0 } := by
  unfold Record.answer
  rw [hs]

theorem Record.answer_inService {p : Nat} (hs : x.state = .inService) :
    x.answer p = { x with miss := 0, grace := x.grace - 1 } := by
  unfold Record.answer
  rw [hs]

theorem Record.answer_suspect {p : Nat} (hs : x.state = .suspect) :
    x.answer p = { x with state := .inService, miss := 0, suspectLeft := 0, checkCd := p } := by
  unfold Record.answer
  rw [hs]

theorem State.answerCheck_of_not_judged (hj : (s.record f h).state.judged = false) : s.answerCheck f h = s := by
  refine State.modRecord_of_eq ?_
  unfold Record.answer
  cases e : (s.record f h).state <;> simp_all [RecState.judged]

/-! ## The level (R122 to R129) -/

theorem wellOutside_iff {low high : Nat} : wellOutside low high c = true ↔ high + 2 < c ∨ c + 2 < low := by
  unfold wellOutside
  rw [Bool.or_eq_true, decide_eq_true_iff, decide_eq_true_iff]
  rfl

/-- The level watch of an IN_SERVICE record that does not walk (R128). -/
theorem State.watchLevel_spec (s : State) (f : FeederId) (h c : Nat) :
    let r := s.record f h
    let outside := (s.fd f).settings.levelHigh + 2 < c ∨ c + 2 < (s.fd f).settings.levelLow
    (¬ outside → s.watchLevel f h c = s.withRecord f h { r with levelRun := 0 }) ∧
      (outside → r.levelRun < 3 → s.watchLevel f h c = s.withRecord f h { r with levelRun := r.levelRun + 1 }) ∧
      (outside → 3 ≤ r.levelRun →
        s.watchLevel f h c = (s.withRecord f h { r with walking := true, levelRun := 0 }).walk f h c) := by
  intro r outside
  unfold State.watchLevel
  simp only [State.modRecord_eq_withRecord]
  refine ⟨fun ho => if_neg (mt wellOutside_iff.mp ho), fun ho hlt => ?_, fun ho hge => ?_⟩
  · rw [if_pos (wellOutside_iff.mpr ho)]
    exact if_neg (Nat.not_le.mpr (Nat.succ_lt_succ hlt))
  · rw [if_pos (wellOutside_iff.mpr ho)]
    exact if_pos (Nat.succ_le_succ hge)

/-- The level of a burst noted, by the state that the timing left (R122). -/
theorem State.takeLevel_spec (s : State) (f : FeederId) (h c : Nat) (before : RecState) :
    let r := s.record f h
    let noted := s.withRecord f h { r with lastLevel := some c }
    (r.state = .levelling → s.takeLevel f h before c =
        if (s.fd f).queuedOrOwed h .admission = true then noted else noted.walk f h c) ∧
      (before ≠ .suspect → r.state = .inService → s.takeLevel f h before c =
        if r.walking = true then noted.walk f h c else noted.watchLevel f h c) ∧
      (r.state = .suspect ∨ r.state = .probing → s.takeLevel f h before c = noted) ∧
      (r.state = .ejected → s.takeLevel f h before c = s) := by
  intro r noted
  have hnoted : s.modRecord f h (fun r => { r with lastLevel := some c }) = noted :=
    State.modRecord_eq_withRecord s f h _
  unfold State.takeLevel
  simp only [hnoted]
  refine ⟨fun hs => ?_, fun hb hs => ?_, fun hs => ?_, fun hs => ?_⟩
  · rw [show (s.record f h).state = .levelling from hs]
  · rw [show (s.record f h).state = .inService from hs]
    exact if_neg hb
  · rcases hs with hs | hs
    · rw [show (s.record f h).state = .suspect from hs]
    · rw [show (s.record f h).state = .probing from hs]
  · rw [show (s.record f h).state = .ejected from hs]

/-- The feeder at the end of a walk, with a record that stands as `x` (R124, R126, R129). -/
def Feeder.walkEnded (fd : Feeder) (h : Nat) (x : Record) : Feeder :=
  let y := { x with owed := x.owed.filter fun msg => decide (msg.kind ≠ MsgKind.step) }
  let unsent := { fd with
    ordinary := fd.ordinary.filter fun q => !(decide (q.handle = h) && decide (q.msg.kind = MsgKind.step)) }
  if x.state = .levelling then (unsent.setRecord h y).offerOrdinary h .admission
  else unsent.setRecord h { y with walking := false, levelRun := 0 }

theorem Feeder.setRecord_withOrdinary (fd : Feeder) (l : List QMsg) (h : Nat) (x : Record) :
    Feeder.setRecord { fd with ordinary := l } h x = { (fd.setRecord h x) with ordinary := l } := by
  unfold Feeder.setRecord
  split <;> rfl

theorem Feeder.endWalk_setRecord (h1 : 1 ≤ h) (h2 : h ≤ 255) (fd : Feeder) (x : Record) :
    (fd.setRecord h x).endWalk h = fd.walkEnded h x := by
  unfold Feeder.endWalk Feeder.walkEnded
  simp only [Feeder.removeUnsent_step, Feeder.record_setRecord_self _ h _ h1 h2, Feeder.setRecord_setRecord,
    Feeder.setRecord_ordinary, ← Feeder.setRecord_withOrdinary, Feeder.modRecord_eq]

theorem State.endWalk_withRecord (h1 : 1 ≤ h) (h2 : h ≤ 255) (s : State) (f : FeederId) (x : Record) :
    (s.withRecord f h x).modFd f (·.endWalk h) = s.setFd f ((s.fd f).walkEnded h x) := by
  rw [State.modFd, State.fd_withRecord, State.withRecord, State.setFd_setFd, Feeder.endWalk_setRecord h1 h2]

/-- What each outcome of the walk step's table does (R124). -/
def State.walkBy (s : State) (f : FeederId) (h : Nat) : WalkStep → State
  | .endInside => s.modFd f (·.endWalk h)
  | .endAtEdge => (s.levelEdge f h).modFd f (·.endWalk h)
  | .stepUp => s.modFd f (·.offerOrdinary h (.step true))
  | .stepDown => s.modFd f (·.offerOrdinary h (.step false))
  | .wait => s

theorem State.walk_eq (s : State) (f : FeederId) (h c : Nat) : s.walk f h c = s.walkBy f h (walkStep
    (s.fd f).settings.levelLow (s.fd f).settings.levelHigh c (s.record f h).levelSetting (s.record f h).pace) := rfl

/-- A walk that ends at its edge: LEVEL_EDGE set, and its notice when it was clear (R124). -/
theorem State.walkBy_endAtEdge (h1 : 1 ≤ h) (h2 : h ≤ 255) (s : State) (f : FeederId) :
    let r := s.record f h
    let atEdge := s.setFd f ((s.fd f).walkEnded h { r with levelEdge := true })
    s.walkBy f h .endAtEdge = if r.levelEdge = true then atEdge
      else atEdge.raise .levelEdge
        { feeder := some f, handle := some h, serial := r.serial, level := r.lastLevel
          dwelling := s.dwellingOf r.planLink } := by
  intro r atEdge
  have hend : (s.withRecord f h { r with levelEdge := true }).modFd f (·.endWalk h) = atEdge :=
    State.endWalk_withRecord h1 h2 s f _
  have hedge : s.levelEdge f h = if r.levelEdge = true then s.withRecord f h { r with levelEdge := true }
      else (s.withRecord f h { r with levelEdge := true }).raise .levelEdge
        { feeder := some f, handle := some h, serial := r.serial, level := r.lastLevel
          dwelling := s.dwellingOf r.planLink } := by
    unfold State.levelEdge
    simp only [State.modRecord_eq_withRecord] <;> rfl
  show (s.levelEdge f h).modFd f (·.endWalk h) = _
  rw [hedge]
  cases r.levelEdge with
  | true => exact hend
  | false => exact (State.modFd_raise _ f _ _ _).trans (congrArg (State.raise · _ _) hend)

/-- The walk step by its table (R124). -/
theorem State.walk_spec (h1 : 1 ≤ h) (h2 : h ≤ 255) (s : State) (f : FeederId) (c : Nat) :
    let r := s.record f h
    let above := (s.fd f).settings.levelHigh < c
    let below := c ≤ (s.fd f).settings.levelHigh ∧ c < (s.fd f).settings.levelLow
    let edge := (above ∧ 7 ≤ r.levelSetting) ∨ (below ∧ r.levelSetting = 0)
    let possible := (above ∧ r.levelSetting < 7) ∨ (below ∧ 0 < r.levelSetting)
    (possible → 0 < r.pace → s.walk f h c = s) ∧
      (above → possible → r.pace = 0 → s.walk f h c = s.setFd f ((s.fd f).offerOrdinary h (.step true))) ∧
      (below → possible → r.pace = 0 → s.walk f h c = s.setFd f ((s.fd f).offerOrdinary h (.step false))) ∧
      (¬ above → ¬ below → s.walk f h c = s.setFd f ((s.fd f).walkEnded h r)) ∧
      (edge → s.walk f h c =
        let atEdge := s.setFd f ((s.fd f).walkEnded h { r with levelEdge := true })
        if r.levelEdge = true then atEdge
        else atEdge.raise .levelEdge
          { feeder := some f, handle := some h, serial := r.serial, level := r.lastLevel
            dwelling := s.dwellingOf r.planLink }) := by
  intro r above below edge possible
  have hend : s.modFd f (·.endWalk h) = s.setFd f ((s.fd f).walkEnded h r) := by
    rw [← State.endWalk_withRecord h1 h2, State.withRecord_record]
  have hwalk {o : WalkStep} (ho : walkStep (s.fd f).settings.levelLow (s.fd f).settings.levelHigh c r.levelSetting
      r.pace = o) : s.walk f h c = s.walkBy f h o := by
    rw [State.walk_eq, ← ho]
  unfold walkStep at hwalk
  refine ⟨fun hp h0 => hwalk (o := .wait) ?_, fun ha hp h0 => hwalk (o := .stepUp) ?_,
    fun hb hp h0 => hwalk (o := .stepDown) ?_, fun ha hb => (hwalk (o := .endInside) ?_).trans hend,
    fun he => (hwalk (o := .endAtEdge) ?_).trans (State.walkBy_endAtEdge h1 h2 s f)⟩
  · split_ifs <;> grind
  · split_ifs <;> grind
  · split_ifs <;> grind
  · split_ifs <;> grind
  · split_ifs <;> grind

/-! ## The condition word (R171 to R174) -/

/-- A record written, with MAINS_FAILING raised when bit 0 has risen (R171). -/
def State.mainsHeard (s : State) (f : FeederId) (h : Nat) (w : Byte) (x : Record) : State :=
  if w.getLsbD 0 = true ∧ (s.record f h).mainsFailing = false then
    (s.withRecord f h x).raise .mainsFailing
      { feeder := some f, handle := some h, serial := (s.record f h).serial
        dwelling := s.dwellingOf (s.record f h).planLink }
  else s.withRecord f h x

theorem State.takeMains_eq (s : State) (f : FeederId) (h : Nat) (w : Byte) :
    s.takeMains f h w = s.mainsHeard f h w { s.record f h with mainsFailing := w.getLsbD 0 } := by
  unfold State.takeMains State.mainsHeard
  simp only [State.modRecord_eq_withRecord, Bool.and_eq_true, Bool.not_eq_true']

theorem State.modRecord_mainsHeard (h1 : 1 ≤ h) (h2 : h ≤ 255) (g : Record → Record) :
    (s.mainsHeard f h w x).modRecord f h g = s.mainsHeard f h w (g x) := by
  unfold State.mainsHeard
  split
  · exact (State.modFd_raise _ f _ _ _).trans (congrArg (State.raise · _ _) (State.modRecord_withRecord h1 h2 g))
  · exact State.modRecord_withRecord h1 h2 g

theorem State.fd_mainsHeard : (s.mainsHeard f h w x).fd f = (s.fd f).setRecord h x := by
  unfold State.mainsHeard
  split
  · rw [State.fd_raise, State.fd_withRecord]
  · exact State.fd_withRecord s f h x

theorem State.dwellingOf_mainsHeard (l : Option Nat) : (s.mainsHeard f h w x).dwellingOf l = s.dwellingOf l := by
  unfold State.mainsHeard
  split
  · rw [State.dwellingOf_raise]; exact State.dwellingOf_setFd s f _ l
  · exact State.dwellingOf_setFd s f _ l

/-- A condition word taken: MAINS_FAILING, the debounce, and the watch at a confirmation (R171, R172, R174). -/
theorem State.takeCondition_spec (h1 : 1 ≤ h) (h2 : h ≤ 255) (s : State) (f : FeederId) (w : Byte) :
    let r := { s.record f h with mainsFailing := w.getLsbD 0 }
    s.takeCondition f h w = if w = r.confirmed then s.mainsHeard f h w { r with candidate := none }
      else if r.candidate = some w then
        if (s.fd f).watch.raises r.confirmed w = true then
          (s.mainsHeard f h w { r with confirmed := w, candidate := none }).raise .condition
            { feeder := some f, handle := some h, serial := r.serial
              dwelling := s.dwellingOf r.planLink, words := some (r.confirmed, w) }
        else s.mainsHeard f h w { r with confirmed := w, candidate := none }
      else s.mainsHeard f h w { r with candidate := some w } := by
  intro r
  obtain ⟨u, hu⟩ : ∃ u, u = s.mainsHeard f h w r := ⟨_, rfl⟩
  have hr : u.record f h = r := by
    rw [hu, State.record, State.fd_mainsHeard, Feeder.record_setRecord_self _ h _ h1 h2]
  have hwatch : (u.fd f).watch = (s.fd f).watch := by
    rw [hu, State.fd_mainsHeard, Feeder.setRecord_watch]
  have hmod (g : Record → Record) : u.modRecord f h g = s.mainsHeard f h w (g r) := by
    rw [hu, State.modRecord_mainsHeard h1 h2]
  have hdwelling (l : Option Nat) : u.dwellingOf l = s.dwellingOf l := by rw [hu, State.dwellingOf_mainsHeard]
  have htake : s.takeCondition f h w = u.debounce f h w := by
    unfold State.takeCondition; rw [State.takeMains_eq, hu]
  rw [htake]
  unfold State.debounce
  simp only [hr, hwatch, hmod, hdwelling]

/-- The watch raises CONDITION for no word: its event mask holds no bit (R173). -/
theorem Watch.raises_of_reset (a b : Byte) : Watch.raises ⟨.event, 0x00#8, 0x00#8⟩ a b = false := by
  simp [Watch.raises]

/-- The record behind a word taken: MAINS_FAILING and the debounce (R171, R172). -/
def Record.takesWord (r : Record) (w : Byte) : Record :=
  { r with
    mainsFailing := w.getLsbD 0
    candidate := if w = r.confirmed ∨ r.candidate = some w then none else some w
    confirmed := if w ≠ r.confirmed ∧ r.candidate = some w then w else r.confirmed }

/-- A word that raises no notice only moves the debounce (R172). -/
theorem State.takeCondition_quiet (h1 : 1 ≤ h) (h2 : h ≤ 255) (s : State) (f : FeederId) (w : Byte)
    (hm : w.getLsbD 0 = true → (s.record f h).mainsFailing = true)
    (hc : w = (s.record f h).confirmed ∨ (s.record f h).candidate ≠ some w ∨ (s.fd f).watch = ⟨.event, 0x00#8, 0x00#8⟩) :
    s.takeCondition f h w = s.withRecord f h ((s.record f h).takesWord w) := by
  obtain ⟨r, hr⟩ : ∃ r, r = s.record f h := ⟨_, rfl⟩
  have hheard (x : Record) : s.mainsHeard f h w x = s.withRecord f h x :=
    if_neg fun ⟨h1, h2⟩ => Bool.false_ne_true (h2.symm.trans (hm h1))
  rw [State.takeCondition_spec h1 h2]
  rw [← hr] at hc ⊢
  simp only [hheard]
  unfold Record.takesWord
  by_cases h1 : w = r.confirmed
  · rw [if_pos h1, if_neg (not_and_of_not_left _ (not_not_intro h1)), if_pos (.inl h1)]
  · by_cases h2 : r.candidate = some w
    · have hw : (s.fd f).watch = ⟨.event, 0x00#8, 0x00#8⟩ := (hc.resolve_left h1).resolve_left (not_not_intro h2)
      rw [if_neg h1, if_pos h2, hw, Watch.raises_of_reset, if_neg Bool.false_ne_true, if_pos ⟨h1, h2⟩, if_pos (.inr h2)]
    · rw [if_neg h1, if_neg h2, if_neg (fun h => h2 h.2), if_neg (not_or_intro h1 h2)]

/-! ## The judgement of a CHECK burst -/

theorem exec_checkBurst {g : Grant} {handle : Byte} (hp : s.phase = .running)
    (ho : (s.fd f).state = .opened ∨ (s.fd f).state = .paused) (hm : (s.fd f).mapOf n = some m)
    (hg : m.grant .check handle.toNat = some g) (ha : g.answered = false) (m8 level : Nat) :
    let u := s.mapped f n fun y => { y with
      burstSeen := true
      grants := y.grants.map fun k => if k.kind = .check ∧ k.handle = handle.toNat then { k with answered := true } else k }
    exec (.cleanBurst f n m8 level (.check handle w)) s = .next
      (if (s.record f handle.toNat).settle = some n then u.answerCheck f handle.toNat
        else u.judgeCheck f handle.toNat (deviation m8 g.offset) level w) := by
  intro u
  have hcycle : m.cycle = n := Feeder.mapOf_cycle hm
  have hmark : (s.heard f n).markAnswered f n .check handle.toNat = u := s.markAnswered_heard f n .check handle.toNat
  refine (exec_cleanBurst hp ho hm m8 level _).trans (congrArg _ ?_)
  show (s.heard f n).checkBurst f m m8 level handle.toNat w = _
  unfold State.checkBurst
  rw [hg]
  dsimp only
  rw [if_neg (by rw [ha]; exact Bool.false_ne_true), hcycle, hmark, State.record_heard, Record.settles]
  simp only [decide_eq_true_iff]

theorem RecState.conditionTaken_iff (a : RecState) : a.conditionTaken = true ↔
    a = .levelling ∨ a = .inService ∨ a = .suspect ∨ a = .probing := by
  cases a <;> simp [RecState.conditionTaken]

/-- The check of a CONFIRMING record within the tolerance goes on to its level and its condition word (R109). -/
theorem State.judgeCheck_within (h1 : 1 ≤ h) (h2 : h ≤ 255) {level : Nat} (hs : (s.record f h).state = .confirming)
    (hd : d8.natAbs ≤ 16) : s.judgeCheck f h d8 level w =
      ((s.judgeConfirm f h d8).takeLevel f h .confirming level).takeCondition f h w := by
  have hl : ((s.judgeConfirm f h d8).record f h).state = .levelling := by
    rw [State.judgeConfirm_within hd, State.record_withRecord h1 h2]
  unfold State.judgeCheck
  simp only [hs, hl, if_true]
  unfold State.takeCheck
  exact if_pos (by rw [hl]; rfl)

/-- The check of a CONFIRMING record outside the tolerance ends with its entry into PROBING (R109). -/
theorem State.judgeCheck_off (h1 : 1 ≤ h) (h2 : h ≤ 255) {level : Nat} (hs : (s.record f h).state = .confirming)
    (hd : 16 < d8.natAbs) : s.judgeCheck f h d8 level w = s.judgeConfirm f h d8 := by
  have hl : ((s.judgeConfirm f h d8).record f h).state ≠ .levelling := by
    obtain ⟨u, hu, hus⟩ : ∃ u : State, s.judgeConfirm f h d8 = u.enterProbing f h ∧ (u.record f h).state = .confirming := by
      refine ⟨_, State.judgeConfirm_off hd, ?_⟩
      split
      · rw [State.record, State.fd_setFd]; exact hs
      · exact hs
    rw [hu]
    rcases State.enterProbing_state u f h h1 h2 (by rw [hus]; rfl) with e | e <;> rw [e] <;> exact nofun
  unfold State.judgeCheck
  simp only [hs, if_true]
  exact if_neg hl

/-- A judged check: its timing, then, unless that has ejected the record, its level, its condition word and its answer
(R115, R122, R140, R171). -/
theorem State.judgeCheck_judged (h1 : 1 ≤ h) (h2 : h ≤ 255) {level : Nat} (hj : (s.record f h).state.judged = true)
    {timed : State} (ht : (512 < d8.natAbs ∧ timed = s.misplace f h) ∨ (d8.natAbs ≤ 512 ∧
      timed = (s.withRecord f h { s.record f h with misplacedRun := 0 }).watchDrift f h d8)) :
    ((timed.record f h).state = .ejected → s.judgeCheck f h d8 level w = timed) ∧
      ((timed.record f h).state ≠ .ejected → s.judgeCheck f h d8 level w =
        ((timed.takeLevel f h (s.record f h).state level).takeCondition f h w).answerCheck f h) := by
  have htimed : (s.judgeTiming f h d8).1 = timed := by
    unfold State.judgeTiming
    rcases ht with ⟨hlt, rfl⟩ | ⟨hle, rfl⟩
    · exact congrArg Prod.fst (if_pos hlt)
    · rw [← State.modRecord_eq_withRecord s f h fun r => { r with misplacedRun := 0 }]
      exact congrArg Prod.fst (if_neg (Nat.not_lt.mpr hle))
  have hstate : (timed.record f h).state = (s.record f h).state ∨ (timed.record f h).state = .probing ∨
      (timed.record f h).state = .ejected := by
    rcases ht with ⟨-, rfl⟩ | ⟨-, rfl⟩
    · exact State.misplace_state s f h h1 h2 _ rfl hj
    · rw [State.watchDrift_state _ f h h1 h2, State.record_withRecord h1 h2]
      exact .inl rfl
  have hcheck : s.judgeCheck f h d8 level w =
      (timed.takeCheck f h (s.record f h).state level w).answerCheck f h := by
    unfold State.judgeCheck
    dsimp only
    rw [if_neg (fun e => by rw [e] at hj; cases hj), if_pos hj, htimed]
  rw [hcheck]
  unfold State.takeCheck
  refine ⟨fun he => ?_, fun he => ?_⟩
  · dsimp only
    rw [if_neg (by rw [he]; exact Bool.false_ne_true), (State.takeLevel_spec timed f h level _).2.2.2 he]
    exact State.answerCheck_of_not_judged (by rw [he]; rfl)
  · refine congrArg (State.answerCheck · f h) (if_pos ((RecState.conditionTaken_iff _).mpr ?_))
    rcases hstate with e | e | e
    · rw [e]
      rcases (RecState.judged_iff _).mp hj with e | e | e <;> simp [e]
    · exact .inr (.inr (.inr e))
    · exact absurd e he

theorem State.judgeCheck_other {level : Nat} (hc : (s.record f h).state ≠ .confirming)
    (hj : (s.record f h).state.judged = false) : s.judgeCheck f h d8 level w = s := by
  unfold State.judgeCheck
  dsimp only
  rw [if_neg hc, if_neg (by rw [hj]; exact Bool.false_ne_true)]

/-! ## Plain cases of a judged check -/

/-- A judged check that is on time and completes no drift run. -/
theorem State.judgeCheck_steady (h1 : 1 ≤ h) (h2 : h ≤ 255) {level : Nat} (hj : (s.record f h).state.judged = true)
    (hd : d8.natAbs ≤ 512) {run : Int} (hrun : driftRunAfter (s.fd f).settings.driftTrip (s.record f h).driftRun d8 = run)
    (hlt : run.natAbs < (s.fd f).settings.driftRun) : s.judgeCheck f h d8 level w =
      (((s.withRecord f h { s.record f h with misplacedRun := 0, driftRun := run }).takeLevel f h (s.record f h).state
        level).takeCondition f h w).answerCheck f h := by
  have htimed : (s.withRecord f h { s.record f h with misplacedRun := 0 }).watchDrift f h d8 =
      s.withRecord f h { s.record f h with misplacedRun := 0, driftRun := run } := by
    rw [← hrun] at hlt ⊢
    exact State.watchDrift_below h1 h2 hlt
  rw [(State.judgeCheck_judged h1 h2 hj (.inr ⟨hd, rfl⟩)).2, htimed]
  rw [htimed, State.record_withRecord h1 h2]
  exact fun e => by rw [show (s.record f h).state = .ejected from e] at hj; cases hj

/-- The condition word, taken without a notice, and the answer behind it. -/
theorem State.answer_withRecord (h1 : 1 ≤ h) (h2 : h ≤ 255) (hm : w.getLsbD 0 = true → x.mainsFailing = true)
    (hc : w = x.confirmed ∨ x.candidate ≠ some w ∨ (s.fd f).watch = ⟨.event, 0x00#8, 0x00#8⟩) :
    ((s.withRecord f h x).takeCondition f h w).answerCheck f h =
      s.withRecord f h ((x.takesWord w).answer (s.profileOf x).presence) := by
  have hrec := State.record_withRecord (s := s) (f := f) (x := x) h1 h2
  rw [State.takeCondition_quiet h1 h2, hrec, State.withRecord_withRecord, State.answerCheck_withRecord h1 h2]
  · rfl
  · rw [hrec]; exact hm
  · rw [hrec, State.fd_withRecord, Feeder.setRecord_watch]; exact hc

/-- The level of an IN_SERVICE record that does not walk, within its window (R128). -/
theorem State.takeLevel_inside (h1 : 1 ≤ h) (h2 : h ≤ 255) {before : RecState} (hb : before ≠ .suspect)
    (hs : x.state = .inService) (hw : x.walking = false)
    (hhigh : c ≤ (s.fd f).settings.levelHigh + 2) (hlow : (s.fd f).settings.levelLow ≤ c + 2) :
    (s.withRecord f h x).takeLevel f h before c = s.withRecord f h { x with lastLevel := some c, levelRun := 0 } := by
  have hrec (y : Record) := State.record_withRecord (s := s) (f := f) (x := y) h1 h2
  have hset (y : Record) : ((s.withRecord f h y).fd f).settings = (s.fd f).settings := by
    rw [State.fd_withRecord, Feeder.setRecord_settings]
  rw [(State.takeLevel_spec _ f h c before).2.1 hb (by rw [hrec]; exact hs), hrec, hw, if_neg Bool.false_ne_true,
    State.withRecord_withRecord, (State.watchLevel_spec _ f h c).1 (by rw [hset]; omega), hrec, State.withRecord_withRecord]

/-! ## Marked grants -/

theorem Feeder.setRecord_withMaps (fd : Feeder) (l : List HeldMap) (h : Nat) (x : Record) :
    Feeder.setRecord { fd with heldMaps := l } h x = { (fd.setRecord h x) with heldMaps := l } := by
  unfold Feeder.setRecord
  split <;> rfl

theorem State.withRecord_mapped (s : State) (f : FeederId) (n : CycleNumber) (e : HeldMap → HeldMap) (h : Nat)
    (x : Record) : (s.mapped f n e).withRecord f h x = s.setFd f { ((s.fd f).setRecord h x) with
      heldMaps := (s.fd f).heldMaps.map fun y => if y.cycle = n then e y else y } := by
  rw [State.withRecord, State.fd_mapped, State.mapped, State.setFd_setFd, Feeder.setRecord_withMaps]

/-- Settles O43: the burst of a grant by the state of its record, and then each block on its own. -/
theorem checkBurstIsJudged : Obligations.CheckBurstIsJudged := by
  refine ⟨fun s f n m8 level handle w m g hp ho hm hg ha h0 => ?_, fun s f h h1 h2 => ?_⟩
  · intro fd h r x d8 run answeredMaps answered after leaves word quiet
    have h1 : 1 ≤ h := Nat.one_le_iff_ne_zero.mpr h0
    have h2 : h ≤ 255 := Nat.le_of_lt_succ handle.isLt
    have hafter : after = .next (if r.settle = some n then answered.answerCheck f h
        else answered.judgeCheck f h d8 level w) := exec_checkBurst hp ho hm hg ha m8 level
    have hrec : answered.record f h = r := State.record_mapped s f n _ h
    have hset : (answered.fd f).settings = x ∧ (answered.fd f).watch = fd.watch ∧ (answered.fd f).hunt = fd.hunt := by
      rw [show answered.fd f = { fd with heldMaps := answeredMaps } from State.fd_setFd s f _]
      exact ⟨rfl, rfl, rfl⟩
    have hleaves {r' : Record} (e : after = .next (answered.withRecord f h r')) : leaves r' :=
      e.trans (congrArg _ (State.withRecord_mapped s f n _ h r'))
    have hprofile (y : Record) : answered.profileOf y = s.profileOf y := State.profileOf_setFd s f _ y
    have hjudge (hns : r.settle ≠ some n) : after = .next (answered.judgeCheck f h d8 level w) := by
      rw [hafter, if_neg hns]
    have hsteady (hns : r.settle ≠ some n) (hj : r.state.judged = true) (hd : d8.natAbs ≤ 512)
        (hlt : run.natAbs < x.driftRun) : after = .next
          ((((answered.withRecord f h { r with misplacedRun := 0, driftRun := run }).takeLevel f h r.state
            level).takeCondition f h w).answerCheck f h) := by
      rw [hjudge hns, State.judgeCheck_steady h1 h2 (by rw [hrec]; exact hj) hd (by rw [hrec, hset.1])
        (by rw [hset.1]; exact hlt), hrec]
    refine ⟨fun hs hi => hleaves ?_, fun hns hi hd hlt hw hhigh hlow hq => hleaves ?_,
      fun hns hu hd hlt hq => hleaves ?_, fun hns hc hlt hd ha => ?_, fun hs => ?_, fun hns hc hd => ?_,
      fun hns hc hd => ?_, fun hns hj timed ht => ?_, fun ho hns => hleaves ?_⟩
    · rw [hafter, if_pos hs, State.answerCheck_eq, hrec, Record.answer_inService hi]
    · refine (hsteady hns (by rw [hi]; rfl) hd hlt).trans (congrArg _ ?_)
      rw [State.takeLevel_inside h1 h2 (x := { r with misplacedRun := 0, driftRun := run })
        (fun e => by rw [hi] at e; cases e) hi hw (by rw [hset.1]; exact hhigh) (by rw [hset.1]; exact hlow)]
      refine (State.answer_withRecord
        (x := { r with misplacedRun := 0, driftRun := run, lastLevel := some level, levelRun := 0 }) h1 h2 hq.1
        (by rw [hset.2.1]; exact hq.2)).trans ?_
      exact congrArg (answered.withRecord f h) (Record.answer_inService hi)
    · refine (hsteady hns (by rw [hu]; rfl) hd hlt).trans (congrArg _ ?_)
      rw [(State.takeLevel_spec _ f h level _).2.2.1 (.inl (by rw [State.record_withRecord h1 h2]; exact hu)),
        State.record_withRecord h1 h2, State.withRecord_withRecord]
      refine (State.answer_withRecord (x := { r with misplacedRun := 0, driftRun := run, lastLevel := some level })
        h1 h2 hq.1 (by rw [hset.2.1]; exact hq.2)).trans ?_
      rw [hprofile]
      exact congrArg (answered.withRecord f h) (Record.answer_suspect hu)
    · have hentry := (State.judgeConfirm_spec h1 h2 (hrec ▸ hc)).2.1 hlt hd (.inl (hrec ▸ ha))
      rw [hjudge hns, State.judgeCheck_off h1 h2 (hrec ▸ hc) hlt, hentry.1 (by rw [← State.record, hrec]; exact ha),
        show (answered.fd f).record h = r from hrec, if_neg (fun e => by rw [hc] at e; cases e),
        show answered.fd f = { fd with heldMaps := answeredMaps } from State.fd_setFd s f _, Feeder.setRecord_withMaps]
      exact congrArg _ (State.setFd_setFd s f _ _)
    · rw [hafter, if_pos hs]
    · rw [hjudge hns, State.judgeCheck_within h1 h2 (by rw [hrec]; exact hc) hd]
    · rw [hjudge hns, State.judgeCheck_off h1 h2 (by rw [hrec]; exact hc) hd]
    · have hcheck := State.judgeCheck_judged (s := answered) (f := f) (w := w) (d8 := d8) (level := level) (timed := timed)
        h1 h2 (by rw [hrec]; exact (RecState.judged_iff _).mpr hj) (by rw [hrec]; exact ht)
      rw [hjudge hns]
      rw [hrec] at hcheck
      exact ⟨fun he => congrArg _ (hcheck.1 he), fun he => congrArg _ (hcheck.2 he)⟩
    · rw [hjudge hns, State.judgeCheck_other, ← hrec, State.withRecord_record]
      · rw [hrec]; rcases ho with e | e | e | e | e | e <;> rw [e] <;> exact nofun
      · rw [hrec]; rcases ho with e | e | e | e | e | e <;> rw [e] <;> rfl
  · intro fd r x sets dwelling misplacedCount
    refine ⟨fun d8 hs => ?_, fun hj => ?_, ⟨fun hs => ?_, fun hs => ?_, fun hs => ?_, fun h3 h4 h5 => ?_⟩,
      fun c => ⟨fun before hs => ?_, fun before hb hs => ?_, fun before hs => ?_, ?_, ?_⟩, fun w => ?_⟩
    · obtain ⟨hin, hoff, hmis⟩ := State.judgeConfirm_spec (d8 := d8) h1 h2 hs
      exact ⟨hin, fun hlt hle ht => hoff hlt hle (.inr ht), hmis⟩
    · exact State.misplace_spec h1 h2 ((RecState.judged_iff _).mpr hj)
    · exact (State.answerCheck_eq s f h).trans (congrArg (s.withRecord f h) (Record.answer_levelling hs))
    · exact (State.answerCheck_eq s f h).trans (congrArg (s.withRecord f h) (Record.answer_inService hs))
    · exact (State.answerCheck_eq s f h).trans (congrArg (s.withRecord f h) (Record.answer_suspect hs))
    · exact State.answerCheck_of_not_judged (Bool.eq_false_iff.mpr fun hj =>
        ((RecState.judged_iff _).mp hj).elim h3 (·.elim h4 h5))
    · have hlevel := (State.takeLevel_spec s f h c before).1 hs
      have hadmits := Feeder.admits_iff fd h
      exact ⟨fun ha => hlevel.trans (if_pos (hadmits.mpr ha)), fun ha => hlevel.trans (if_neg (mt hadmits.mp ha))⟩
    · have hlevel := (State.takeLevel_spec s f h c before).2.1 hb hs
      exact ⟨fun hw => hlevel.trans (if_pos hw),
        fun hw => hlevel.trans (if_neg fun e => Bool.false_ne_true (hw.symm.trans e))⟩
    · exact (State.takeLevel_spec s f h c before).2.2.1 hs
    · exact State.watchLevel_spec s f h c
    · obtain ⟨hwait, hup, hdown, hinside, hedge⟩ := State.walk_spec h1 h2 s f c
      intro above below edge possible ended atEdge
      exact ⟨hwait, hup, hdown, hinside, fun he hf => (hedge he).trans (if_pos hf),
        fun he hf => (hedge he).trans (if_neg fun e => Bool.false_ne_true (hf.symm.trans e))⟩
    · intro r heard watch raises
      have htake := State.takeCondition_spec h1 h2 s f w
      have hraises : watch.raises r.confirmed w = true ↔ raises := by
        unfold Watch.raises
        show _ ↔ match watch.mode with
          | .event => (r.confirmed ^^^ w) &&& watch.mask ≠ 0#8
          | .matching => w &&& watch.mask = watch.compare &&& watch.mask ∧
            r.confirmed &&& watch.mask ≠ watch.compare &&& watch.mask
        cases watch.mode <;> simp
      refine ⟨fun h1 => htake.trans (if_pos h1), fun h1 h2 => htake.trans ((if_neg h1).trans (if_neg h2)),
        fun h1 h2 => ⟨fun hr => htake.trans ((if_neg h1).trans ((if_pos h2).trans (if_neg (mt hraises.mp hr)))),
          fun hr => htake.trans ((if_neg h1).trans ((if_pos h2).trans (if_pos (hraises.mpr hr))))⟩⟩

end

end Sys2Proof.Machine

/-! PROOFS. The steps of a call-in, and the naming of a build (O40). -/
namespace Sys2Proof.Machine

open Sys2Proof

section

variable {s u : State} {f : FeederId} {n : CycleNumber} {h : Nat} {serial : Serial} {x : Measurement} {a : Arrival}
  {rest : List Arrival} {link : Option Nat} {p : Fin 8}

/-! ## A call-in handed on (R90 to R94) -/

/-- The record of a feeder's handle is live and holds the serial (R2). -/
def State.heldBy (s : State) (f : FeederId) (serial : Serial) (h : Nat) : Prop :=
  1 ≤ h ∧ h ≤ 255 ∧ (s.record f h).state ≠ .free ∧ (s.record f h).serial = some serial

theorem State.heldBy_of_holderOf (hh : (s.fd f).holderOf serial = some h) : s.heldBy f serial h :=
  Feeder.holderOf_test (s.fd f) hh

theorem State.holderOf_eq_none : (s.fd f).holderOf serial = none ↔ ∀ h, ¬ s.heldBy f serial h := Feeder.holderOf_none (s.fd f)

theorem State.holderOf_isSome : ((s.fd f).holderOf serial).isSome = true ↔ ∃ h, s.heldBy f serial h := by
  rw [Option.isSome_iff_ne_none, Ne, State.holderOf_eq_none]
  push Not
  rfl

theorem State.holderOf_of_unique (hh : s.heldBy f serial h) (hu : ∀ k, s.heldBy f serial k → k = h) :
    (s.fd f).holderOf serial = some h := by
  cases e : (s.fd f).holderOf serial with
  | none => exact absurd hh (State.holderOf_eq_none.mp e h)
  | some k => rw [hu k (State.heldBy_of_holderOf e)]

theorem Record.stillSettling_iff {r : Record} {c : CycleNumber} : r.stillSettling c = true ↔
    ∃ d, r.settle = some d ∧ (c + 1 = d ∨ c + 2 = d) := by
  unfold Record.stillSettling
  cases r.settle with
  | none => simp
  | some d =>
    simp only [Bool.or_eq_true, decide_eq_true_iff, Option.some.injEq, exists_eq_left']
    refine or_congr ?_ ?_ <;> constructor <;> intro h <;> bv_omega

/-- A call-in of a serial that a live record of its feeder holds (R90). -/
theorem State.callInOfHolder_eq (s : State) (f : FeederId) (h : Nat) (n : CycleNumber) : s.callInOfHolder f h n =
    if (s.record f h).state = .ejected ∨ (s.record f h).state = .named ∨
        ((s.record f h).state = .confirming ∧ (s.record f h).stillSettling n = true) then s
    else (s.eject f h .rebooted).raise .rebooted
      { feeder := some f, handle := some h, serial := (s.record f h).serial
        dwelling := s.dwellingOf (s.record f h).planLink } := by
  unfold State.callInOfHolder
  cases e : (s.record f h).state <;> simp [e]

/-- The list with an arrival joined, by the status that the plan's outcome gives it (R94). -/
def State.joinedAs (s : State) (f : FeederId) (serial : Serial) (x : Measurement) (link : Option ArrivalLink)
    (status : ArrivalStatus) : State :=
  s.setFd f { s.fd f with
    arrivals := (s.fd f).arrivals ++ [{ serial := serial, status := status, link := link, measured := x }]
    expired := (s.fd f).expired.filter fun e => decide (e ≠ serial)
    latched := if (s.fd f).arrivals.length = 15 then { (s.fd f).latched with arrivalsFull := true }
      else (s.fd f).latched }

theorem State.joinArrivals_of_room (hl : (s.fd f).arrivals.length < 16) : s.joinArrivals f serial x =
    (s.joinedAs f serial x (s.matchPlan f serial).2
      ((s.matchPlan f serial).1.status (s.fd f).settings.decisionCycles)).noteHeld f serial (s.matchPlan f serial).1
      (s.matchPlan f serial).2 := by
  rw [State.joinArrivals_eq]
  unfold State.joinedAs
  refine congrArg (fun y => State.noteHeld (s.setFd f y) f serial _ _) ?_
  simp only [List.length_append, List.length_singleton, Feeder.latchArrivalsFull]
  by_cases e : (s.fd f).arrivals.length = 15
  · rw [if_pos (by omega), if_pos e]
  · rw [if_neg (by omega), if_neg e]

theorem State.noteHeld_held (u : State) (f : FeederId) (serial : Serial) (r : HeldReason) (link : Option ArrivalLink) :
    u.noteHeld f serial (.held r) link = u.raise .arrivalHeld
      { feeder := some f, serial := some serial, reason := some (.held r)
        dwelling := link.map fun l => (u.planAt l.index).dwelling } := by
  unfold State.noteHeld State.dwellingOf
  rw [Option.map_map]
  rfl

theorem State.admitCallIn_held (hb : ¬ s.isBarred serial = true) (hh : (s.fd f).holderOf serial = some h) :
    s.admitCallIn f serial x = s.callInOfHolder f h x.cycle := by
  unfold State.admitCallIn
  rw [if_neg hb, hh]

/-- A call-in of a serial that no live record of its feeder holds (R90, R91, R94). -/
theorem State.admitCallIn_new (hb : ¬ s.isBarred serial = true) (hh : (s.fd f).holderOf serial = none) :
    s.admitCallIn f serial x =
      if ((s.fd f.other).holderOf serial).isSome = true then
        s.raise .duplicateSerial { feeder := some f, serial := some serial }
      else if (s.fd f).arrivals.any (fun a => decide (a.serial = serial)) = true then
        s.modFd f (·.mergeArrival serial x)
      else if 16 ≤ (s.fd f).arrivals.length then s.modFd f fun fd => (fd.count .arrivalsOverflow 1).latchArrivalsFull
      else s.joinArrivals f serial x := by
  unfold State.admitCallIn
  rw [if_neg hb, hh] <;> rfl

/-! ## One arrival of a naming (R99 to R102) -/

theorem Arrival.isReady_eq_false : a.isReady = false ↔ ∃ reason n, a.status = .held reason n := by
  unfold Arrival.isReady
  cases a.status <;> simp

theorem Feeder.no_free_iff (fd : Feeder) : (fd.firstFrom 1 fun r => decide (r.state = .free)).isNone = true ↔
    ∀ h, 1 ≤ h → h ≤ 255 → (fd.record h).state ≠ .free := by
  rw [Option.isNone_iff_eq_none, Feeder.firstFrom_eq_none fd 1 _ (Nat.le_refl 1)]
  simp only [decide_eq_false_iff_not, Ne]

theorem Feeder.firstFree_eq (fd : Feeder) (hf : (fd.record h).state = .free) (h1 : 1 ≤ h) (h2 : h ≤ 255)
    (hlow : ∀ k, 1 ≤ k → k < h → (fd.record k).state ≠ .free) :
    fd.firstFrom 1 (fun r => decide (r.state = .free)) = some h := by
  cases e : fd.firstFrom 1 fun r => decide (r.state = .free) with
  | none =>
    have := (Feeder.firstFrom_eq_none fd 1 _ (Nat.le_refl 1)).mp e h h1 h2
    exact absurd hf (of_decide_eq_false this)
  | some k =>
    obtain ⟨k1, k2, hk, hmin⟩ := Feeder.firstFrom_eq_some fd 1 _ k (Nat.le_refl 1) e
    rcases Nat.lt_trichotomy k h with hlt | rfl | hgt
    · exact absurd (of_decide_eq_true hk) (hlow k k1 hlt)
    · rfl
    · exact absurd hf (of_decide_eq_false (hmin h h1 hgt))

theorem State.nameAll_held (hr : a.isReady = false) : s.nameAll f (a :: rest) = s.nameAll f rest :=
  if_pos (by rw [hr]; rfl)

theorem State.nameAll_full (hr : a.isReady = true)
    (hn : ((s.fd f).firstFrom 1 fun r => decide (r.state = .free)).isNone = true) :
    s.nameAll f (a :: rest) = s.feederFull f :=
  (if_neg (by rw [hr]; exact Bool.false_ne_true)).trans (if_pos hn)

theorem State.nameAll_no_room (hr : a.isReady = true)
    (hn : ¬ ((s.fd f).firstFrom 1 fun r => decide (r.state = .free)).isNone = true)
    (ho : (s.fd f).ordinaryRoom = false) : s.nameAll f (a :: rest) = s :=
  (if_neg (by rw [hr]; exact Bool.false_ne_true)).trans ((if_neg hn).trans (if_pos (by rw [ho]; rfl)))

theorem State.nameAll_one (hr : a.isReady = true)
    (hn : ¬ ((s.fd f).firstFrom 1 fun r => decide (r.state = .free)).isNone = true)
    (ho : (s.fd f).ordinaryRoom = true) : s.nameAll f (a :: rest) = (s.nameOne f a).nameAll f rest :=
  (if_neg (by rw [hr]; exact Bool.false_ne_true)).trans
    ((if_neg hn).trans (if_neg (by rw [ho]; exact Bool.false_ne_true)))

/-- A live record of either feeder holds the arrival's serial (R100). -/
theorem State.held_either_iff (s : State) (f : FeederId) (serial : Serial) :
    (((s.fd f).holderOf serial).isSome || ((s.fd f.other).holderOf serial).isSome) = true ↔
      ∃ g h, s.heldBy g serial h := by
  rw [Bool.or_eq_true, State.holderOf_isSome, State.holderOf_isSome]
  refine ⟨fun h => h.elim (fun h => ⟨f, h⟩) fun h => ⟨f.other, h⟩, fun ⟨g, hg⟩ => ?_⟩
  by_cases e : g = f
  · exact .inl (e ▸ hg)
  · exact .inr (FeederId.eq_other_of_ne e ▸ hg)

section

variable (hno : ¬ ∃ g h, s.heldBy g a.serial h)

include hno

theorem State.nameOne_command (hs : a.status = .readyCommand p) : s.nameOne f a =
    s.nameAs f a ((a.link.filter fun l => s.linkStands a.serial l).map (·.index)) p := by
  unfold State.nameOne
  rw [if_neg (mt (State.held_either_iff s f a.serial).mp hno), hs]

theorem State.nameOne_plan_ready {q : Fin 8} (hs : a.status = .readyPlan p)
    (ho : (s.matchPlan f a.serial).1 = .ready q) : s.nameOne f a =
      s.nameAs f a ((s.matchPlan f a.serial).2.map (·.index)) q := by
  unfold State.nameOne
  rw [if_neg (mt (State.held_either_iff s f a.serial).mp hno), hs]
  dsimp only
  rw [ho]

theorem State.nameOne_plan_held {r : HeldReason} (hs : a.status = .readyPlan p)
    (ho : (s.matchPlan f a.serial).1 = .held r) : s.nameOne f a =
      (s.modFd f (·.rehold a.serial r (s.matchPlan f a.serial).2)).noteHeld f a.serial (.held r)
        (s.matchPlan f a.serial).2 := by
  unfold State.nameOne
  rw [if_neg (mt (State.held_either_iff s f a.serial).mp hno), hs]
  dsimp only
  rw [ho]

end

/-! ## The naming of one arrival (R9, R75, R101) -/

theorem State.modFd_takeLink (u : State) (g : FeederId) (F : Feeder → Feeder) :
    (u.takeLink link f h).modFd g F = (u.modFd g F).takeLink link f h := by
  unfold State.takeLink
  cases link with
  | none => rfl
  | some i => cases g <;> rfl

theorem PlanEntry.takeLink_dwelling (e : PlanEntry) : (e.takeLink f h).dwelling = e.dwelling := by
  unfold PlanEntry.takeLink
  split <;> rfl

/-- The lowest FREE record filled, the plan's link taken, NAME in the ordinary band, the serial's arrivals gone, and NAMED
raised. -/
theorem State.nameAs_eq (hf : ((s.fd f).record h).state = .free) (h1 : 1 ≤ h) (h2 : h ≤ 255)
    (hlow : ∀ k, 1 ≤ k → k < h → ((s.fd f).record k).state ≠ .free)
    (hq : ∀ q ∈ (s.fd f).ordinary, ¬ (q.handle = h ∧ q.msg.kind = .name)) (hroom : (s.fd f).ordinaryRoom = true) :
    s.nameAs f a link p = State.raise (State.dropArrivals (State.takeLink
        (s.setFd f { ((s.fd f).setRecord h (a.record link p)) with
          ordinary := (s.fd f).ordinary ++ [{ handle := h, msg := .name a.serial a.measured.eqd }] })
        link f h) a.serial) .named
      { feeder := some f, handle := some h, serial := some a.serial, dwelling := s.dwellingOf link } := by
  have hoffer : ((s.fd f).setRecord h (a.record link p)).offerOrdinary h (.name a.serial a.measured.eqd) =
      { ((s.fd f).setRecord h (a.record link p)) with
        ordinary := (s.fd f).ordinary ++ [{ handle := h, msg := .name a.serial a.measured.eqd }] } := by
    rw [Feeder.offerOrdinary_of_room, Feeder.setRecord_ordinary]
    · rw [holdsMsg_iff, Feeder.setRecord_ordinary]
      exact fun ⟨q, hm, hk⟩ => hq q hm hk
    · rw [Feeder.record_setRecord_self _ h _ h1 h2]
      rfl
    · rw [Feeder.ordinaryRoom_iff, Feeder.setRecord_ordinary, Feeder.setRecord_urgent]
      exact (Feeder.ordinaryRoom_iff _).mp hroom
  have hdwelling : ((s.modFd f (·.setRecord h (a.record link p))).takeLink link f h).dwellingOf link =
      s.dwellingOf link := by
    unfold State.dwellingOf
    refine congrArg (fun g => link.map g) (funext fun i => ?_)
    rw [State.planAt_takeLink]
    split
    · rw [PlanEntry.takeLink_dwelling, State.modFd, State.planAt_setFd]
    · rw [State.modFd, State.planAt_setFd]
  unfold State.nameAs
  rw [Feeder.firstFree_eq _ hf h1 h2 hlow]
  dsimp only
  rw [hdwelling, State.modFd_takeLink, State.modFd_modFd, State.modFd, hoffer]

/-- The plan's link taken, in the words of R75. -/
theorem State.takeLink_eq (u : State) (hu : ∀ i, u.planAt i = s.planAt i) : u.takeLink link f h =
    match link with
    | none => u
    | some i => u.setPlan i (match (s.planAt i).kind with
      | .exact => { s.planAt i with claim := some (f, h) }
      | .pattern => { s.planAt i with count := (s.planAt i).count.map fun n => n + 1 }) := by
  unfold State.takeLink PlanEntry.takeLink
  cases link with
  | none => rfl
  | some i =>
    dsimp only
    rw [hu] <;> rfl

theorem State.linkStands_iff {l : ArrivalLink} (hw : (s.planAt l.index).kind = .pattern →
      (s.planAt l.index).mask ≠ none ∧ (s.planAt l.index).count ≠ none ∧ (s.planAt l.index).limit ≠ none) :
    s.linkStands serial l = true ↔ (s.planAt l.index).inUse = true ∧ (s.planAt l.index).kind = l.kind ∧
      ((s.planAt l.index).kind = .exact → (s.planAt l.index).serial = serial ∧ (s.planAt l.index).claim = none) ∧
      ((s.planAt l.index).kind = .pattern →
        ∃ mask n limit, (s.planAt l.index).mask = some mask ∧ serial &&& mask = (s.planAt l.index).serial &&& mask ∧
          (s.planAt l.index).count = some n ∧ (s.planAt l.index).limit = some limit ∧ n < limit) := by
  unfold State.linkStands PlanEntry.masked
  generalize s.planAt l.index = e at hw ⊢
  cases hk : e.kind with
  | exact => simp [hk, and_assoc]
  | pattern =>
    obtain ⟨hm, hc, hl⟩ := hw hk
    obtain ⟨m, hm⟩ := Option.ne_none_iff_exists'.mp hm
    obtain ⟨c, hc⟩ := Option.ne_none_iff_exists'.mp hc
    obtain ⟨b, hl⟩ := Option.ne_none_iff_exists'.mp hl
    simp [hk, hm, hc, hl, and_assoc]

/-! ## Naming and the check waits -/

/-- The check waits of a feeder written (R135). -/
def Feeder.withWaits (fd : Feeder) (w : Vector Nat 255) : Feeder := { fd with checkWait := w }

/-- The same in the whole state. -/
def State.withWaits (s : State) (f : FeederId) (w : Vector Nat 255) : State := s.modFd f (·.withWaits w)

section

variable (w : Vector Nat 255)

theorem State.fd_withWaits (s : State) (f : FeederId) : (s.withWaits f w).fd f = (s.fd f).withWaits w :=
  State.fd_modFd s f _

theorem State.fd_withWaits_other (s : State) (f : FeederId) : (s.withWaits f w).fd f.other = s.fd f.other :=
  State.fd_setFd_other s f _

theorem State.modFd_withWaits (s : State) (f : FeederId) {F : Feeder → Feeder}
    (hF : ∀ fd, F (Feeder.withWaits fd w) = (F fd).withWaits w) :
    (s.withWaits f w).modFd f F = (s.modFd f F).withWaits f w := by
  unfold State.withWaits
  rw [State.modFd_modFd, State.modFd_modFd]
  simp only [hF]

theorem State.raise_withWaits (s : State) (f : FeederId) (k : NoticeKind) (y : NoticeFields) :
    (s.withWaits f w).raise k y = (s.raise k y).withWaits f w := (State.modFd_raise s f k y _).symm

theorem State.planAt_withWaits (s : State) (f : FeederId) (i : Nat) : (s.withWaits f w).planAt i = s.planAt i :=
  State.planAt_setFd s f _ i

theorem State.matchPlan_withWaits (s : State) (f : FeederId) (serial : Serial) :
    (s.withWaits f w).matchPlan f serial = s.matchPlan f serial := by
  cases f <;> rfl

theorem Feeder.setRecord_withWaits (fd : Feeder) (h : Nat) (r : Record) :
    (fd.withWaits w).setRecord h r = (fd.setRecord h r).withWaits w := by
  unfold Feeder.setRecord Feeder.withWaits
  split <;> rfl

theorem Feeder.offerOrdinary_withWaits (fd : Feeder) (h : Nat) (m : Msg) :
    (fd.withWaits w).offerOrdinary h m = (fd.offerOrdinary h m).withWaits w := by
  have hmod (g : Record → Record) : (fd.withWaits w).modRecord h g = (fd.modRecord h g).withWaits w := by
    rw [Feeder.modRecord_eq, Feeder.modRecord_eq, Feeder.setRecord_withWaits]
    rfl
  unfold Feeder.offerOrdinary
  rw [hmod, show (fd.withWaits w).ordinary = fd.ordinary from rfl,
    show (fd.withWaits w).record h = fd.record h from rfl, show (fd.withWaits w).ordinaryRoom = fd.ordinaryRoom from rfl]
  split_ifs <;> rfl

theorem State.takeLink_withWaits (s : State) (f : FeederId) : (s.withWaits f w).takeLink link f h =
    (s.takeLink link f h).withWaits f w := (State.modFd_takeLink s f _).symm

theorem State.dropArrivals_withWaits (s : State) (f : FeederId) (serial : Serial) :
    (s.withWaits f w).dropArrivals serial = (s.dropArrivals serial).withWaits f w := by
  cases f <;> rfl

theorem State.nameAs_withWaits (s : State) (f : FeederId) (a : Arrival) (link : Option Nat) (p : Fin 8) :
    (s.withWaits f w).nameAs f a link p = (s.nameAs f a link p).withWaits f w := by
  have hdwelling (u : State) : (u.withWaits f w).dwellingOf link = u.dwellingOf link := State.dwellingOf_setFd u f _ link
  unfold State.nameAs
  rw [State.fd_withWaits]
  show (match (s.fd f).firstFrom 1 fun r => decide (r.state = .free) with | none => _ | some h => _) = _
  cases (s.fd f).firstFrom 1 fun r => decide (r.state = .free) with
  | none => rfl
  | some h =>
    dsimp only
    rw [State.modFd_withWaits w s f fun fd => Feeder.setRecord_withWaits w fd h _, State.takeLink_withWaits, hdwelling,
      State.modFd_withWaits w _ f fun fd => Feeder.offerOrdinary_withWaits w fd h _, State.dropArrivals_withWaits,
      State.raise_withWaits]

theorem State.nameOne_withWaits (s : State) (f : FeederId) (a : Arrival) :
    (s.withWaits f w).nameOne f a = (s.nameOne f a).withWaits f w := by
  have hstands (l : ArrivalLink) : (s.withWaits f w).linkStands a.serial l = s.linkStands a.serial l := by
    unfold State.linkStands
    rw [State.planAt_withWaits]
  unfold State.nameOne
  simp only [State.fd_withWaits, State.fd_withWaits_other, hstands, State.matchPlan_withWaits, State.nameAs_withWaits,
    show ((s.fd f).withWaits w).holderOf a.serial = (s.fd f).holderOf a.serial from rfl]
  split
  · rw [State.modFd_withWaits w s f fun fd => rfl, State.raise_withWaits]
  · cases a.status with
    | held r n => rfl
    | readyCommand p => rfl
    | readyPlan p =>
      dsimp only
      cases (s.matchPlan f a.serial).1 with
      | ready q => rfl
      | held r =>
        dsimp only
        rw [State.modFd_withWaits w s f fun fd => rfl, State.noteHeld_held, State.noteHeld_held, State.raise_withWaits]
        simp only [State.planAt_withWaits]

/-- Naming neither reads nor writes the check waits (R99). -/
theorem State.nameAll_withWaits (f : FeederId) (l : List Arrival) (s : State) :
    (s.withWaits f w).nameAll f l = (s.nameAll f l).withWaits f w := by
  induction l generalizing s with
  | nil => rfl
  | cons a l ih =>
    unfold State.nameAll State.feederFull
    simp only [State.fd_withWaits, State.nameOne_withWaits, ih,
      State.modFd_withWaits w s f (F := fun fd => { fd with fullArmed := false }) fun fd => rfl, State.raise_withWaits,
      show ((s.fd f).withWaits w).ordinaryRoom = (s.fd f).ordinaryRoom from rfl,
      show ((s.fd f).withWaits w).fullArmed = (s.fd f).fullArmed from rfl,
      show ((s.fd f).withWaits w).firstFrom 1 (fun r => decide (r.state = .free)) =
        (s.fd f).firstFrom 1 fun r => decide (r.state = .free) from rfl]
    split_ifs <;> rfl

theorem State.name_withWaits (s : State) (f : FeederId) : (s.withWaits f w).name f = (s.name f).withWaits f w := by
  unfold State.name
  rw [State.fd_withWaits, State.nameAll_withWaits]
  exact (apply_ite (State.withWaits · f w) _ _ _).symm

end

/-! ## A build that only names -/

/-- A feeder without a record that a check or a DATA grant could be due for. -/
def Feeder.Ungranted (fd : Feeder) : Prop :=
  ∀ k, (fd.record k).state = .named ∨ (fd.record k).state = .huntHeld ∨ (fd.record k).state = .hushed ∨
    (fd.record k).state = .free ∨ (fd.record k).state = .ejected

theorem Feeder.Ungranted.of_states {b c : Feeder} (hu : b.Ungranted)
    (h : ∀ k, (c.record k).state = (b.record k).state ∨ (c.record k).state = .named) : c.Ungranted := by
  intro k
  rcases h k with e | e
  · rw [e]; exact hu k
  · exact .inl e

/-- A naming makes FREE records NAMED and moves no other (R101). -/
theorem State.state_nameAs (s : State) (f : FeederId) (a : Arrival) (link : Option Nat) (p : Fin 8) (k : Nat) :
    (((s.nameAs f a link p).fd f).record k).state = ((s.fd f).record k).state ∨
      (((s.nameAs f a link p).fd f).record k).state = .named := by
  unfold State.nameAs
  cases (s.fd f).firstFrom 1 fun r => decide (r.state = .free) with
  | none => exact .inl rfl
  | some h =>
    have htake (v : State) : (v.takeLink link f h).fd f = v.fd f := by
      unfold State.takeLink
      split <;> rfl
    have hstate := Feeder.Talked.state
      (Feeder.talked_offerOrdinary ((s.fd f).setRecord h (a.record link p)) h (.name a.serial a.measured.eqd)) k
    dsimp only
    rw [State.fd_raise, State.fd_dropArrivals, State.modFd_takeLink, htake, State.modFd_modFd, State.fd_modFd,
      show ∀ y : Feeder, (y.dropArrival a.serial).record k = y.record k from fun y => rfl, hstate, Feeder.record_setRecord]
    split
    · exact .inr rfl
    · exact .inl rfl

theorem State.ungranted_nameOne (hu : (s.fd f).Ungranted) (a : Arrival) : ((s.nameOne f a).fd f).Ungranted := by
  have hname (link : Option Nat) (p : Fin 8) : ((s.nameAs f a link p).fd f).Ungranted :=
    hu.of_states (s.state_nameAs f a link p)
  unfold State.nameOne
  split
  · rw [State.fd_raise, State.fd_modFd]
    exact hu
  · cases a.status with
    | held r n => exact hu
    | readyCommand p => exact hname _ p
    | readyPlan p =>
      dsimp only
      cases (s.matchPlan f a.serial).1 with
      | ready q => exact hname _ q
      | held r =>
        dsimp only
        rw [State.noteHeld_held, State.fd_raise, State.fd_modFd]
        exact hu

theorem State.ungranted_name (hu : (s.fd f).Ungranted) : ((s.name f).fd f).Ungranted := by
  have hall (l : List Arrival) (v : State) (hv : (v.fd f).Ungranted) : ((v.nameAll f l).fd f).Ungranted := by
    induction l generalizing v with
    | nil => exact hv
    | cons a l ih =>
      unfold State.nameAll
      split
      · exact ih v hv
      · split
        · unfold State.feederFull
          split
          · rw [State.fd_raise, State.fd_modFd]
            exact hv
          · exact hv
        · split
          · exact hv
          · exact ih _ (State.ungranted_nameOne hv a)
  unfold State.name
  split
  · exact hall _ s hu
  · exact hu

theorem Feeder.Ungranted.places {guard : Nat} {window : Option Window} (hu : (u.fd f).Ungranted) :
    u.Places f guard [] window [] [] 0 0 where
  checksDue k := by
    rw [Record.checkDue_iff]
    rcases hu k with e | e | e | e | e <;> simp [e]
  checksOrder := .nil
  datasDue k := by
    rw [State.dataDue_iff]
    rcases hu k with e | e | e | e | e <;> simp [e]
  datasOrder := .nil
  checks_le := Nat.le_refl 0
  checksFit h := absurd h (Nat.lt_irrefl 0)
  checksFull h := absurd h (Nat.lt_irrefl 0)
  datas_le := Nat.le_refl 0
  datasAfter h := absurd h (Nat.lt_irrefl 0)
  datasFit h := absurd h (Nat.lt_irrefl 0)
  datasFull h := absurd h (Nat.lt_irrefl 0)

/-- A placement with nothing due sets the check waits to 0 and changes nothing more (R135 to R137). -/
theorem State.placeGrants_of_ungranted (hu : (u.fd f).Ungranted) (guard : Nat) (window : Option Window) :
    u.placeGrants f guard [] window = (u.withWaits f (Vector.replicate 255 0), []) := by
  have hplaces := hu.places (guard := guard) (window := window)
  have hwaits : u.modFd f (·.updateWaits []) = u.withWaits f (Vector.replicate 255 0) := by
    refine congrArg (u.setFd f) ?_
    show (u.fd f).updateWaits [] = (u.fd f).withWaits (Vector.replicate 255 0)
    rw [Feeder.updateWaits, Feeder.withWaits]
    refine congrArg (fun w => { u.fd f with checkWait := w }) (Vector.ext fun i hi => ?_)
    simp
  obtain ⟨t, ht⟩ : ∃ t, t = u.withWaits f (Vector.replicate 255 0) := ⟨_, rfl⟩
  have htfd : t.fd f = (u.fd f).withWaits (Vector.replicate 255 0) := by rw [ht, State.fd_withWaits]
  have hdatas : rotateFrom (t.fd f).rotation
      ((t.fd f).handlesWhere fun h r => t.dataDue r && !([] : List Nat).contains h) = [] := by
    refine hplaces.datas_eq (by rw [htfd]; rfl) fun k => ?_
    rw [htfd, show ((u.fd f).withWaits (Vector.replicate 255 0)).record k = (u.fd f).record k from rfl]
    unfold State.dataDue
    rw [ht, show (u.withWaits f _).profileOf _ = _ from State.profileOf_setFd u f _ _]
  have hcount : t.modFd f (fun fd =>
      Feeder.count { fd with rotation := rotationAfter fd.rotation [] [] } .dataDeferrals ([] : List Nat).length) = t := by
    refine State.modFd_of_eq ?_
    unfold Feeder.count Counters.add
    simp only [List.length_nil, satAdd16_zero]
    rfl
  unfold State.placeGrants
  rw [hplaces.checks_eq]
  simp only [State.placeChecks, hwaits, ← ht]
  unfold State.dataStage
  rw [hdatas]
  simp only [State.placeData, List.isEmpty_nil, Bool.not_true, Bool.false_eq_true, if_false, hcount]

/-- Nothing is owed: nothing is offered again (R151). -/
theorem Feeder.reofferAll_of_none {fd : Feeder} (h : ∀ k, (fd.record k).owed = none) : fd.reofferAll = fd :=
  List.foldl_fixed' (fun k => by rw [Feeder.reoffer_eq, h k]) _

/-- Settles O40. -/
theorem admissionSteps : Obligations.AdmissionSteps := by
  refine ⟨fun s f serial x => ?_, ?_, ?_⟩
  · intro fd after barred holds
    have hbar : s.isBarred serial = true ↔ barred := State.isBarred_iff s serial
    refine ⟨fun hb => if_pos (hbar.mpr hb), fun h hb hh hu => ?_, fun hb hno => ?_⟩
    · intro r settling
      have hsettling : r.state = .confirming ∧ r.stillSettling x.cycle = true ↔ settling :=
        and_congr_right fun _ => Record.stillSettling_iff
      have hcall : after = s.callInOfHolder f h x.cycle :=
        State.admitCallIn_held (mt hbar.mp hb) (State.holderOf_of_unique hh hu)
      rw [hcall, State.callInOfHolder_eq, show (s.record f h).serial = some serial from hh.2.2.2]
      refine ⟨fun hi => if_pos ?_, fun he hn hs => if_neg ?_⟩
      · exact hi.imp id (Or.imp id hsettling.mpr)
      · exact fun hi => (hi.resolve_left he).elim hn fun hi => hs (hsettling.mp hi)
    · have hnew : after = _ := State.admitCallIn_new (mt hbar.mp hb) (State.holderOf_eq_none.mpr hno)
      refine ⟨fun ho => hnew.trans (if_pos (State.holderOf_isSome.mpr ho)), fun ho => ?_⟩
      have hjoin : after = _ := hnew.trans (if_neg (by rw [State.holderOf_eq_none.mpr ho]; exact Bool.false_ne_true))
      have hany : fd.arrivals.any (fun a => decide (a.serial = serial)) = true ↔ ∃ a ∈ fd.arrivals, a.serial = serial := by
        simp
      refine ⟨fun ha => hjoin.trans (if_pos (hany.mpr ha)), fun ha hl => ?_, fun ha hl => ?_⟩
      · exact hjoin.trans ((if_neg fun h => (hany.mp h).elim fun b hb => ha b hb.1 hb.2).trans (if_pos hl))
      · have hroom : after = s.joinArrivals f serial x :=
          hjoin.trans ((if_neg fun h => (hany.mp h).elim fun b hb => ha b hb.1 hb.2).trans (if_neg (Nat.not_le.mpr hl)))
        intro o joined
        have ho : after = (joined (o.1.status fd.settings.decisionCycles)).noteHeld f serial o.1 o.2 :=
          hroom.trans (State.joinArrivals_of_room hl)
        have hplan (y : ArrivalStatus) (i : Nat) : (joined y).planAt i = s.planAt i := State.planAt_setFd s f _ i
        rw [ho]
        refine ⟨fun p hp => ?_, fun reason hr => ?_⟩
        · rw [hp]
          rfl
        · rw [hr, State.noteHeld_held]
          simp only [hplan]
          rfl
  · intro s f a rest fd noRecord room held holds after named
    have hheld : a.isReady = false ↔ held := Arrival.isReady_eq_false
    have hrecord : (fd.firstFrom 1 fun r => decide (r.state = .free)).isNone = true ↔ noRecord := fd.no_free_iff
    have hroom : fd.ordinaryRoom = true ↔ room := fd.ordinaryRoom_iff
    have hready (hh : ¬ held) : a.isReady = true := Bool.not_eq_false _ ▸ mt hheld.mp hh
    have hone (hh : ¬ held) (hn : ¬ noRecord) (hr : room) : after = (s.nameOne f a).nameAll f rest :=
      State.nameAll_one (hready hh) (mt hrecord.mp hn) (hroom.mpr hr)
    have hnamed (link : Option Nat) (p : Fin 8) (hr : room)
        (e : after = (s.nameAs f a link p).nameAll f rest) : named link p := by
      intro h hf h1 h2 hlow hq filled taken linked unlisted
      have hlinked : taken.takeLink link f h = linked := by
        rw [State.takeLink_eq taken fun i => State.planAt_setFd s f _ i] <;> rfl
      rw [e, State.nameAs_eq hf h1 h2 hlow hq (hroom.mpr hr)]
      refine congrArg (fun u => State.nameAll (State.raise (State.dropArrivals u a.serial) _ _) f rest) hlinked
    refine ⟨fun ho => if_pos ((FeederState.serving_iff _).mpr ho), fun h1 h2 => if_neg fun e => ?_, rfl,
      fun hh => State.nameAll_held (hheld.mpr hh), fun hh hn => ?_, fun hh hn hr => ?_, fun hh hn hr ho => ?_,
      fun p hs hn hr ho => ?_, fun p q hs hn hr ho hm => ?_, fun p reason hs hn hr ho hm => ?_⟩
    · exact ((FeederState.serving_iff _).mp e).elim h1 h2
    · have hfull : after = s.feederFull f := State.nameAll_full (hready hh) (hrecord.mpr hn)
      exact ⟨fun ha => hfull.trans (if_pos ha), fun ha => hfull.trans (if_neg (by rw [ha]; exact Bool.false_ne_true))⟩
    · exact State.nameAll_no_room (hready hh) (mt hrecord.mp hn) (Bool.eq_false_iff.mpr (mt hroom.mp hr))
    · refine (hone hh hn hr).trans (congrArg (State.nameAll · f rest) (if_pos ?_))
      exact (State.held_either_iff s f a.serial).mpr ho
    · intro stands whole
      have hh : ¬ held := fun ⟨r, n, e⟩ => by rw [hs] at e; cases e
      have hafter := hone hh hn hr
      rw [State.nameOne_command ho hs] at hafter
      refine ⟨fun hl => hnamed none p hr ?_,
        fun l hl hw => ⟨fun hst => hnamed (some l.index) p hr ?_,
          fun hst => hnamed none p hr ?_⟩⟩
      · rw [hafter, hl]
        rfl
      · rw [hafter, hl, Option.filter_some_pos ((State.linkStands_iff hw).mpr hst)]
        rfl
      · rw [hafter, hl, Option.filter_some_neg (Bool.eq_false_iff.mpr (mt (State.linkStands_iff hw).mp hst))]
        rfl
    · have hh : ¬ held := fun ⟨r, n, e⟩ => by rw [hs] at e; cases e
      have hafter := hone hh hn hr
      rw [State.nameOne_plan_ready ho hs hm] at hafter
      have hlink : after = State.nameAll (s.nameAs f a ((s.matchPlan f a.serial).2.map fun l => l.index) q) f rest :=
        hafter
      exact hnamed _ q hr hlink
    · intro link
      have hh : ¬ held := fun ⟨r, n, e⟩ => by rw [hs] at e; cases e
      have hplan (g : Feeder → Feeder) (i : Nat) : (s.modFd f g).planAt i = s.planAt i := State.planAt_setFd s f _ i
      rw [hone hh hn hr, State.nameOne_plan_held ho hs hm, State.noteHeld_held]
      simp only [hplan]
      rfl
  · intro s f order hp fd n ho hh hu hord howed hst haward hpoint
    obtain ⟨winner, haward, hwin⟩ := haward
    have hname (v : State) (here : NamingPoint) : v.nameAt f here order.naming =
        if order.naming = here then v.name f else v := State.nameAt_eq v f here order.naming
    have hearly (v : State) (here : NamingPoint) (h1 : here ≠ .afterReoffers) (h2 : here ≠ .afterPlacement) :
        v.nameAt f here order.naming = v := by
      rw [hname, if_neg]
      rintro e
      rcases hpoint with hpoint | hpoint <;> rw [hpoint] at e
      · exact h1 e.symm
      · exact h2 e.symm
    have hnone {v : State} (hv : v.award = s.award) : v.windowStage f n = (v, none) := by
      rw [State.windowStage_none (fun ha => absurd ?_ hwin), State.withWindow_none]
      rw [hv, haward] at ha
      simpa using ha
    have hreoffer : s.modFd f (·.reofferAll) = s := State.modFd_of_eq (Feeder.reofferAll_of_none howed)
    have hdispatch : (s.nameAt f .beforeDispatch order.naming).dispatch f n order.reportsJoin = (s, [], []) := by
      rw [hearly s .beforeDispatch nofun nofun, State.dispatch_of_empty hu hord]
    have hfound : s.found f n order = s.nameAt f .afterReoffers order.naming := by
      unfold State.found
      rw [hdispatch, hearly s .afterDispatch nofun nofun, hreoffer]
    rw [exec_cycleBuild order hp, State.build_serving order ho hh haward, hearly s .beforeAward nofun nofun]
    refine congrArg _ ?_
    rcases hpoint with hpoint | hpoint
    · have hplace : s.found f n order = s.name f := by rw [hfound, hname, if_pos hpoint]
      have hbuild := State.buildFull_eq s f n order (v := s.name f) (window := none)
        (fd' := ((s.name f).fd f).withWaits (Vector.replicate 255 0)) (grants := [])
        (by rw [hplace, hnone (s.award_name f).1])
        (by rw [hdispatch]; exact State.placeGrants_of_ungranted (State.ungranted_name hst) _ none)
      refine hbuild.trans ?_
      rw [hdispatch, State.nameAt_eq, if_neg (by rw [hpoint]; exact nofun), State.modFd, State.setFd_setFd,
        State.fd_setFd]
      rfl
    · have hplace : s.found f n order = s := by rw [hfound, hname, if_neg (by rw [hpoint]; exact nofun)]
      have hbuild := State.buildFull_eq s f n order (v := s) (window := none)
        (fd' := (s.fd f).withWaits (Vector.replicate 255 0)) (grants := [])
        (by rw [hplace, hnone rfl])
        (by rw [hdispatch]; exact State.placeGrants_of_ungranted hst _ none)
      have hwaits : (s.setFd f ((s.fd f).withWaits (Vector.replicate 255 0))).name f =
          (s.name f).setFd f (((s.name f).fd f).withWaits (Vector.replicate 255 0)) := State.name_withWaits _ s f
      refine hbuild.trans ?_
      rw [hdispatch, State.nameAt_eq, if_pos hpoint, hwaits, State.modFd, State.setFd_setFd, State.fd_setFd]
      rfl

end

end Sys2Proof.Machine

/-! PROOFS. The pieces of a cycle start: header lengths, the teardowns, the expired decisions and the notices (O31). -/
namespace Sys2Proof.Machine

open Sys2Proof

section

variable {s t u v : State} {f : FeederId} {fd : Feeder}

/-! ## The length of a header (R179, R209) -/

theorem length_windowField (w : Option Window) : (windowField w).length = 8 := by
  unfold windowField
  cases w with
  | none => rfl
  | some w => cases hu : w.use <;> simp [hu, length_beBytes]

theorem length_messageEntry (h : Nat) (m : Msg) : (messageEntry h m).length = 12 := by
  cases m <;> simp [messageEntry, length_beBytes]

theorem Header.length_entry {hd : Header} {e : Bytes} (he : e ∈ hd.entries) : e.length = 12 := by
  unfold Header.entries at he
  split at he
  · rw [List.mem_singleton.mp he]
    rfl
  · obtain ⟨q, -, rfl⟩ := List.mem_map.mp he
    exact length_messageEntry _ _

theorem length_flatten_of_const {l : List Bytes} {k : Nat} (h : ∀ x ∈ l, x.length = k) : l.flatten.length = k * l.length := by
  rw [List.length_flatten, List.eq_replicate_of_mem (a := k) (l := l.map List.length) (by simpa using h)]
  simp [Nat.mul_comm]

/-- The length that the part reckons with is the length of the header's bytes. -/
theorem Header.length_bytes (hd : Header) : hd.bytes.length = hd.length := by
  have hgrants : (hd.grants.map Grant.bytes).flatten.length = 5 * hd.grants.length := by
    rw [length_flatten_of_const (k := 5)]
    · rw [List.length_map]
    · intro x hx
      obtain ⟨g, -, rfl⟩ := List.mem_map.mp hx
      exact length_beBytes 5 _
  have hentries := length_flatten_of_const (l := hd.entries) fun e he => Header.length_entry he
  unfold Header.bytes Header.body Header.check Header.length
  simp only [List.length_append, length_beBytes, length_windowField, hgrants, hentries, List.length_cons, List.length_nil,
    cycleMarker]
  omega

/-! ## The notices of a start -/

/-- The same notice queue, with the same mask and the same cycle number: what a raising reads and writes (R196). -/
structure State.SameBoard (s t : State) : Prop where
  notices : t.notices = s.notices
  overrun : t.noticeOverrun = s.noticeOverrun
  mask : t.noticeMask = s.noticeMask
  cycle : t.cycle = s.cycle

theorem State.SameBoard.trans (h : s.SameBoard t) (k : t.SameBoard u) : s.SameBoard u :=
  ⟨k.notices.trans h.notices, k.overrun.trans h.overrun, k.mask.trans h.mask, k.cycle.trans h.cycle⟩

theorem State.SameBoard.raise (h : s.SameBoard t) (k : NoticeKind) (x : NoticeFields) :
    (s.raise k x).SameBoard (t.raise k x) := by
  obtain ⟨h1, h2, h3, h4⟩ := h
  unfold State.raise
  rw [h1, h2, h3, h4]
  split_ifs <;> exact ⟨by simp [*], by simp [*], by simp [*], by simp [*]⟩

theorem State.sameBoard_setFd (s : State) (f : FeederId) (x : Feeder) : s.SameBoard (s.setFd f x) := by
  cases f <;> exact ⟨rfl, rfl, rfl, rfl⟩

theorem State.sameBoard_releaseLink (s : State) (link : Option Nat) : s.SameBoard (s.releaseLink link) := by
  cases link <;> exact ⟨rfl, rfl, rfl, rfl⟩

/-- `t` differs from `s` in feeder `f`, the plan and the notices at most. -/
def State.Staged (f : FeederId) (s t : State) : Prop :=
  t = { s.setFd f (t.fd f) with plan := t.plan, notices := t.notices, noticeOverrun := t.noticeOverrun }

theorem State.Staged.refl (f : FeederId) (s : State) : s.Staged f s := by cases f <;> rfl

theorem State.Staged.trans (h : s.Staged f t) (k : t.Staged f u) : s.Staged f u := by
  unfold State.Staged at *
  rw [k, h]
  cases f <;> rfl

theorem State.staged_setFd (f : FeederId) (s : State) (x : Feeder) : s.Staged f (s.setFd f x) := by cases f <;> rfl

theorem State.staged_releaseLink (f : FeederId) (s : State) (link : Option Nat) : s.Staged f (s.releaseLink link) := by
  cases link <;> cases f <;> rfl

theorem State.staged_raise (f : FeederId) (s : State) (k : NoticeKind) (x : NoticeFields) : s.Staged f (s.raise k x) := by
  unfold State.Staged
  rw [State.fd_raise, State.setFd_fd]
  rcases s.raise_cases k x with ⟨-, h⟩ | ⟨-, -, h⟩ | ⟨-, -, h⟩ <;> rw [h]

theorem State.Staged.other (h : s.Staged f t) : t.fd f.other = s.fd f.other := by
  rw [h]
  cases f <;> rfl

/-! ## The teardowns of a start (R20, R75) -/

/-- A feeder without the record of a handle and without its messages (R20). -/
def Feeder.tornDown (fd : Feeder) (h : Nat) : Feeder :=
  { (fd.setRecord h freeRecord) with
    ordinary := fd.ordinary.filter fun q => decide (q.handle ≠ h)
    urgent := fd.urgent.filter fun q => decide (q.handle ≠ h)
    fullArmed := true }

theorem State.fd_releaseLink (s : State) (link : Option Nat) (f : FeederId) : (s.releaseLink link).fd f = s.fd f := by
  cases link <;> cases f <;> rfl

theorem State.fd_tearDown (s : State) (f : FeederId) (h : Nat) : (s.tearDown f h).fd f = (s.fd f).tornDown h := by
  rw [State.tearDown_eq, State.fd_releaseLink, State.fd_setFd]
  rfl

theorem State.staged_tearDown (f : FeederId) (s : State) (h : Nat) : s.Staged f (s.tearDown f h) := by
  rw [State.tearDown_eq]
  exact (State.staged_setFd f s _).trans (State.staged_releaseLink f _ _)

theorem State.sameBoard_tearDown (s : State) (f : FeederId) (h : Nat) : s.SameBoard (s.tearDown f h) := by
  rw [State.tearDown_eq]
  exact (s.sameBoard_setFd f _).trans (State.sameBoard_releaseLink _ _)

theorem PlanEntry.dropLinks_add (e : PlanEntry) (j k : Nat) : (e.dropLinks j).dropLinks k = e.dropLinks (j + k) := by
  induction j generalizing e with
  | zero => rw [PlanEntry.dropLinks_zero, Nat.zero_add]
  | succ j ih => rw [← PlanEntry.dropLinks_dropLink, ih, PlanEntry.dropLinks_dropLink, Nat.succ_add]

theorem PlanEntry.dropLinks_dwelling (e : PlanEntry) (k : Nat) : (e.dropLinks k).dwelling = e.dwelling := by
  unfold PlanEntry.dropLinks
  split
  · split <;> rfl
  · rfl

theorem PlanEntry.dropLinks_of_exact {e : PlanEntry} (hk : e.kind = .exact) (k : Nat) :
    e.dropLinks k = { e with claim := if k = 0 then e.claim else none } := by
  obtain ⟨_, _, _, _, _, _, _, _, _, _, _, _, _⟩ := e
  cases hk
  unfold PlanEntry.dropLinks
  dsimp only
  split <;> rfl

theorem PlanEntry.dropLinks_of_pattern {e : PlanEntry} (hk : e.kind = .pattern) (k : Nat) :
    e.dropLinks k = { e with count := e.count.map fun n => n - k } := by
  obtain ⟨_, _, _, _, _, _, _, _, _, _, _, _, _⟩ := e
  cases hk
  rfl

/-- Several teardowns, one after another. -/
theorem State.foldl_tearDown (f : FeederId) (l : List Nat) (hl : l.Nodup) (s : State) :
    let t := l.foldl (fun t h => t.tearDown f h) s
    s.Staged f t ∧ s.SameBoard t ∧ t.fd f = l.foldl Feeder.tornDown (s.fd f) ∧
      ∀ i, i < 512 → t.planAt i =
        (s.planAt i).dropLinks (l.countP fun h => decide ((s.record f h).planLink = some i)) := by
  induction l generalizing s with
  | nil => exact ⟨.refl f s, ⟨rfl, rfl, rfl, rfl⟩, rfl, fun i _ => (PlanEntry.dropLinks_zero _).symm⟩
  | cons h l ih =>
    obtain ⟨hh, hl⟩ := List.nodup_cons.mp hl
    obtain ⟨h1, h2, h3, h4⟩ := ih hl (s.tearDown f h)
    refine ⟨(State.staged_tearDown f s h).trans h1, (s.sameBoard_tearDown f h).trans h2, ?_, fun i hi => ?_⟩
    · rw [List.foldl_cons, List.foldl_cons, h3, State.fd_tearDown]
    · have hlinks : (l.countP fun k => decide (((s.tearDown f h).record f k).planLink = some i)) =
          l.countP fun k => decide ((s.record f k).planLink = some i) := by
        refine List.countP_congr fun k hk => ?_
        rw [State.record_tearDown, if_neg (fun e : h = k => hh (e ▸ hk))]
      have hplan : (s.tearDown f h).planAt i =
          if (s.record f h).planLink = some i then (s.planAt i).dropLink else s.planAt i := by
        rw [State.tearDown_eq, State.planAt_releaseLink, State.planAt_setFd]
        simp only [hi, and_true]
      rw [List.foldl_cons, h4 i hi, hlinks, hplan, List.countP_cons]
      by_cases e : (s.record f h).planLink = some i
      · rw [if_pos e, PlanEntry.dropLinks_dropLink, if_pos (decide_eq_true e)]
      · rw [if_neg e, if_neg (by simpa using e), Nat.add_zero]

/-- What several teardowns leave of the feeder. -/
theorem Feeder.foldl_tornDown (l : List Nat) (hl : ∀ h ∈ l, 1 ≤ h ∧ h ≤ 255) (fd : Feeder) :
    let x := l.foldl Feeder.tornDown fd
    x = { fd with
      table := x.table
      ordinary := fd.ordinary.filter fun q => decide (q.handle ∉ l)
      urgent := fd.urgent.filter fun q => decide (q.handle ∉ l)
      fullArmed := if l = [] then fd.fullArmed else true } ∧
    ∀ k, x.record k = if k ∈ l then freeRecord else fd.record k := by
  induction l generalizing fd with
  | nil =>
    refine ⟨?_, fun k => rfl⟩
    simp
  | cons h l ih =>
    obtain ⟨hx, hrec⟩ := ih (fun k hk => hl k (List.mem_cons_of_mem h hk)) (fd.tornDown h)
    obtain ⟨h1, h2⟩ := hl h (List.mem_cons_self ..)
    have htorn : fd.tornDown h = { fd with
        table := (fd.tornDown h).table
        ordinary := fd.ordinary.filter fun q => decide (q.handle ≠ h)
        urgent := fd.urgent.filter fun q => decide (q.handle ≠ h)
        fullArmed := true } := by
      unfold Feeder.tornDown Feeder.setRecord
      split <;> rfl
    refine ⟨?_, fun k => ?_⟩
    · rw [List.foldl_cons, hx, htorn]
      simp only [List.filter_filter, ← Bool.decide_and, ite_self, if_neg (List.cons_ne_nil h l), List.mem_cons, not_or,
        and_comm]
    · rw [List.foldl_cons, hrec]
      by_cases hk : k ∈ l
      · rw [if_pos hk, if_pos (List.mem_cons_of_mem h hk)]
      · rw [if_neg hk]
        show ((fd.setRecord h freeRecord).record k) = _
        rw [Feeder.record_setRecord]
        by_cases e : h = k
        · rw [if_pos ⟨e, h1, h2⟩, if_pos (e ▸ List.mem_cons_self ..)]
        · rw [if_neg fun c => e c.1, if_neg fun c => (List.mem_cons.mp c).elim (fun e' => e e'.symm) hk]

/-! ## The decisions that end at a start (R88, R95) -/

/-- A feeder whose decision about an arrival has ended. -/
def Feeder.expires (fd : Feeder) (a : Arrival) : Feeder :=
  { fd.dropArrival a.serial with expired := addExpired fd.expired a.serial }

/-- What DECISION_EXPIRED carries for an arrival. -/
def State.expiryNotice (s : State) (f : FeederId) (a : Arrival) : NoticeFields :=
  { feeder := some f, serial := some a.serial, dwelling := a.link.map fun l => (s.planAt l.index).dwelling }

theorem State.expireArrival_eq (s : State) (f : FeederId) (a : Arrival) :
    s.expireArrival f a = (s.setFd f ((s.fd f).expires a)).raise .decisionExpired (s.expiryNotice f a) := by
  unfold State.expireArrival State.expiryNotice State.dwellingOf
  rw [Option.map_map]
  rfl

theorem State.plan_expireArrival (s : State) (f : FeederId) (a : Arrival) (i : Nat) :
    (s.expireArrival f a).planAt i = s.planAt i := by
  rw [State.expireArrival_eq, State.planAt_raise, State.planAt_setFd]

/-- Several decisions that end, one after another. -/
theorem State.foldl_expireArrival (f : FeederId) (l : List Arrival) (s : State) :
    let t := l.foldl (fun t a => t.expireArrival f a) s
    s.Staged f t ∧ (∀ i, t.planAt i = s.planAt i) ∧ t.fd f = l.foldl Feeder.expires (s.fd f) ∧
      ∀ u : State, u.SameBoard s →
        ((l.map (s.expiryNotice f)).foldl (fun u x => u.raise .decisionExpired x) u).SameBoard t := by
  induction l generalizing s with
  | nil => exact ⟨.refl f s, fun i => rfl, rfl, fun u hu => hu⟩
  | cons a l ih =>
    obtain ⟨h1, h2, h3, h4⟩ := ih (s.expireArrival f a)
    have hplan := s.plan_expireArrival f a
    have hnotice : (s.expireArrival f a).expiryNotice f = s.expiryNotice f := by
      funext b
      unfold State.expiryNotice
      simp only [hplan]
    refine ⟨?_, fun i => (h2 i).trans (hplan i), ?_, fun u hu => ?_⟩
    · refine State.Staged.trans ?_ h1
      rw [State.expireArrival_eq]
      exact (State.staged_setFd f s _).trans (State.staged_raise f _ _ _)
    · rw [List.foldl_cons, List.foldl_cons, h3, State.expireArrival_eq, State.fd_raise, State.fd_setFd]
    · rw [List.map_cons, List.foldl_cons, List.foldl_cons, ← hnotice]
      refine h4 _ ?_
      rw [hnotice, State.expireArrival_eq]
      exact (hu.trans (s.sameBoard_setFd f _)).raise _ _

/-- What several decisions that end leave of the feeder. -/
theorem Feeder.foldl_expires (l : List Arrival) (fd : Feeder) : l.foldl Feeder.expires fd = { fd with
    arrivals := fd.arrivals.filter fun a => decide (a.serial ∉ l.map (·.serial))
    expired := (l.map (·.serial)).foldl addExpired fd.expired } := by
  induction l generalizing fd with
  | nil => simp
  | cons a l ih =>
    rw [List.foldl_cons, ih]
    unfold Feeder.expires Feeder.dropArrival
    simp only [List.map_cons, List.foldl_cons, List.filter_filter, ← Bool.decide_and, List.mem_cons, not_or, and_comm, Ne]

/-! ## The sequence and the downstream frames of a start (R37, R38, R179) -/

theorem Feeder.endSequence_eq (fd : Feeder) : fd.endSequence = { fd with
    state := fd.endSequence.state
    seqCount := fd.endSequence.seqCount
    rootCd := fd.endSequence.rootCd
    gapCd := fd.endSequence.gapCd } := by
  unfold Feeder.endSequence Feeder.endQuiet Feeder.endPurge
  split
  · split <;> rfl
  · rfl

theorem Feeder.sendDown_eq (fd : Feeder) : fd.sendDown = { fd with
    counters := fd.sendDown.counters
    downBuffer := fd.sendDown.downBuffer
    line := fd.sendDown.line } := by
  unfold Feeder.sendDown
  split <;> rfl

/-! ## A feeder's start -/

/-- A feeder behind its own cycle start without the end of a recovery, from the feeder before it. -/
def Feeder.cycled (fd : Feeder) : Feeder :=
  let x1 := fd.send.tick.endSequence
  let x2 := x1.drained.foldl Feeder.tornDown x1
  let x3 := if fd.state = .opened then x2.decided.foldl Feeder.expires x2 else x2
  if fd.state.serving then x3.sendDown else x3

end

end Sys2Proof.Machine

/-! PROOFS. A feeder's own cycle start: what it leaves of the feeder, the plan and the notices (O31). -/
namespace Sys2Proof.Machine

open Sys2Proof

section

variable {s t u v : State} {f : FeederId} {fd : Feeder} {hd : Header} {k : Nat} {r : Record} {a : Arrival}

/-! ## The records of a feeder that starts -/

/-- A record whose drain ends at this start (R17). -/
def Record.drains (r : Record) : Bool := decide (r.state = .ejected ∧ (r.drain = some 0 ∨ r.drain = some 1))

theorem Record.drains_iff : r.drains = true ↔ r.state = .ejected ∧ (r.drain = some 0 ∨ r.drain = some 1) :=
  decide_eq_true_iff

theorem Record.drains_tick :
    (decide (r.tick.state = .ejected) && decide (r.tick.drain = some 0)) = r.drains := by
  unfold Record.drains Record.tick
  rw [Bool.eq_iff_iff, Bool.and_eq_true, decide_eq_true_iff, decide_eq_true_iff, decide_eq_true_iff]
  refine and_congr_right fun hs => ?_
  have hs : r.state = .ejected := hs
  rw [if_pos hs]
  cases r.drain with
  | none => simp
  | some n => simp only [Option.map_some, Option.some.injEq]; omega

theorem Record.tick_eq (r : Record) : r.tick = { r with
    pace := if r.state = .free ∨ r.state = .ejected then r.pace else r.pace - 1
    drain := if r.state = .ejected then r.drain.map (fun n => n - 1) else r.drain
    checkCd := if r.state = .inService then r.checkCd - 1 else r.checkCd
    dataCd := if r.state = .inService then r.dataCd - 1 else r.dataCd
    recCd := if r.state = .inService ∨ r.state = .hushed then r.recCd - 1 else r.recCd } := by
  have hpace : (if r.state.active then r.pace - 1 else r.pace) =
      if r.state = .free ∨ r.state = .ejected then r.pace else r.pace - 1 := by
    by_cases h : r.state = .free ∨ r.state = .ejected
    · rw [if_pos h, if_neg fun ha => h.elim ((RecState.active_iff _).mp ha).1 ((RecState.active_iff _).mp ha).2]
    · rw [if_neg h, if_pos ((RecState.active_iff _).mpr (not_or.mp h))]
  unfold Record.tick
  simp only [hpace, or_comm]

theorem Feeder.send_of_header (hn : fd.nextHeader = some hd) : fd.send = { fd with
    nextHeader := none, heldMaps := lastTwo (fd.heldMaps ++ [hd.heldMap]), line := some { header := hd, sent := [] } } := by
  unfold Feeder.send
  rw [hn]

theorem Feeder.send_table (fd : Feeder) : fd.send.table = fd.table := by
  unfold Feeder.send
  split <;> rfl

/-- The feeder of a start with its countdowns counted and its sequence ended. -/
def Feeder.counted (fd : Feeder) : Feeder := fd.send.tick.endSequence

theorem Feeder.counted_table (fd : Feeder) : fd.counted.table = fd.table.map (·.tick) := by
  have h : fd.counted.table = fd.send.tick.table := by rw [Feeder.counted, Feeder.endSequence_eq]
  rw [h, Feeder.tick, Feeder.send_table]

theorem Feeder.record_counted (fd : Feeder) (k : Nat) : fd.counted.record k = (fd.record k).tick := by
  by_cases hk : 1 ≤ k ∧ k ≤ 255
  · have hlt : k - 1 < 255 := by omega
    rw [Feeder.record_eq_getElem _ k hk.1 hk.2, Feeder.record_eq_getElem _ k hk.1 hk.2]
    simp only [fd.counted_table, Vector.getElem_map]
  · rw [Feeder.record_of_out _ k (by omega), Feeder.record_of_out _ k (by omega)]
    rfl

theorem Feeder.mem_drained_counted (fd : Feeder) (k : Nat) : k ∈ fd.counted.drained ↔ (fd.record k).drains = true := by
  unfold Feeder.drained
  rw [Feeder.mem_handlesWhere, Feeder.record_counted, Record.drains_tick]
  refine ⟨fun h => h.2.2, fun h => ?_⟩
  obtain ⟨h1, h2⟩ := Feeder.in_range_of_state (fd := fd) (k := k) (by rw [(Record.drains_iff.mp h).1]; exact nofun)
  exact ⟨h1, h2, h⟩

theorem Feeder.map_record_range (fd : Feeder) : (List.range' 1 255).map fd.record = fd.table.toList := by
  refine List.ext_getElem (by simp) fun i hi _ => ?_
  have hlt : i < 255 := by simpa using hi
  rw [List.getElem_map, List.getElem_range', Feeder.record_eq_getElem _ _ (by omega) (by omega)]
  simp

/-- The handles where a property holds, without the table's pairs. -/
theorem Feeder.handlesWhere_eq (fd : Feeder) (p : Nat → Record → Bool) :
    fd.handlesWhere p = (List.range' 1 255).filter fun h => p h (fd.record h) := by
  have hzip : fd.table.toList.zipIdx 1 = (List.range' 1 255).map fun h => (fd.record h, h) := by
    rw [← fd.map_record_range]
    refine List.ext_getElem (by simp) fun i hi _ => ?_
    simp
  unfold Feeder.handlesWhere
  rw [hzip, List.filter_map, List.map_map]
  exact List.map_id _

/-- The links that the teardowns of a start release (R20, R75). -/
theorem Feeder.countP_drained (fd : Feeder) (i : Nat) :
    (fd.counted.drained.countP fun h => decide ((fd.counted.record h).planLink = some i)) =
      fd.table.toList.countP fun r =>
        decide (r.state = .ejected ∧ (r.drain = some 0 ∨ r.drain = some 1) ∧ r.planLink = some i) := by
  unfold Feeder.drained
  rw [Feeder.handlesWhere_eq, List.countP_filter, ← fd.map_record_range, List.countP_map]
  refine List.countP_congr fun k _ => ?_
  rw [Feeder.record_counted, Record.drains_tick, Record.drains]
  show _ ↔ decide _ = true
  rw [Bool.and_eq_true, decide_eq_true_iff, decide_eq_true_iff, decide_eq_true_iff, and_comm, and_assoc]
  rfl

/-! ## The decisions of a feeder that starts (R95) -/

/-- A HELD arrival whose decision ends at this start. -/
def Arrival.lapses (a : Arrival) : Bool := match a.status with | .held _ n => decide (n ≤ 1) | _ => false

theorem Arrival.tick_fixed (a : Arrival) : a.tick.serial = a.serial ∧ a.tick.link = a.link := by
  unfold Arrival.tick
  split <;> exact ⟨rfl, rfl⟩

theorem Arrival.lapses_tick (a : Arrival) :
    (match a.tick.status with | .held _ n => decide (n = 0) | _ => false) = a.lapses := by
  unfold Arrival.tick Arrival.lapses
  cases hs : a.status with
  | held r n => exact decide_eq_decide.mpr (by omega)
  | readyPlan p => simp [hs]
  | readyCommand p => simp [hs]

theorem Feeder.decided_of_arrivals {x : Feeder} {l : List Arrival} (hx : x.arrivals = l.map (·.tick)) :
    x.decided = (l.filter (·.lapses)).map (·.tick) := by
  unfold Feeder.decided
  rw [hx, List.filter_map]
  refine congrArg (List.map _) (List.filter_congr fun a _ => ?_)
  exact a.lapses_tick

/-- The arrivals behind the decisions that end, when no serial stands twice in the list (R88). -/
theorem filter_tick_eq {l : List Arrival} (hl : (l.map (·.serial)).Nodup) :
    (l.map (·.tick)).filter (fun a => decide (a.serial ∉ (l.filter (·.lapses)).map (·.serial))) =
      l.filterMap fun a => match a.status with
        | .held reason n => if n ≤ 1 then none else some { a with status := .held reason (n - 1) }
        | _ => some a := by
  have hkept : ∀ a ∈ l, decide (a.tick.serial ∉ (l.filter (·.lapses)).map (·.serial)) = !a.lapses := by
    intro a ha
    rw [a.tick_fixed.1, Bool.eq_iff_iff, decide_eq_true_iff, Bool.not_eq_true', ← Bool.not_eq_true, not_iff_not]
    refine ⟨fun h => ?_, fun h => List.mem_map_of_mem (List.mem_filter.mpr ⟨ha, h⟩)⟩
    obtain ⟨b, hb, e⟩ := List.mem_map.mp h
    obtain ⟨hb, hlapses⟩ := List.mem_filter.mp hb
    exact List.inj_on_of_nodup_map hl hb ha e ▸ hlapses
  rw [List.filter_map]
  refine (congrArg (List.map _) (List.filter_congr hkept)).trans ?_
  rw [← List.filterMap_eq_map, List.filterMap_filter]
  refine List.filterMap_congr fun a _ => ?_
  obtain ⟨_, status, _, _⟩ := a
  cases status with
  | held reason n => by_cases hn : n ≤ 1 <;> simp [Arrival.lapses, Arrival.tick, hn]
  | readyPlan p => rfl
  | readyCommand p => rfl

end

end Sys2Proof.Machine

/-! PROOFS. A feeder's own cycle start: what it leaves of the state (O31). -/
namespace Sys2Proof.Machine

open Sys2Proof

section

variable {s t u v : State} {f : FeederId} {fd : Feeder} {hd : Header} {k : Nat} {r : Record} {a : Arrival}

/-- The number of links to a plan entry that a start of the feeder releases (R20, R75). -/
def Feeder.freed (fd : Feeder) (i : Nat) : Nat :=
  fd.table.toList.countP fun r =>
    decide (r.state = .ejected ∧ (r.drain = some 0 ∨ r.drain = some 1) ∧ r.planLink = some i)

/-- The arrivals whose decisions a start of the feeder ends (R95). -/
def Feeder.lapsing (fd : Feeder) : List Arrival := if fd.state = .opened then fd.arrivals.filter (·.lapses) else []

/-- The feeder of a start behind its teardowns. -/
def Feeder.torn (fd : Feeder) : Feeder := fd.counted.drained.foldl Feeder.tornDown fd.counted

theorem Feeder.nodup_drained (fd : Feeder) : fd.drained.Nodup :=
  (Feeder.pairwise_handlesWhere fd _).imp Nat.ne_of_lt

theorem Feeder.send_fixed (fd : Feeder) : fd.send.state = fd.state ∧ fd.send.arrivals = fd.arrivals := by
  unfold Feeder.send
  split <;> exact ⟨rfl, rfl⟩

theorem Feeder.torn_spec (fd : Feeder) : fd.torn = { fd.counted with
      table := fd.torn.table
      ordinary := fd.counted.ordinary.filter fun q => decide (q.handle ∉ fd.counted.drained)
      urgent := fd.counted.urgent.filter fun q => decide (q.handle ∉ fd.counted.drained)
      fullArmed := if fd.counted.drained = [] then fd.counted.fullArmed else true } ∧
    ∀ k, fd.torn.record k = if k ∈ fd.counted.drained then freeRecord else fd.counted.record k :=
  Feeder.foldl_tornDown _ (fun _ hk => ⟨((Feeder.mem_handlesWhere ..).mp hk).1, ((Feeder.mem_handlesWhere ..).mp hk).2.1⟩) _

theorem Feeder.counted_arrivals (fd : Feeder) :
    fd.counted.arrivals = if fd.state = .opened then fd.arrivals.map (·.tick) else fd.arrivals := by
  have h : fd.counted.arrivals = fd.send.tick.arrivals := by rw [Feeder.counted, Feeder.endSequence_eq]
  rw [h, Feeder.tick, fd.send_fixed.1, fd.send_fixed.2]

theorem Feeder.torn_arrivals (fd : Feeder) : fd.torn.arrivals = fd.counted.arrivals := by rw [fd.torn_spec.1]

theorem Feeder.torn_decided (ho : fd.state = .opened) : fd.torn.decided = fd.lapsing.map (·.tick) := by
  rw [Feeder.decided_of_arrivals (l := fd.arrivals) (by rw [fd.torn_arrivals, fd.counted_arrivals, if_pos ho]),
    Feeder.lapsing, if_pos ho]

/-- What a notice about an ended decision carries does not depend on the links released before it. -/
theorem State.expiryNotice_congr (hplan : ∀ i, i < 512 → ∃ k, t.planAt i = (s.planAt i).dropLinks k) :
    t.expiryNotice f = s.expiryNotice f := by
  have hdwell : ∀ i, (t.planAt i).dwelling = (s.planAt i).dwelling := by
    intro i
    by_cases hi : i < 512
    · obtain ⟨k, e⟩ := hplan i hi
      rw [e, PlanEntry.dropLinks_dwelling]
    · rw [State.planAt_of_le t (by omega), State.planAt_of_le s (by omega)]
  funext a
  unfold State.expiryNotice
  simp only [hdwell]

theorem State.expiryNotice_tick (s : State) (f : FeederId) (a : Arrival) : s.expiryNotice f a.tick = s.expiryNotice f a := by
  unfold State.expiryNotice
  rw [a.tick_fixed.1, a.tick_fixed.2]

/-- What follows a feeder's decrements, without a recovery that ends: the feeder, the links released and the notices. -/
theorem State.afterThen_cycled (hs : fd.starts = true) (hv : v.fd f = fd.send.tick) :
    v.Staged f (v.afterThen f fd []) ∧ (v.afterThen f fd []).fd f = fd.cycled ∧
      (∀ i, i < 512 → (v.afterThen f fd []).planAt i = (v.planAt i).dropLinks (fd.freed i)) ∧
      ∀ u : State, u.SameBoard v →
        ((fd.lapsing.map (v.expiryNotice f)).foldl (fun u x => u.raise .decisionExpired x) u).SameBoard
          (v.afterThen f fd []) := by
  let v1 := v.modFd f Feeder.endSequence
  let v2 := (v1.fd f).drained.foldl (fun t h => t.tearDown f h) v1
  let v3 := if fd.state = .opened then (v2.fd f).decided.foldl (fun t a => t.expireArrival f a) v2 else v2
  have hthen : v.afterThen f fd [] = if fd.state.serving then v3.modFd f Feeder.sendDown else v3 := by
    unfold State.afterThen State.endsThen
    rw [if_pos hs]
    simp only [List.foldl_nil, decide_eq_true_eq]
    rfl
  have hcounted : v1.fd f = fd.counted := by rw [State.fd_modFd, hv, Feeder.counted]
  obtain ⟨hstaged2, hboard2, hfd2, hplan2⟩ := State.foldl_tearDown f _ (v1.fd f).nodup_drained v1
  have hfd2 : v2.fd f = fd.torn := by rw [hfd2, hcounted, Feeder.torn]
  have hplan2 : ∀ i, i < 512 → v2.planAt i = (v.planAt i).dropLinks (fd.freed i) := by
    intro i hi
    have hplan1 : v1.planAt i = v.planAt i := v.planAt_setFd f _ i
    rw [hplan2 i hi, hplan1, Feeder.freed, ← fd.countP_drained, ← hcounted]
    rfl
  have hstaged2 : v.Staged f v2 := (State.staged_setFd f v _).trans hstaged2
  have hboard2 : v.SameBoard v2 := (v.sameBoard_setFd f _).trans hboard2
  obtain ⟨hstaged3, hfd3, hplan3, hnotices3⟩ : v.Staged f v3 ∧
      v3.fd f = (if fd.state = .opened then fd.torn.decided.foldl Feeder.expires fd.torn else fd.torn) ∧
      (∀ i, v3.planAt i = v2.planAt i) ∧ ∀ u : State, u.SameBoard v →
        ((fd.lapsing.map (v.expiryNotice f)).foldl (fun u x => u.raise .decisionExpired x) u).SameBoard v3 := by
    by_cases ho : fd.state = .opened
    · obtain ⟨h1, h2, h3, h4⟩ := State.foldl_expireArrival f (v2.fd f).decided v2
      have e : v3 = (v2.fd f).decided.foldl (fun t a => t.expireArrival f a) v2 := if_pos ho
      rw [e, if_pos ho]
      refine ⟨hstaged2.trans h1, by rw [h3, hfd2], h2, fun u hu => ?_⟩
      have hlist : (v2.fd f).decided.map (v2.expiryNotice f) = fd.lapsing.map (v.expiryNotice f) := by
        rw [State.expiryNotice_congr fun i hi => ⟨_, hplan2 i hi⟩, hfd2, Feeder.torn_decided ho, List.map_map]
        exact List.map_congr_left fun a _ => v.expiryNotice_tick f a
      rw [← hlist]
      exact h4 u (hu.trans hboard2)
    · have e : v3 = v2 := if_neg ho
      rw [e, if_neg ho, Feeder.lapsing, if_neg ho]
      exact ⟨hstaged2, hfd2, fun _ => rfl, fun u hu => hu.trans hboard2⟩
  rw [hthen]
  by_cases hserve : fd.state.serving = true
  · rw [if_pos hserve]
    refine ⟨hstaged3.trans (State.staged_setFd f v3 _), ?_, fun i hi => ?_, fun u hu => ?_⟩
    · rw [State.fd_modFd, hfd3]
      exact (if_pos hserve).symm
    · rw [State.modFd, State.planAt_setFd, hplan3, hplan2 i hi]
    · exact (hnotices3 u hu).trans (v3.sameBoard_setFd f _)
  · rw [if_neg hserve]
    exact ⟨hstaged3, hfd3.trans (if_neg hserve).symm, fun i hi => (hplan3 i).trans (hplan2 i hi), hnotices3⟩

end

end Sys2Proof.Machine

/-! PROOFS. A feeder's own cycle start: the fields of the feeder (O31). -/
namespace Sys2Proof.Machine

open Sys2Proof

section

variable {s t u v : State} {f : FeederId} {fd : Feeder} {hd : Header} {k : Nat} {r : Record} {a : Arrival}

/-- The feeder of a start behind the decisions that end. -/
def Feeder.settled (fd : Feeder) : Feeder :=
  if fd.state = .opened then fd.torn.decided.foldl Feeder.expires fd.torn else fd.torn

theorem Feeder.cycled_eq_settled (fd : Feeder) :
    fd.cycled = if fd.state.serving then fd.settled.sendDown else fd.settled := rfl

theorem Feeder.counted_of_header (hn : fd.nextHeader = some hd) : fd.counted = { fd with
    state := fd.counted.state
    seqCount := fd.counted.seqCount
    rootCd := fd.counted.rootCd
    gapCd := fd.counted.gapCd
    table := fd.counted.table
    arrivals := fd.counted.arrivals
    nextHeader := none
    heldMaps := lastTwo (fd.heldMaps ++ [hd.heldMap])
    line := some { header := hd, sent := [] } } := by
  unfold Feeder.counted
  rw [Feeder.endSequence_eq, Feeder.send_of_header hn]
  rfl

theorem Feeder.settled_of_torn (fd : Feeder) : fd.settled = { fd.torn with
    arrivals := fd.settled.arrivals, expired := fd.settled.expired } := by
  unfold Feeder.settled
  split
  · rw [Feeder.foldl_expires]
  · rfl

theorem Feeder.record_settled (fd : Feeder) (k : Nat) :
    fd.settled.record k = if (fd.record k).drains then freeRecord else (fd.record k).tick := by
  have h : fd.settled.record k = fd.torn.record k := by rw [Feeder.settled_of_torn]; rfl
  rw [h, fd.torn_spec.2, Feeder.record_counted]
  simp only [Feeder.mem_drained_counted]

theorem Feeder.not_mem_drained_counted (fd : Feeder) :
    (fun q : QMsg => decide (q.handle ∉ fd.counted.drained)) = fun q => !(fd.record q.handle).drains := by
  funext q
  rw [decide_not, Bool.not_inj_iff, Bool.eq_iff_iff, decide_eq_true_iff, Feeder.mem_drained_counted]

/-- A feeder behind its start, before its downstream frames. -/
theorem Feeder.settled_of_header (hn : fd.nextHeader = some hd) : fd.settled = { fd with
    state := fd.counted.state
    seqCount := fd.counted.seqCount
    rootCd := fd.counted.rootCd
    gapCd := fd.counted.gapCd
    table := fd.settled.table
    arrivals := fd.settled.arrivals
    expired := fd.settled.expired
    fullArmed := if fd.counted.drained = [] then fd.fullArmed else true
    nextHeader := none
    heldMaps := lastTwo (fd.heldMaps ++ [hd.heldMap])
    urgent := fd.urgent.filter fun q => !(fd.record q.handle).drains
    ordinary := fd.ordinary.filter fun q => !(fd.record q.handle).drains
    line := some { header := hd, sent := [] } } := by
  rw [← fd.not_mem_drained_counted, Feeder.settled_of_torn, fd.torn_spec.1, Feeder.counted_of_header hn]

theorem Feeder.cycled_of_settled (fd : Feeder) : fd.cycled = { fd.settled with
    counters := fd.cycled.counters, downBuffer := fd.cycled.downBuffer, line := fd.cycled.line } := by
  rw [Feeder.cycled_eq_settled]
  split
  · exact fd.settled.sendDown_eq
  · rfl

/-- A feeder behind its start. -/
theorem Feeder.cycled_of_header (hn : fd.nextHeader = some hd) : fd.cycled = { fd with
    state := fd.counted.state
    seqCount := fd.counted.seqCount
    counters := fd.cycled.counters
    table := fd.settled.table
    arrivals := fd.settled.arrivals
    expired := fd.settled.expired
    fullArmed := if fd.counted.drained = [] then fd.fullArmed else true
    rootCd := fd.counted.rootCd
    gapCd := fd.counted.gapCd
    nextHeader := none
    heldMaps := lastTwo (fd.heldMaps ++ [hd.heldMap])
    urgent := fd.urgent.filter fun q => !(fd.record q.handle).drains
    ordinary := fd.ordinary.filter fun q => !(fd.record q.handle).drains
    downBuffer := fd.cycled.downBuffer
    line := fd.cycled.line } := by
  rw [Feeder.cycled_of_settled, Feeder.settled_of_header hn]

theorem Feeder.cycled_fixed (hn : fd.nextHeader = some hd) : fd.cycled.state = fd.counted.state ∧
    fd.cycled.seqCount = fd.counted.seqCount ∧ fd.cycled.rootCd = fd.counted.rootCd ∧
    fd.cycled.gapCd = fd.counted.gapCd ∧ fd.cycled.table = fd.settled.table ∧
    fd.cycled.arrivals = fd.settled.arrivals ∧ fd.cycled.expired = fd.settled.expired ∧
    fd.cycled.fullArmed = if fd.counted.drained = [] then fd.fullArmed else true := by
  rw [Feeder.cycled_of_header hn]
  exact ⟨rfl, rfl, rfl, rfl, rfl, rfl, rfl, rfl⟩

theorem Feeder.record_cycled (fd : Feeder) (k : Nat) :
    fd.cycled.record k = if (fd.record k).drains then freeRecord else (fd.record k).tick := by
  rw [← Feeder.record_settled, Feeder.cycled_of_settled]
  rfl

/-! ## The sequence and the Call-In Unit's countdowns (R37, R38, R56) -/

theorem Feeder.sent_tick (fd : Feeder) : fd.send.tick.state = fd.state ∧
    fd.send.tick.seqCount = fd.seqCount.map (fun n => n - 1) ∧
    fd.send.tick.rootCd = (if fd.state.serving then fd.rootCd - 1 else fd.rootCd) ∧
    fd.send.tick.gapCd = (if fd.state.serving then fd.gapCd - 1 else fd.gapCd) := by
  unfold Feeder.tick Feeder.send
  split <;> exact ⟨rfl, rfl, rfl, rfl⟩

theorem Feeder.endSequence_quiet (hs : fd.state = .quieting) (hc : fd.seqCount = some 0) : fd.endSequence = fd.endQuiet := by
  unfold Feeder.endSequence
  rw [if_pos hc, hs]

theorem Feeder.endSequence_purge (hs : fd.state = .purging) (hc : fd.seqCount = some 0) : fd.endSequence = fd.endPurge := by
  unfold Feeder.endSequence
  rw [if_pos hc, hs]

theorem Feeder.endSequence_of_ne (hc : fd.seqCount ≠ some 0) : fd.endSequence = fd := if_neg hc

theorem Feeder.counted_quiet (hs : fd.state = .quieting) (hc : fd.seqCount = some 1) :
    fd.counted.state = .purging ∧ fd.counted.seqCount = some 8 := by
  obtain ⟨hstate, hseq, -, -⟩ := fd.sent_tick
  rw [Feeder.counted, Feeder.endSequence_quiet (hstate.trans hs) (by rw [hseq, hc]; rfl)]
  exact ⟨rfl, rfl⟩

theorem Feeder.counted_purge (hs : fd.state = .purging) (hc : fd.seqCount = some 1) :
    fd.counted.state = .opened ∧ fd.counted.seqCount = none ∧ fd.counted.rootCd = 0 ∧ fd.counted.gapCd = 0 := by
  obtain ⟨hstate, hseq, -, -⟩ := fd.sent_tick
  rw [Feeder.counted, Feeder.endSequence_purge (hstate.trans hs) (by rw [hseq, hc]; rfl)]
  exact ⟨rfl, rfl, rfl, rfl⟩

theorem Feeder.counted_within {n : Nat} (hn : 2 ≤ n) (hc : fd.seqCount = some n) :
    fd.counted.state = fd.state ∧ fd.counted.seqCount = some (n - 1) := by
  obtain ⟨hstate, hseq, -, -⟩ := fd.sent_tick
  have hseq : fd.send.tick.seqCount = some (n - 1) := by rw [hseq, hc, Option.map_some]
  rw [Feeder.counted, Feeder.endSequence_of_ne (by rw [hseq]; exact fun e => by injection e; omega)]
  exact ⟨hstate, hseq⟩

theorem Feeder.counted_serving (hs : fd.state.serving = true) (hc : fd.seqCount = none) :
    fd.counted.state = fd.state ∧ fd.counted.rootCd = fd.rootCd - 1 ∧ fd.counted.gapCd = fd.gapCd - 1 := by
  obtain ⟨hstate, hseq, hroot, hgap⟩ := fd.sent_tick
  rw [Feeder.counted, Feeder.endSequence_of_ne (by rw [hseq, hc, Option.map_none]; exact nofun)]
  exact ⟨hstate, hroot.trans (if_pos hs), hgap.trans (if_pos hs)⟩

/-! ## The arrivals of a start (R88, R95) -/

theorem Feeder.settled_of_not_opened (hn : fd.nextHeader = some hd) (ho : fd.state ≠ .opened) :
    fd.settled.arrivals = fd.arrivals ∧ fd.settled.expired = fd.expired := by
  have e : fd.settled = fd.torn := if_neg ho
  rw [e, fd.torn_arrivals, fd.counted_arrivals, if_neg ho, fd.torn_spec.1, Feeder.counted_of_header hn]
  exact ⟨rfl, rfl⟩

theorem Feeder.settled_of_opened (hn : fd.nextHeader = some hd) (ho : fd.state = .opened)
    (hl : (fd.arrivals.map (·.serial)).Nodup) :
    (fd.settled.arrivals = fd.arrivals.filterMap fun a => match a.status with
      | .held reason n => if n ≤ 1 then none else some { a with status := .held reason (n - 1) }
      | _ => some a) ∧
    fd.settled.expired = ((fd.arrivals.filter (·.lapses)).map (·.serial)).foldl addExpired fd.expired := by
  have hserials : fd.torn.decided.map (·.serial) = (fd.arrivals.filter (·.lapses)).map (·.serial) := by
    rw [Feeder.torn_decided ho, Feeder.lapsing, if_pos ho, List.map_map]
    exact List.map_congr_left fun a _ => a.tick_fixed.1
  have hexpired : fd.torn.expired = fd.expired := by rw [fd.torn_spec.1, Feeder.counted_of_header hn]
  have e : fd.settled = fd.torn.decided.foldl Feeder.expires fd.torn := if_pos ho
  rw [e, Feeder.foldl_expires, hserials, fd.torn_arrivals, fd.counted_arrivals, if_pos ho, hexpired]
  exact ⟨filter_tick_eq hl, rfl⟩

/-! ## The teardowns of a start (R20) -/

theorem Feeder.drained_counted_eq_nil (fd : Feeder) :
    fd.counted.drained = [] ↔ ∀ h, ¬ (fd.record h).drains = true := by
  simp only [List.eq_nil_iff_forall_not_mem, Feeder.mem_drained_counted]

/-! ## The downstream frames of a start (R179) -/

/-- A frame that a start sends: a broadcast, or one of a record in service. -/
def Feeder.sends (fd : Feeder) (d : DownFrame) : Bool :=
  decide (d.handle = 0 ∨ (fd.record d.handle).state = .inService ∨ (fd.record d.handle).state = .suspect)

theorem Feeder.sends_settled (fd : Feeder) (d : DownFrame) :
    (decide (d.handle = 0) || (fd.settled.record d.handle).state.carriesTraffic) = fd.sends d := by
  have hrecord : (fd.settled.record d.handle).state.carriesTraffic = (fd.record d.handle).state.carriesTraffic := by
    rw [fd.record_settled]
    split
    · next h => rw [(Record.drains_iff.mp h).1]; rfl
    · rfl
  unfold Feeder.sends
  rw [Bool.eq_iff_iff, hrecord, Bool.or_eq_true, RecState.carriesTraffic_iff, decide_eq_true_iff, decide_eq_true_iff]

/-- What a serving feeder sends behind its header. -/
theorem Feeder.cycled_of_serving (hn : fd.nextHeader = some hd) (hs : fd.state.serving = true) : ∃ taken,
    fd.downBuffer = taken ++ fd.cycled.downBuffer ∧
      fd.cycled.line = some { header := hd, sent := taken.filter fd.sends } ∧
      fd.cycled.counters = { fd.counters with
        downstreamRefused := satAdd16 fd.counters.downstreamRefused (taken.length - (taken.filter fd.sends).length) } ∧
      ((taken.filter fd.sends).map fun d => d.frame.length + 4).sum ≤ 19440 - hd.bytes.length ∧
      ∀ d rest, fd.cycled.downBuffer = d :: rest → fd.sends d = true ∧
        19440 - hd.bytes.length < ((taken.filter fd.sends).map fun d => d.frame.length + 4).sum + (d.frame.length + 4) := by
  have hcycled : fd.cycled = fd.settled.sendDown := if_pos hs
  have hset := Feeder.settled_of_header hn
  have hline : fd.settled.line = some { header := hd, sent := [] } := by rw [hset]
  have hbuffer : fd.settled.downBuffer = fd.downBuffer := by rw [hset]
  have hcounters : fd.settled.counters = fd.counters := by rw [hset]
  obtain ⟨taken, h1, h2, h3, h4, h5⟩ := fd.settled.drainDown_spec fd.downBuffer (19440 - hd.bytes.length)
  have hgoes : (fun d : DownFrame => decide (d.handle = 0) || (fd.settled.record d.handle).state.carriesTraffic) = fd.sends :=
    funext fd.sends_settled
  rw [hgoes] at h2 h3 h4 h5
  have hsend : fd.settled.sendDown = Feeder.count { fd.settled with
      downBuffer := (fd.settled.drainDown fd.downBuffer (19440 - hd.bytes.length)).2.1
      line := some { header := hd, sent := (fd.settled.drainDown fd.downBuffer (19440 - hd.bytes.length)).1 } }
      .downstreamRefused (fd.settled.drainDown fd.downBuffer (19440 - hd.bytes.length)).2.2 := by
    unfold Feeder.sendDown
    rw [hline, Header.length_bytes]
    dsimp only
    rw [hbuffer]
    rfl
  rw [hcycled, hsend]
  refine ⟨taken, h1, by rw [← h2]; rfl, ?_, h4, h5⟩
  rw [← h3, ← hcounters]
  rfl

theorem Feeder.cycled_of_not_serving (hn : fd.nextHeader = some hd) (hs : ¬ fd.state.serving = true) :
    fd.cycled.line = some { header := hd, sent := [] } ∧ fd.cycled.downBuffer = fd.downBuffer ∧
      fd.cycled.counters = fd.counters := by
  have hcycled : fd.cycled = fd.settled := if_neg hs
  rw [hcycled, Feeder.settled_of_header hn]
  exact ⟨rfl, rfl, rfl⟩

end

end Sys2Proof.Machine

/-! PROOFS. A cycle start without a recovery that ends: both feeders, one after the other (O31). -/
namespace Sys2Proof.Machine

open Sys2Proof

section

variable {s t u v : State} {f : FeederId} {fd : Feeder} {hd : Header} {k : Nat} {r : Record} {a : Arrival}

/-- A feeder behind a cycle start, its own or that of the other feeder alone (R29). -/
def Feeder.begun (fd : Feeder) : Feeder := if fd.starts then fd.cycled else fd

/-- The links to a plan entry that a cycle start releases of a feeder. -/
def Feeder.frees (fd : Feeder) (i : Nat) : Nat := if fd.starts then fd.freed i else 0

/-- The arrivals of a feeder whose decisions a cycle start ends. -/
def Feeder.ending (fd : Feeder) : List Arrival := if fd.starts then fd.lapsing else []

/-- The notices of the decisions that a cycle start ends, raised in its order (R95). -/
def State.noted (s : State) : State :=
  (s.feederA.ending.map (s.expiryNotice .A) ++ s.feederB.ending.map (s.expiryNotice .B)).foldl
    (fun u x => u.raise .decisionExpired x) { s with cycle := s.cycle + 1 }

theorem Feeder.starts_iff (fd : Feeder) : fd.starts = true ↔ fd.nextHeader ≠ none := Option.isSome_iff_ne_none

/-- What follows a feeder's decrements at a cycle start of the timing, without a recovery that ends. -/
theorem State.afterThen_begun (hv : v.fd f = fd.startCycle) :
    v.Staged f (v.afterThen f fd []) ∧ (v.afterThen f fd []).fd f = fd.begun ∧
      (∀ i, i < 512 → (v.afterThen f fd []).planAt i = (v.planAt i).dropLinks (fd.frees i)) ∧
      ∀ u : State, u.SameBoard v →
        ((fd.ending.map (v.expiryNotice f)).foldl (fun u x => u.raise .decisionExpired x) u).SameBoard
          (v.afterThen f fd []) := by
  unfold Feeder.begun Feeder.frees Feeder.ending
  by_cases hs : fd.starts = true
  · simp only [if_pos hs]
    exact State.afterThen_cycled hs (hv.trans (if_pos hs))
  · have hthen : v.afterThen f fd [] = v := if_neg hs
    rw [hthen]
    simp only [if_neg hs]
    exact ⟨.refl f v, hv.trans (if_neg hs), fun i _ => (PlanEntry.dropLinks_zero _).symm, fun u hu => hu⟩

theorem State.afterThen_recoveries (v : State) (f : FeederId) (hdue : fd.starts = true → fd.recoveryDue = []) :
    v.afterThen f fd fd.recoveryDue = v.afterThen f fd [] := by
  by_cases hs : fd.starts = true
  · rw [hdue hs]
  · exact (if_neg hs : v.afterThen f fd _ = v).trans (if_neg hs : v.afterThen f fd _ = v).symm

theorem State.Staged.both (h : s.Staged .A t) (k : t.Staged .B u) : u = { s with
    feederA := u.feederA
    feederB := u.feederB
    plan := u.plan
    notices := u.notices
    noticeOverrun := u.noticeOverrun } := by
  unfold State.Staged at *
  rw [k, h]
  rfl

/-- A cycle start without a recovery that ends. -/
theorem State.startCycle_spec (hr : s.timingRuns = true)
    (hdue : ∀ f, (s.fd f).starts = true → (s.fd f).recoveryDue = []) :
    s.startCycle = { s with
        cycle := s.cycle + 1
        award := none
        feederA := s.startCycle.feederA
        feederB := s.startCycle.feederB
        bars := if barsCount s.feederA.state s.feederB.state s.feederA.starts s.feederB.starts then tickBars s.bars
          else s.bars
        plan := s.startCycle.plan
        notices := s.noted.notices
        noticeOverrun := s.noted.noticeOverrun } ∧
      (∀ f, s.startCycle.fd f = (s.fd f).begun) ∧
      ∀ i, i < 512 → s.startCycle.planAt i = (s.planAt i).dropLinks (s.feederA.frees i + s.feederB.frees i) := by
  let v := s.decremented
  let w := v.afterThen .A s.feederA []
  have hstart : s.startCycle = w.afterThen .B s.feederB [] := by
    rw [State.startCycle_eq s hr, State.afterThen_recoveries (fd := s.feederA) _ .A (hdue .A),
      State.afterThen_recoveries (fd := s.feederB) _ .B (hdue .B)]
  obtain ⟨hstaged1, hfd1, hplan1, hnotices1⟩ := State.afterThen_begun (v := v) (fd := s.feederA) (s.fd_decremented .A)
  have hwB : w.fd .B = s.feederB.startCycle := hstaged1.other.trans (s.fd_decremented .B)
  obtain ⟨hstaged2, hfd2, hplan2, hnotices2⟩ := State.afterThen_begun (v := w) (fd := s.feederB) hwB
  rw [hstart]
  have hfd : ∀ f, (w.afterThen .B s.feederB []).fd f = (s.fd f).begun := by
    intro f
    cases f
    · exact hstaged2.other.trans hfd1
    · exact hfd2
  refine ⟨?_, hfd, fun i hi => ?_⟩
  · have hnoted : s.noted.SameBoard (w.afterThen .B s.feederB []) := by
      have e : w.expiryNotice .B = s.expiryNotice .B := State.expiryNotice_congr fun i hi => ⟨_, hplan1 i hi⟩
      rw [State.noted, List.foldl_append, ← e]
      exact hnotices2 _ (hnotices1 _ ⟨rfl, rfl, rfl, rfl⟩)
    rw [← hnoted.notices, ← hnoted.overrun]
    exact hstaged1.both hstaged2
  · rw [hplan2 i hi, show w.planAt i = _ from hplan1 i hi, PlanEntry.dropLinks_add]
    rfl

end

end Sys2Proof.Machine

/-! PROOFS. The recoveries that a cycle start ends, one after another behind what stops one short of them (O31). -/
namespace Sys2Proof.Machine

open Sys2Proof

section

variable {s t u v : State} {f : FeederId} {fd : Feeder} {h k : Nat} {r : Record}

/-- A HUSHED record whose recovery countdown the next decrement would end, stopped one short of it (R167). -/
def Record.postponed (r : Record) : Record := if r.state = .hushed ∧ r.recCd = 1 then { r with recCd := 2 } else r

/-- A feeder whose own start ends no recovery. -/
def Feeder.postponed (fd : Feeder) : Feeder :=
  if fd.starts then { fd with table := fd.table.map Record.postponed } else fd

/-- The recoveries that a cycle start ends of a feeder, in its order. -/
def Feeder.recoveries (fd : Feeder) : List Nat := if fd.starts then fd.recoveryDue else []

theorem Feeder.recoveryDue_eq (fd : Feeder) : fd.recoveryDue =
    (List.range' 1 255).filter fun h => decide ((fd.record h).state = .hushed ∧ (fd.record h).recCd = 1) := by
  unfold Feeder.recoveryDue
  rw [Feeder.handlesWhere_eq]
  simp only [Bool.decide_and]

theorem Feeder.mem_recoveryDue : h ∈ fd.recoveryDue ↔
    1 ≤ h ∧ h ≤ 255 ∧ (fd.record h).state = .hushed ∧ (fd.record h).recCd = 1 := by
  rw [Feeder.recoveryDue_eq, List.mem_filter, List.mem_range'_1, decide_eq_true_iff, and_assoc]
  refine and_congr_right fun _ => and_congr_left fun _ => ?_
  omega

theorem Feeder.nodup_recoveryDue (fd : Feeder) : fd.recoveryDue.Nodup :=
  (Feeder.pairwise_handlesWhere fd _).imp Nat.ne_of_lt

theorem Feeder.record_postponed (hs : fd.starts = true) (k : Nat) : fd.postponed.record k = (fd.record k).postponed := by
  have e : fd.postponed = { fd with table := fd.table.map Record.postponed } := if_pos hs
  rw [e]
  by_cases hk : 1 ≤ k ∧ k ≤ 255
  · have hlt : k - 1 < 255 := by omega
    rw [Feeder.record_eq_getElem _ k hk.1 hk.2, Feeder.record_eq_getElem _ k hk.1 hk.2, Vector.getElem_map]
  · rw [Feeder.record_of_out _ k (by omega), Feeder.record_of_out _ k (by omega)]
    rfl

theorem Record.postponed_not (r : Record) : ¬ (r.postponed.state = .hushed ∧ r.postponed.recCd = 1) := by
  unfold Record.postponed
  split
  · exact fun e => absurd e.2 (Nat.succ_ne_self 1)
  · next h => exact h

theorem Feeder.recoveries_postponed (fd : Feeder) : fd.postponed.recoveries = [] := by
  by_cases hs : fd.starts = true
  · refine (ite_eq_right_iff.mpr fun _ => ?_)
    rw [Feeder.recoveryDue_eq, List.filter_eq_nil_iff]
    intro k _
    rw [fd.record_postponed hs, decide_eq_true_iff]
    exact Record.postponed_not _
  · have e : fd.postponed = fd := if_neg hs
    rw [e]
    exact if_neg hs

theorem Feeder.postponed_of_none (hl : fd.recoveries = []) : fd.postponed = fd := by
  by_cases hs : fd.starts = true
  · have hdue : fd.recoveryDue = [] := (if_pos hs : fd.recoveries = _).symm.trans hl
    have htable : fd.table.map Record.postponed = fd.table := by
      refine Vector.ext fun i hi => ?_
      rw [Vector.getElem_map]
      refine if_neg fun e => ?_
      have hm : i + 1 ∈ fd.recoveryDue :=
        Feeder.mem_recoveryDue.mpr ⟨by omega, by omega, by rw [Feeder.record_eq_getElem _ _ (by omega) (by omega)]; exact e⟩
      rw [hdue] at hm
      exact List.not_mem_nil hm
    have e : fd.postponed = { fd with table := fd.table.map Record.postponed } := if_pos hs
    rw [e, htable]
  · exact if_neg hs

/-! ## One recovery stopped short of its end -/

/-- A feeder with one recovery countdown stopped one short of its end. -/
def Feeder.delayed (fd : Feeder) (h : Nat) : Feeder := fd.modRecord h (Record.withRecCd 2)

theorem Feeder.delayed_eq (fd : Feeder) (h : Nat) : fd.delayed h = { fd with table := (fd.delayed h).table } :=
  fd.setRecord_eq h _

theorem Feeder.starts_delayed (fd : Feeder) (h : Nat) : (fd.delayed h).starts = fd.starts := by
  rw [Feeder.delayed_eq]
  rfl

theorem Feeder.record_delayed (h1 : 1 ≤ h) (h2 : h ≤ 255) (k : Nat) :
    (fd.delayed h).record k = if h = k then (fd.record h).withRecCd 2 else fd.record k := by
  rw [Feeder.delayed, Feeder.modRecord_eq, Feeder.record_setRecord]
  simp only [h1, h2, and_true]

theorem Feeder.recoveryDue_delayed (h1 : 1 ≤ h) (h2 : h ≤ 255) :
    (fd.delayed h).recoveryDue = fd.recoveryDue.filter fun k => decide (k ≠ h) := by
  rw [Feeder.recoveryDue_eq, Feeder.recoveryDue_eq, List.filter_filter]
  refine List.filter_congr fun k _ => ?_
  rw [Feeder.record_delayed h1 h2]
  by_cases e : h = k
  · subst e
    simp [Record.withRecCd]
  · simp [e, Ne.symm e]

theorem Feeder.postponed_delayed (hs : fd.starts = true) (h1 : 1 ≤ h) (h2 : h ≤ 255) (hst : (fd.record h).state = .hushed)
    (hc : (fd.record h).recCd = 1) : (fd.delayed h).postponed = fd.postponed := by
  have e1 : (fd.delayed h).postponed = { fd with table := (fd.delayed h).table.map Record.postponed } := by
    rw [Feeder.delayed_eq]
    exact if_pos hs
  have e2 : fd.postponed = { fd with table := fd.table.map Record.postponed } := if_pos hs
  rw [e1, e2]
  refine congrArg (fun t => { fd with table := t }) (Vector.ext fun i hi => ?_)
  have hget (x : Feeder) : x.table[i] = x.record (i + 1) := (x.record_eq_getElem (i + 1) (by omega) (by omega)).symm
  rw [Vector.getElem_map, Vector.getElem_map, hget, hget, Feeder.record_delayed h1 h2]
  split
  · next e =>
    subst e
    exact (if_neg fun e => absurd e.2 (Nat.succ_ne_self 1)).trans (if_pos ⟨hst, hc⟩).symm
  · rfl

/-! ## All recoveries of a start -/

theorem State.fd_withRecCd_eq (s : State) (f : FeederId) (h : Nat) (g : FeederId) :
    (s.withRecCd f h 2).fd g = if g = f then (s.fd f).delayed h else s.fd g := by
  rw [State.fd_withRecCd]
  split
  · next e => rw [e]; rfl
  · rfl

theorem State.withRecCd_two (s : State) (f : FeederId) (h : Nat) : s.withRecCd f h 2 = s.modFd f (·.delayed h) := rfl

theorem State.timingRuns_withRecCd (s : State) (f : FeederId) (h : Nat) : (s.withRecCd f h 2).timingRuns = s.timingRuns := by
  have hstate : ((s.withRecCd f h 2).fd f).state = (s.fd f).state ∧
      ((s.withRecCd f h 2).fd f.other).state = (s.fd f.other).state := by
    rw [State.fd_withRecCd_eq, State.fd_withRecCd_eq, if_pos rfl, if_neg (by cases f <;> exact nofun), Feeder.delayed_eq]
    exact ⟨rfl, rfl⟩
  rw [State.timingRuns_eq _ f, State.timingRuns_eq s f, hstate.1, hstate.2]

theorem Feeder.recoveries_of_ne (hl : fd.recoveries ≠ []) : fd.starts = true ∧ fd.recoveryDue = fd.recoveries := by
  by_cases hs : fd.starts = true
  · exact ⟨hs, (if_pos hs).symm⟩
  · exact absurd (if_neg hs) hl

/-- A start that ends recoveries of one feeder leaves what the start leaves that stops them one short of it, followed by
the end of each on its own (R167). -/
theorem State.startCycle_peel (f : FeederId) (hr : s.timingRuns = true)
    (ht : ∀ g, ∀ k ∈ (s.fd g).recoveries, (s.fd g).hunt.target ≠ some k)
    (hB : f = .A → s.feederB.recoveries = [] ∧ (s.feederA.recoveries ≠ [] → s.feederB.starts = true →
      s.feederB.state = .opened → ∀ a ∈ s.feederB.arrivals, ∀ r n, a.status = .held r n → 2 ≤ n)) :
    s.startCycle =
      (s.fd f).recoveries.foldl (fun v h => v.recoveryEnd f h) (s.modFd f Feeder.postponed).startCycle := by
  generalize hl : (s.fd f).recoveries = l
  induction l using List.reverseRecOn generalizing s with
  | nil =>
    rw [State.modFd_of_eq (Feeder.postponed_of_none hl)]
    rfl
  | append_singleton l h ih =>
    have hne : (s.fd f).recoveries ≠ [] := by rw [hl]; exact List.append_ne_nil_of_right_ne_nil l (List.cons_ne_nil h [])
    obtain ⟨hst, hdue⟩ := Feeder.recoveries_of_ne hne
    rw [hl] at hdue
    obtain ⟨h1, h2, hs, hc⟩ : 1 ≤ h ∧ h ≤ 255 ∧ (s.record f h).state = .hushed ∧ (s.record f h).recCd = 1 :=
      Feeder.mem_recoveryDue.mp (by rw [hdue]; exact List.mem_append_right l (List.mem_singleton_self h))
    have hnodup : (l ++ [h]).Nodup := hdue ▸ (s.fd f).nodup_recoveryDue
    have hlne : ∀ k ∈ l, k ≠ h := fun k hk e =>
      (List.nodup_append.mp hnodup).2.2 k hk h (List.mem_singleton_self h) e
    have hfd : (s.withRecCd f h 2).fd f = (s.fd f).delayed h := by rw [State.fd_withRecCd_eq, if_pos rfl]
    have hother (g : FeederId) (e : g ≠ f) : (s.withRecCd f h 2).fd g = s.fd g := by
      rw [State.fd_withRecCd_eq, if_neg e]
    have hdelayed : ((s.fd f).delayed h).recoveryDue = l := by
      rw [Feeder.recoveryDue_delayed h1 h2, hdue, List.filter_append, List.filter_eq_self.mpr fun k hk =>
        decide_eq_true (hlne k hk)]
      simp
    have hlater : ((s.fd f).delayed h).recoveries = l :=
      (if_pos (((s.fd f).starts_delayed h).trans hst)).trans hdelayed
    have hpost : (s.withRecCd f h 2).modFd f Feeder.postponed = s.modFd f Feeder.postponed := by
      rw [State.withRecCd_two, State.modFd_modFd, State.modFd, State.modFd, Feeder.postponed_delayed hst h1 h2 hs hc]
    have htarget : ∀ g, (s.fd g).starts = true → ∀ k ∈ (s.fd g).recoveryDue, (s.fd g).hunt.target ≠ some k :=
      fun g hg k hk => ht g k (by rw [Feeder.recoveries, if_pos hg]; exact hk)
    have hbeside : f = .A → s.feederB.starts = true → s.feederB.recoveryDue = [] ∧ (s.feederB.state = .opened →
        ∀ a ∈ s.feederB.arrivals, ∀ r n, a.status = .held r n → 2 ≤ n) := by
      intro e hstB
      obtain ⟨hnone, hquiet⟩ := hB e
      subst e
      exact ⟨(if_pos hstB : s.feederB.recoveries = _).symm.trans hnone, hquiet hne hstB⟩
    rw [State.startCycle_last s f h l h1 h2 hr hs hc hst hdue hlne (hfd ▸ hdelayed) htarget hbeside, List.foldl_append,
      List.foldl_cons, List.foldl_nil, ← hpost]
    refine congrArg (fun u => State.recoveryEnd u f h) (ih ?_ ?_ ?_ (hfd ▸ hlater))
    · rw [State.timingRuns_withRecCd]
      exact hr
    · intro g k hk
      by_cases e : g = f
      · subst e
        rw [hfd, hlater] at hk
        rw [hfd, Feeder.delayed_eq]
        exact ht g k (by rw [hl]; exact List.mem_append_left _ hk)
      · rw [hother g e] at hk ⊢
        exact ht g k hk
    · intro e
      have hfdB : (s.withRecCd f h 2).feederB = s.feederB := hother .B (by rw [e]; exact nofun)
      obtain ⟨hnone, hquiet⟩ := hB e
      rw [hfdB]
      subst e
      exact ⟨hnone, fun _ => hquiet hne⟩

theorem Feeder.postponed_fixed (fd : Feeder) : fd.postponed = { fd with table := fd.postponed.table } := by
  unfold Feeder.postponed
  split <;> rfl

theorem State.timingRuns_iff (s : State) :
    s.timingRuns = true ↔ s.feederA.state ≠ .closed ∨ s.feederB.state ≠ .closed := by
  unfold State.timingRuns
  rw [Bool.or_eq_true, decide_eq_true_iff, decide_eq_true_iff]

/-- Both feeders with the recoveries of their starts stopped short of their ends. -/
def State.postponed (s : State) : State :=
  { s with feederA := s.feederA.postponed, feederB := s.feederB.postponed }

theorem Feeder.state_postponed (fd : Feeder) : fd.postponed.state = fd.state := by rw [Feeder.postponed_fixed]

theorem State.fd_postponed (s : State) (f : FeederId) : s.postponed.fd f = (s.fd f).postponed := by cases f <;> rfl

theorem State.timingRuns_postponed (s : State) : s.postponed.timingRuns = s.timingRuns := by
  rw [Bool.eq_iff_iff, State.timingRuns_iff, State.timingRuns_iff]
  show s.feederA.postponed.state ≠ _ ∨ s.feederB.postponed.state ≠ _ ↔ _
  rw [Feeder.state_postponed, Feeder.state_postponed]

theorem State.phase_startCycle_postponed (hr : s.timingRuns = true) : s.postponed.startCycle.phase = s.phase := by
  have hdue : ∀ f, (s.postponed.fd f).starts = true → (s.postponed.fd f).recoveryDue = [] := by
    intro f hf
    rw [State.fd_postponed] at hf ⊢
    exact (if_pos hf : (s.fd f).postponed.recoveries = _).symm.trans (Feeder.recoveries_postponed _)
  rw [(State.startCycle_spec (s.timingRuns_postponed.trans hr) hdue).1]
  rfl

/-- A cycle start with its recoveries taken off its end, feeder A's first (R167). -/
theorem State.startCycle_recoveries (hr : s.timingRuns = true)
    (ht : ∀ f, ∀ k ∈ (s.fd f).recoveries, (s.fd f).hunt.target ≠ some k)
    (hB : s.feederA.recoveries ≠ [] → s.feederB.starts = true → s.feederB.state = .opened →
      ∀ a ∈ s.feederB.arrivals, ∀ r n, a.status = .held r n → 2 ≤ n) :
    s.startCycle = (s.feederA.recoveries.map (fun h => (FeederId.A, h)) ++
      s.feederB.recoveries.map fun h => (FeederId.B, h)).foldl (fun v x => v.recoveryEnd x.1 x.2) s.postponed.startCycle := by
  let v := s.modFd .B Feeder.postponed
  have hB1 : s.startCycle = s.feederB.recoveries.foldl (fun v h => v.recoveryEnd .B h) v.startCycle :=
    State.startCycle_peel .B hr ht nofun
  have hA1 : v.startCycle = s.feederA.recoveries.foldl (fun v h => v.recoveryEnd .A h) s.postponed.startCycle := by
    refine State.startCycle_peel (s := v) .A ?_ (fun g k hk => ?_) fun _ => ⟨s.feederB.recoveries_postponed, ?_⟩
    · refine (State.timingRuns_iff v).mpr ?_
      show s.feederA.state ≠ _ ∨ s.feederB.postponed.state ≠ _
      rw [Feeder.state_postponed]
      exact s.timingRuns_iff.mp hr
    · cases g
      · exact ht .A k hk
      · rw [show v.fd .B = s.feederB.postponed from rfl, Feeder.recoveries_postponed] at hk
        exact absurd hk List.not_mem_nil
    · show _ → s.feederB.postponed.starts = true → s.feederB.postponed.state = .opened →
        ∀ a ∈ s.feederB.postponed.arrivals, _
      rw [Feeder.postponed_fixed]
      exact hB
  rw [List.foldl_append, List.foldl_map, List.foldl_map, ← hA1, ← hB1]

/-- Ends of recoveries on their own, one after another, as rows. -/
theorem foldl_recoveryEnd (g : Host.Outcome State Fault Refusal → FeederId × Nat → Host.Outcome State Fault Refusal)
    (hg : ∀ v x, g (.next v) x = exec (.recoveryExpiry x.1 x.2) v) (l : List (FeederId × Nat)) (hp : u.phase = .running) :
    l.foldl g (.next u) = .next (l.foldl (fun v x => v.recoveryEnd x.1 x.2) u) := by
  induction l generalizing u with
  | nil => rfl
  | cons x l ih =>
    have hexec : exec (.recoveryExpiry x.1 x.2) u = .next (u.recoveryEnd x.1 x.2) := exec_event_running rfl hp
    obtain ⟨-, -, hrest, -⟩ := feederEventsLeaveTheRest _ x.1 _ _ rfl hexec
    rw [List.foldl_cons, List.foldl_cons, hg, hexec]
    exact ih (by rw [hrest]; exact hp)

end

end Sys2Proof.Machine

/-! PROOFS. O31: the cycle start, from its feeders' starts, its frame and its recoveries. -/
namespace Sys2Proof.Machine

open Sys2Proof

section

variable {s : State}

theorem exec_cycleStart (hp : s.phase = .running) : exec .cycleStart s = .next s.startCycle :=
  whenRunning_of_running (op := (·.startCycle)) hp

theorem State.startCycle_of_closed (hA : s.feederA.state = .closed) (hB : s.feederB.state = .closed) : s.startCycle = s :=
  if_neg fun hr => (s.timingRuns_iff.mp hr).elim (· hA) (· hB)

/-- When the hold countdowns of the Bar List count (R24). -/
theorem barsCount_iff (a b : Feeder) : barsCount a.state b.state a.starts b.starts = true ↔
    ((a.state = .opened ∨ a.state = .paused) ∧ a.nextHeader ≠ none) ∨
      ¬ (a.state = .opened ∨ a.state = .paused) ∧ (b.state = .opened ∨ b.state = .paused) ∧ b.nextHeader ≠ none := by
  unfold barsCount
  rw [← FeederState.serving_iff, ← FeederState.serving_iff, ← Feeder.starts_iff, ← Feeder.starts_iff]
  by_cases ha : a.state.serving = true
  · simp [ha]
  · simp [ha]

end

/-- The records whose drain ends, as the queues are filtered by them. -/
theorem Record.not_drains (r : Record) :
    (!r.drains) = decide (¬ (r.state = .ejected ∧ (r.drain = some 0 ∨ r.drain = some 1))) := by
  rw [decide_not]
  rfl

/-- Settles O31: each feeder's own start is worked out from its decrements, its teardowns, its decisions and its
downstream frames; the recoveries are taken off the end of the start one by one. -/
theorem cycleStartCountsDown : Obligations.CycleStartCountsDown := by
  intro s hp
  refine ⟨fun hA hB => ?_, fun hopen hhushed hserials => ?_, fun hopen => ?_⟩
  · rw [exec_cycleStart hp, State.startCycle_of_closed hA hB]
  · intro serves starts drains lapsing lapses noted freed
    have hr := s.timingRuns_iff.mpr hopen
    have hdue : ∀ f, (s.fd f).starts = true → (s.fd f).recoveryDue = [] := by
      intro f hf
      refine List.eq_nil_iff_forall_not_mem.mpr fun h hm => ?_
      obtain ⟨-, -, hs, hc⟩ := Feeder.mem_recoveryDue.mp hm
      exact hhushed f h ((Feeder.starts_iff _).mp hf) ⟨hs, hc⟩
    obtain ⟨hframe, hfd, hplan⟩ := State.startCycle_spec hr hdue
    have hbars := congrArg State.bars hframe
    dsimp only at hbars
    have hlapses (f : FeederId) : lapses f = (s.fd f).ending.map (s.expiryNotice f) := by
      show (if _ then _ else _) = _
      unfold Feeder.ending Feeder.lapsing
      simp only [← Feeder.starts_iff]
      by_cases hf : (s.fd f).starts = true <;> by_cases ho : (s.fd f).state = .opened <;> simp only [hf, ho] <;> rfl
    have hnoted : noted = s.noted := by
      show (lapses .A ++ lapses .B).foldl _ _ = _
      rw [hlapses, hlapses]
      rfl
    have hfreed (f : FeederId) (i : Nat) : freed f i = (s.fd f).frees i :=
      if_congr (Feeder.starts_iff _).symm rfl rfl
    refine ⟨s.startCycle, exec_cycleStart hp, ?_, fun hc => ?_, fun hc => ?_, fun i hi => ?_, fun f => ⟨fun hf => ?_, ?_⟩⟩
    · rw [← hbars, ← hnoted] at hframe
      exact hframe
    · exact hbars.trans (if_pos ((barsCount_iff _ _).mpr hc))
    · exact hbars.trans (if_neg fun e => hc ((barsCount_iff _ _).mp e))
    · have hk : freed .A i + freed .B i = s.feederA.frees i + s.feederB.frees i := by rw [hfreed, hfreed]; rfl
      intro e k
      rw [hplan i hi, ← hk]
      exact ⟨fun he => PlanEntry.dropLinks_of_exact he k, fun he => PlanEntry.dropLinks_of_pattern he k⟩
    · exact (hfd f).trans (if_neg (mt (Feeder.starts_iff _).mp hf))
    · intro hd hn
      have hx : s.startCycle.fd f = (s.fd f).cycled :=
        (hfd f).trans (if_pos ((Feeder.starts_iff _).mpr (by rw [hn]; exact nofun)))
      rw [hx]
      obtain ⟨hstate, hseq, hroot, hgap, htable, harrivals, hexpired, harmed⟩ := Feeder.cycled_fixed hn
      refine ⟨?_, ?_, ?_, ?_, ?_, ?_, ?_, ?_, ?_, ?_, ?_, ?_⟩
      · show (s.fd f).cycled = _
        simp only [hstate, hseq, hroot, hgap, htable, harrivals, hexpired, harmed]
        refine (Feeder.cycled_of_header hn).trans ?_
        simp only [Record.not_drains]
        rfl
      · intro hs hc
        rw [hstate, hseq]
        exact Feeder.counted_quiet hs hc
      · intro hs hc
        rw [hstate, hseq, hroot, hgap]
        exact Feeder.counted_purge hs hc
      · intro n h2 hc
        rw [hstate, hseq]
        exact Feeder.counted_within h2 hc
      · intro hs hc
        rw [hstate, hroot, hgap]
        exact Feeder.counted_serving ((FeederState.serving_iff _).mpr hs) hc
      · intro ho
        rw [harrivals, hexpired]
        exact Feeder.settled_of_not_opened hn ho
      · intro ho
        rw [harrivals, hexpired]
        exact Feeder.settled_of_opened hn ho (hserials f)
      · rintro ⟨h, hdrain⟩
        rw [harmed, if_neg fun e => ((s.fd f).drained_counted_eq_nil.mp e) h (Record.drains_iff.mpr hdrain)]
      · intro hnone
        rw [harmed, if_pos ((s.fd f).drained_counted_eq_nil.mpr fun h hd => hnone h (Record.drains_iff.mp hd))]
      · intro hs
        exact Feeder.cycled_of_not_serving hn (mt (FeederState.serving_iff _).mp hs)
      · intro hs
        exact Feeder.cycled_of_serving hn ((FeederState.serving_iff _).mpr hs)
      · intro h h1 h2 r
        rw [Feeder.record_cycled, Record.tick_eq]
        exact if_congr Record.drains_iff rfl rfl
  · intro ends due later htarget hquiet
    have hdue (f : FeederId) : due f = (s.fd f).recoveries.map fun h => (f, h) := by
      rw [Feeder.recoveries, Feeder.recoveryDue_eq, apply_ite (List.map _)]
      exact if_congr (Feeder.starts_iff _).symm rfl rfl
    have hlater (fd : Feeder) : later fd = fd.postponed := if_congr (Feeder.starts_iff _).symm rfl rfl
    have hfold := State.startCycle_recoveries (s.timingRuns_iff.mpr hopen)
      (fun f k hk => htarget f k (by rw [hdue]; exact List.mem_map_of_mem hk)) fun hA hst => hquiet.elim
        (fun e => absurd (List.map_eq_nil_iff.mp ((hdue .A).symm.trans e)) hA) fun e => e.elim
          (fun e => absurd e ((Feeder.starts_iff _).mp hst)) fun e ho => e.elim (absurd ho) id
    have hphase := State.phase_startCycle_postponed (s.timingRuns_iff.mpr hopen)
    rw [hlater, hlater, hdue, hdue, exec_cycleStart hp, hfold]
    exact ⟨_, exec_cycleStart hp, (foldl_recoveryEnd _ (fun _ _ => rfl) _ (hphase.trans hp)).symm⟩

end Sys2Proof.Machine
